-- ==== Sys2Proof/Word.lean ====
section
/-! DEFINITION. The widths of the machine: bytes, 32-bit lane words, 64-bit pairs and addresses, lane masks. -/

namespace Sys2Proof

/-- One byte of memory. -/
abbrev Byte := BitVec 8
/-- One lane of a register (03 R55). -/
abbrev Word := BitVec 32
/-- A register pair or a latch lane (03 R57, R62). -/
abbrev DWord := BitVec 64
/-- A virtual address as software forms it: bits [63:56] are ignored in use (05 R100). -/
abbrev Addr := BitVec 64
/-- A set of lanes, bit l for lane l (03 R75). -/
abbrev Mask := BitVec 64

end Sys2Proof
end

