-- ==== Sys2Proof/Syntax.lean ====
section
/-! DEFINITION. The instruction set: one constructor for each row of the opcode table.

A row that is a word of the instruction stream carries exactly the fields the table gives it, as they
stand in the word (06 R134 to R148): `y` is the yield bit, `d` the D field (03 R61), `a` and `b` the
source fields (03 R58).  `loop` carries its step word (02 R49) as well.  A row that is no word, an
event of the machine or of its surroundings (95), carries the data that names it; a management command
or an SPDM request finds its data in the state, where the host has placed it (19 R393, 20 R403). -/

namespace Sys2Proof

/-- Where a device register lies (15 R325, 17 R368, 18 R379, 19 R384, R392, R396, 20 R401, R404). -/
inductive RegSpace where
  /-- KIND 3 of a compute die: the byte offset is the die's own. -/
  | die (die : Nat)
  /-- KIND 3 of die 8. -/
  | control
  /-- BAR0 of a PCI Express function, 0 the physical one. -/
  | bar0 (fn : Nat)
  /-- The register part of the window of a launch queue. -/
  | queue (queue : Nat)
  deriving DecidableEq, Repr

/-- The three results of an in-field test (17 R367). -/
inductive TestResult where
  | pass | mfail | fail
  deriving DecidableEq, Repr

/-- What started a module reset (20 R400). -/
inductive ResetCause where
  | powerOn | fundamental | thermal
  deriving DecidableEq, Repr

/-- Where an uncorrectable error strikes (17 R362 to R366). -/
inductive ErrorPlace where
  /-- A 32-byte atom of memory, by the physical address of its first byte. -/
  | atom (pa : Nat)
  /-- One lane of a main register. -/
  | vreg (core res slot reg lane : Nat)
  /-- One lane of an operand-file register. -/
  | oreg (core res slot reg lane : Nat)
  /-- One lane of a latch: `lm` when `mem` is true, else `la`. -/
  | latch (core res slot : Nat) (mem : Bool) (lane : Nat)
  /-- One cell of an accumulator tile. -/
  | cell (core res slot tile cell : Nat)
  /-- A bank register. -/
  | bankReg (pch bank reg : Nat)
  /-- A reduction-tree root. -/
  | root (pch : Nat)
  /-- The filter or region state of a home agent (R364). -/
  | home (stack : Nat)
  /-- The next `count` float evaluations of the core disagree with their shadow or residue (R365). -/
  | shadow (core count : Nat)
  /-- The check copy of a sampled team goes wrong in this epoch (18 R381). -/
  | checkCopy (core res : Nat)
  deriving DecidableEq, Repr

/-- The instructions and events of the machine: one constructor for each row of the opcode table. -/
inductive Instr where
  /-- ILL (R134): Major opcode 0x00 raises a precise ILL trap whatever its other bits hold. -/
  | ill (y : Bool) (x : BitVec 25)
  /-- IADD (R162): Integer add of A and B at the operating width, wrapped or clamped by fit. -/
  | iadd (y : Bool) (d : BitVec 7) (a : BitVec 9) (b : BitVec 9)
  /-- ISUB (R162): Integer subtract B from A at the operating width. -/
  | isub (y : Bool) (d : BitVec 7) (a : BitVec 9) (b : BitVec 9)
  /-- IMUL (R162): Integer multiply giving the low half, or the clamped product under SAT. -/
  | imul (y : Bool) (d : BitVec 7) (a : BitVec 9) (b : BitVec 9)
  /-- IMULH (R162): High half of the exact double-width integer product, never clamped. -/
  | imulh (y : Bool) (d : BitVec 7) (a : BitVec 9) (b : BitVec 9)
  /-- IMAD (R162): Integer multiply-add D + A x B with an exact product. -/
  | imad (y : Bool) (d : BitVec 7) (a : BitVec 9) (b : BitVec 9)
  /-- IMIN (R162): Smaller of A and B in the type's signedness. -/
  | imin (y : Bool) (d : BitVec 7) (a : BitVec 9) (b : BitVec 9)
  /-- IMAX (R162): Larger of A and B in the type's signedness. -/
  | imax (y : Bool) (d : BitVec 7) (a : BitVec 9) (b : BitVec 9)
  /-- AND (R164): Bitwise AND of A and B at width w. -/
  | and (y : Bool) (d : BitVec 7) (a : BitVec 9) (b : BitVec 9)
  /-- OR (R164): Bitwise OR of A and B at width w. -/
  | or (y : Bool) (d : BitVec 7) (a : BitVec 9) (b : BitVec 9)
  /-- XOR (R164): Bitwise XOR of A and B at width w. -/
  | xor (y : Bool) (d : BitVec 7) (a : BitVec 9) (b : BitVec 9)
  /-- ANDN (R164): A AND NOT B at width w. -/
  | andn (y : Bool) (d : BitVec 7) (a : BitVec 9) (b : BitVec 9)
  /-- SHL (R165): Shift A left by a 32-bit unsigned amount in B, wrapping or clamping. -/
  | shl (y : Bool) (d : BitVec 7) (a : BitVec 9) (b : BitVec 9)
  /-- SHR (R165): Shift A right, arithmetic for signed types and logical for unsigned. -/
  | shr (y : Bool) (d : BitVec 7) (a : BitVec 9) (b : BitVec 9)
  /-- BNK_BMODE (R294): Enters all-bank mode on the owned pseudo-channel of A, makes it the bank channel and clears the root. -/
  | bnkBmode (y : Bool) (a : BitVec 9)
  /-- BNK_BEXIT (R294): Waits for the channel's commands to complete, then leaves all-bank mode. -/
  | bnkBexit (y : Bool)
  /-- BNK_BLD (R294): Loads bank register k of each bank in the set from its row and column. -/
  | bnkBld (y : Bool) (k : BitVec 3) (a : BitVec 9)
  /-- BNK_BST (R294): Stores bank register k of each bank in the set to its row and column. -/
  | bnkBst (y : Bool) (k : BitVec 3) (a : BitVec 9)
  /-- BNK_BBC (R294): Broadcasts 32 bytes of the team scratchpad into bank register k of each bank in the set. -/
  | bnkBbc (y : Bool) (k : BitVec 3) (a : BitVec 9)
  /-- BNK_BMAC (R98): Each bank in the set accumulates pair products of a stored f16 column and kv into kd. -/
  | bnkBmac (y : Bool) (v : BitVec 3) (k : BitVec 3) (a : BitVec 9)
  /-- BNK_BRD (R295): Reads the reduction-tree root into the lanes of D. -/
  | bnkBrd (y : Bool) (d : BitVec 7)
  /-- BNK_BRED (R295): Combines register k of the banks in the set through the reduction tree into the root. -/
  | bnkBred (y : Bool) (k : BitVec 3) (o : BitVec 2)
  /-- BNK_BSAVE (R324): Privileged write of every bank register and the root to the pseudo-channel's save row. -/
  | bnkBsave (y : Bool) (a : BitVec 9)
  /-- BNK_BRST (R324): Privileged reload of the bank registers and the root from the save row. -/
  | bnkBrst (y : Bool) (a : BitVec 9)
  /-- IADDI (R163): Integer add of A and a signed 9-bit immediate. -/
  | iaddi (y : Bool) (d : BitVec 7) (a : BitVec 9) (i : BitVec 9)
  /-- ANDI (R163): A AND the immediate at width w. -/
  | andi (y : Bool) (d : BitVec 7) (a : BitVec 9) (i : BitVec 9)
  /-- ORI (R163): A OR the immediate at width w. -/
  | ori (y : Bool) (d : BitVec 7) (a : BitVec 9) (i : BitVec 9)
  /-- XORI (R163): A XOR the immediate at width w. -/
  | xori (y : Bool) (d : BitVec 7) (a : BitVec 9) (i : BitVec 9)
  /-- SHLI (R166): Shift A left by an immediate amount below w. -/
  | shli (y : Bool) (d : BitVec 7) (a : BitVec 9) (n : BitVec 6)
  /-- SHRI (R166): Shift A right by an immediate amount below w. -/
  | shri (y : Bool) (d : BitVec 7) (a : BitVec 9) (n : BitVec 6)
  /-- ROTI (R166): Rotate the w-bit value of A left by an immediate amount. -/
  | roti (y : Bool) (d : BitVec 7) (a : BitVec 9) (n : BitVec 6)
  /-- MOVW (R167): Writes an 18-bit immediate sign-extended to 32 bits. -/
  | movw (y : Bool) (d : BitVec 7) (i : BitVec 18)
  /-- MOVHI (R167): Replaces bits [31:14] of D with the 18-bit immediate. -/
  | movhi (y : Bool) (d : BitVec 7) (i : BitVec 18)
  /-- ICMP (R168): Integer compare of A and B writing a predicate in each active lane. -/
  | icmp (y : Bool) (c : BitVec 4) (p : BitVec 3) (a : BitVec 9) (b : BitVec 9)
  /-- ICMPI (R168): Integer compare of A with a sign-extended immediate writing a predicate. -/
  | icmpi (y : Bool) (c : BitVec 4) (p : BitVec 3) (a : BitVec 9) (i : BitVec 9)
  /-- SEL (R170): Chooses A or B per lane by the choice predicate MODE.CP. -/
  | sel (y : Bool) (d : BitVec 7) (a : BitVec 9) (b : BitVec 9)
  /-- NOT (R171): Bitwise NOT of A at width w. -/
  | not (y : Bool) (d : BitVec 7) (a : BitVec 9)
  /-- NEG (R171): Negation of A, wrapped or clamped. -/
  | neg (y : Bool) (d : BitVec 7) (a : BitVec 9)
  /-- ABS (R171): Absolute value of A, wrapped or clamped. -/
  | abs (y : Bool) (d : BitVec 7) (a : BitVec 9)
  /-- CLZ (R171): Count of leading zero bits of A. -/
  | clz (y : Bool) (d : BitVec 7) (a : BitVec 9)
  /-- CTZ (R171): Count of trailing zero bits of A. -/
  | ctz (y : Bool) (d : BitVec 7) (a : BitVec 9)
  /-- POPC (R171): Count of set bits of A. -/
  | popc (y : Bool) (d : BitVec 7) (a : BitVec 9)
  /-- BREV (R171): Reverses the w bits of A. -/
  | brev (y : Bool) (d : BitVec 7) (a : BitVec 9)
  /-- BSWAP (R171): Reverses the bytes of A. -/
  | bswap (y : Bool) (d : BitVec 7) (a : BitVec 9)
  /-- SEXTB (R171): Sign-extends bits [7:0] of A. -/
  | sextb (y : Bool) (d : BitVec 7) (a : BitVec 9)
  /-- SEXTH (R171): Sign-extends bits [15:0] of A. -/
  | sexth (y : Bool) (d : BitVec 7) (a : BitVec 9)
  /-- ZEXTB (R171): Zero-extends bits [7:0] of A. -/
  | zextb (y : Bool) (d : BitVec 7) (a : BitVec 9)
  /-- ZEXTH (R171): Zero-extends bits [15:0] of A. -/
  | zexth (y : Bool) (d : BitVec 7) (a : BitVec 9)
  /-- BFX (R172): Extracts a bit field of A at the position and length in B. -/
  | bfx (y : Bool) (d : BitVec 7) (a : BitVec 9) (b : BitVec 9)
  /-- BFI (R173): Inserts the low bits of A into a field of D. -/
  | bfi (y : Bool) (d : BitVec 7) (a : BitVec 9) (b : BitVec 9)
  /-- BALLOT (R175): Uniform mask of the active lanes whose A is nonzero. -/
  | ballot (y : Bool) (d : BitVec 7) (a : BitVec 9)
  /-- ANYL (R175): 1 if any active lane holds a nonzero value. -/
  | anyl (y : Bool) (d : BitVec 7) (a : BitVec 9)
  /-- ALLL (R175): 1 if every active lane holds a nonzero value. -/
  | alll (y : Bool) (d : BitVec 7) (a : BitVec 9)
  /-- POPL (R175): Number of active lanes holding a nonzero value. -/
  | popl (y : Bool) (d : BitVec 7) (a : BitVec 9)
  /-- FIRSTL (R175): Lowest active lane holding a nonzero value. -/
  | firstl (y : Bool) (d : BitVec 7) (a : BitVec 9)
  /-- READL (R175): Value of A at the lowest active lane, written uniformly. -/
  | readl (y : Bool) (d : BitVec 7) (a : BitVec 9)
  /-- PSUMI (R175): Integer prefix sum over active lanes. -/
  | psumi (y : Bool) (d : BitVec 7) (a : BitVec 9)
  /-- RSUMI (R175): Integer sum over all active lanes. -/
  | rsumi (y : Bool) (d : BitVec 7) (a : BitVec 9)
  /-- RMIN (R175): Minimum over the active lanes. -/
  | rmin (y : Bool) (d : BitVec 7) (a : BitVec 9)
  /-- RMAX (R175): Maximum over the active lanes. -/
  | rmax (y : Bool) (d : BitVec 7) (a : BitVec 9)
  /-- PSUMF (R97): Float prefix sum by the fixed lane tree. -/
  | psumf (y : Bool) (d : BitVec 7) (a : BitVec 9)
  /-- RSUMF (R97): Float sum over the fixed lane tree. -/
  | rsumf (y : Bool) (d : BitVec 7) (a : BitVec 9)
  /-- SHUF (R177): Each active lane takes A from the source lane that B names. -/
  | shuf (y : Bool) (d : BitVec 7) (a : BitVec 9) (b : BitVec 9)
  /-- BFLYX (R178): Exchanges bit columns of D between partner lanes l and l XOR j under mask A. -/
  | bflyx (y : Bool) (d : BitVec 7) (a : BitVec 9) (j : BitVec 9)
  /-- ENG_CPY (R279): Issues a copy of LEN bytes from SADDR to DADDR and returns a token. -/
  | engCpy (y : Bool) (d : BitVec 7) (a : BitVec 9)
  /-- ENG_CPY2D (R280): Issues a strided copy of ROWS rows and returns a token. -/
  | engCpy2d (y : Bool) (d : BitVec 7) (a : BitVec 9)
  /-- ENG_CPYG (R281): Issues a gather of indexed table rows and returns a token. -/
  | engCpyg (y : Bool) (d : BitVec 7) (a : BitVec 9)
  /-- ENG_CPYS (R281): Issues a scatter of rows into indexed table rows and returns a token. -/
  | engCpys (y : Bool) (d : BitVec 7) (a : BitVec 9)
  /-- ENG_FILL (R279): Issues a fill of LEN bytes with a 16-byte pattern and returns a token. -/
  | engFill (y : Bool) (d : BitVec 7) (a : BitVec 9)
  /-- ENG_KVC (R283): Issues a key/value commit of the staging rows of a path mask to the cache. -/
  | engKvc (y : Bool) (d : BitVec 7) (a : BitVec 9)
  /-- ENG_SELP (R288): Issues a predicate selection scan to the base-die selection engine. -/
  | engSelp (y : Bool) (d : BitVec 7) (a : BitVec 9)
  /-- ENG_SELK (R288): Issues a top-k selection scan to the base-die selection engine. -/
  | engSelk (y : Bool) (d : BitVec 7) (a : BitVec 9)
  /-- ENG_RDX (R291): Issues an element-wise sum of up to 8 f32 buffers to the base-die reduction engine. -/
  | engRdx (y : Bool) (d : BitVec 7) (a : BitVec 9)
  /-- ENG_LREG (R284): Issues the registration of a landing or wide-cell region. -/
  | engLreg (y : Bool) (d : BitVec 7) (a : BitVec 9)
  /-- ENG_LREV (R285): Issues the revocation of an open region, moving it to CLOSING. -/
  | engLrev (y : Bool) (d : BitVec 7) (a : BitVec 9)
  /-- FADD (R180): Float add rounded once under MODE.RND. -/
  | fadd (y : Bool) (d : BitVec 7) (a : BitVec 9) (b : BitVec 9)
  /-- FSUB (R180): Float subtract rounded once. -/
  | fsub (y : Bool) (d : BitVec 7) (a : BitVec 9) (b : BitVec 9)
  /-- FMUL (R180): Float multiply rounded once. -/
  | fmul (y : Bool) (d : BitVec 7) (a : BitVec 9) (b : BitVec 9)
  /-- FMA (R180): Fused multiply-add D + A x B rounded once. -/
  | fma (y : Bool) (d : BitVec 7) (a : BitVec 9) (b : BitVec 9)
  /-- FMIN (R181): Smaller float operand, NaN passed over. -/
  | fmin (y : Bool) (d : BitVec 7) (a : BitVec 9) (b : BitVec 9)
  /-- FMAX (R181): Larger float operand, NaN passed over. -/
  | fmax (y : Bool) (d : BitVec 7) (a : BitVec 9) (b : BitVec 9)
  /-- FCMP (R169): Float compare writing a predicate in each active lane. -/
  | fcmp (y : Bool) (c : BitVec 4) (p : BitVec 3) (a : BitVec 9) (b : BitVec 9)
  /-- FNEG (R182): Inverts the sign of a float. -/
  | fneg (y : Bool) (d : BitVec 7) (a : BitVec 9)
  /-- FABS (R182): Clears the sign of a float. -/
  | fabs (y : Bool) (d : BitVec 7) (a : BitVec 9)
  /-- FSQRT (R183): Correctly rounded square root. -/
  | fsqrt (y : Bool) (d : BitVec 7) (a : BitVec 9)
  /-- FRCP (R183): Correctly rounded reciprocal. -/
  | frcp (y : Bool) (d : BitVec 7) (a : BitVec 9)
  /-- FRSQ (R183): Correctly rounded reciprocal square root. -/
  | frsq (y : Bool) (d : BitVec 7) (a : BitVec 9)
  /-- FEXP2 (R183): Correctly rounded power of two. -/
  | fexp2 (y : Bool) (d : BitVec 7) (a : BitVec 9)
  /-- FLOG2 (R183): Correctly rounded base-2 logarithm. -/
  | flog2 (y : Bool) (d : BitVec 7) (a : BitVec 9)
  /-- FSINP (R183): Correctly rounded sin(pi x). -/
  | fsinp (y : Bool) (d : BitVec 7) (a : BitVec 9)
  /-- FCOSP (R183): Correctly rounded cos(pi x). -/
  | fcosp (y : Bool) (d : BitVec 7) (a : BitVec 9)
  /-- FFLOOR (R183): Rounds toward minus infinity exactly. -/
  | ffloor (y : Bool) (d : BitVec 7) (a : BitVec 9)
  /-- FCEIL (R183): Rounds toward plus infinity exactly. -/
  | fceil (y : Bool) (d : BitVec 7) (a : BitVec 9)
  /-- FTRUNC (R183): Rounds toward zero exactly. -/
  | ftrunc (y : Bool) (d : BitVec 7) (a : BitVec 9)
  /-- FRINT (R183): Rounds to an integer under MODE.RND. -/
  | frint (y : Bool) (d : BitVec 7) (a : BitVec 9)
  /-- FCLASS (R185): Writes a one-hot class mask of the float operand. -/
  | fclass (y : Bool) (d : BitVec 7) (a : BitVec 9)
  /-- CVT (R187): Converts A from MODE.TYPE to the destination type with the given rounding and SAT. -/
  | cvt (y : Bool) (d : BitVec 7) (a : BitVec 9) (t : BitVec 4) (r : BitVec 3) (s : BitVec 1)
  /-- CVT_W (R188): Collects a wide cell held in a register quad into an f32 using the exponent in D. -/
  | cvtW (y : Bool) (d : BitVec 7) (a : BitVec 9) (r : BitVec 1)
  /-- FDIV (R180): Correctly rounded float division A / B. -/
  | fdiv (y : Bool) (d : BitVec 7) (a : BitVec 9) (b : BitVec 9)
  /-- MOV (R190): Copies A to D bit for bit, keeping the source's shape. -/
  | mov (y : Bool) (d : BitVec 7) (a : BitVec 9)
  /-- GETM (R190): Writes MODE to D as a uniform value. -/
  | getm (y : Bool) (d : BitVec 7)
  /-- GETF (R190): Writes FMT to D as a uniform value. -/
  | getf (y : Bool) (d : BitVec 7)
  /-- GETX (R190): Writes the ply's EXEC to a pair as a uniform value. -/
  | getx (y : Bool) (d : BitVec 7)
  /-- GETG (R190): Writes GANG to D as a uniform value. -/
  | getg (y : Bool) (d : BitVec 7)
  /-- GETL (R190): Writes the ply's LINK to a pair. -/
  | getl (y : Bool) (d : BitVec 7)
  /-- SETL (R190): Sets the ply's LINK from a U pair. -/
  | setl (y : Bool) (a : BitVec 9)
  /-- SETMODE (R191): Sets MODE from a U operand, ILL on a reserved value. -/
  | setmode (y : Bool) (a : BitVec 9)
  /-- SETFMT (R191): Sets FMT from a U operand, ILL on a reserved value. -/
  | setfmt (y : Bool) (a : BitVec 9)
  /-- SETEXEC (R191): Sets the ply's EXEC to A AND its ply mask. -/
  | setexec (y : Bool) (a : BitVec 9)
  /-- SETGANG (R191): Sets GANG, ILL on a reserved mask or one without the writer's quadrant. -/
  | setgang (y : Bool) (a : BitVec 9)
  /-- QRND (R192): Computes the scrambled quasi-random draw for an index and dimension from the current table. -/
  | qrnd (y : Bool) (d : BitVec 7) (a : BitVec 9) (b : BitVec 9)
  /-- TANC (R268): Writes each lane's ancestor-or-self mask from the parent array. -/
  | tanc (y : Bool) (d : BitVec 7) (a : BitVec 9)
  /-- TDEP (R268): Writes each lane's depth in the draft tree. -/
  | tdep (y : Bool) (d : BitVec 7) (a : BitVec 9)
  /-- TPATH (R269): Writes the uniform ancestor mask of leaf A over the parent array in D. -/
  | tpath (y : Bool) (d : BitVec 7) (a : BitVec 9)
  /-- MMA (R257): Issues a solo or gang matrix multiply-accumulate into a tile, arriving at the rendezvous latch. -/
  | mma (y : Bool) (t : BitVec 4) (a : BitVec 9) (b : BitVec 9)
  /-- TZERO (R244): Sets every cell of a tile to zero and clears its live bit. -/
  | tzero (y : Bool) (t : BitVec 4)
  /-- TLD (R263): Loads a 4 KiB tile image from memory into a tile. -/
  | tld (y : Bool) (t : BitVec 4) (a : BitVec 9)
  /-- TST (R263): Stores a tile's 4 KiB image to memory. -/
  | tst (y : Bool) (t : BitVec 4) (a : BitVec 9)
  /-- TRD (R264): Reads tile cells into the lanes of D. -/
  | trd (y : Bool) (d : BitVec 7) (a : BitVec 9)
  /-- TWR (R264): Writes the lanes of D into tile cells. -/
  | twr (y : Bool) (d : BitVec 7) (a : BitVec 9)
  /-- META (R263): Loads 512 bytes into metadata slot FMT.SSLOT. -/
  | metaSlot (y : Bool) (a : BitVec 9)
  /-- SCALE (R263): Loads 2,048 bytes into scale slot FMT.SSLOT. -/
  | scale (y : Bool) (a : BitVec 9)
  /-- TCVT (R265): Converts tile cells into packed f16, bf16 or plane values per lane. -/
  | tcvt (y : Bool) (d : BitVec 7) (a : BitVec 9)
  /-- TROWMAX (R266): Writes the largest cell of a tile row in each lane. -/
  | trowmax (y : Bool) (d : BitVec 7) (a : BitVec 9)
  /-- LD (R222): Issues a near load of the given size for each active lane. -/
  | ld (y : Bool) (d : BitVec 7) (a : BitVec 9) (s : BitVec 3) (o : BitVec 6)
  /-- ST (R223): Issues a near store of the given size for each active lane. -/
  | st (y : Bool) (d : BitVec 7) (a : BitVec 9) (s : BitVec 3) (o : BitVec 6)
  /-- LDX (R224): Issues a near load at A + B with width from MODE.TYPE. -/
  | ldx (y : Bool) (d : BitVec 7) (a : BitVec 9) (b : BitVec 9)
  /-- STX (R224): Issues a near store at A + B with width from MODE.TYPE. -/
  | stx (y : Bool) (d : BitVec 7) (a : BitVec 9) (b : BitVec 9)
  /-- ATOM (R228): Issues a near atomic read-modify-write at its scope's place of execution, old value to lm. -/
  | atom (y : Bool) (o : BitVec 4) (s : BitVec 3) (a : BitVec 9) (b : BitVec 9)
  /-- CAS (R229): Issues a near compare-and-swap returning the old value to D and lm. -/
  | cas (y : Bool) (d : BitVec 7) (a : BitVec 9) (b : BitVec 9)
  /-- POST (R230): Issues a returnless near or far update, one packet per active lane when far. -/
  | post (y : Bool) (o : BitVec 4) (s : BitVec 3) (a : BitVec 9) (b : BitVec 9)
  /-- FETCH (R234): Issues far read requests whose replies land in a landing region. -/
  | fetch (y : Bool) (z : BitVec 3) (a : BitVec 9) (b : BitVec 9)
  /-- FENCE (R239): Captures earlier accesses on the named paths and writes a fence token. -/
  | fence (y : Bool) (d : BitVec 7) (p : BitVec 6) (s : BitVec 3)
  /-- WAITT (R240): Waits until a token completes; completion is an acquire. -/
  | waitt (y : Bool) (a : BitVec 9)
  /-- WAITC (R241): Waits until a path counter is at or below a threshold. -/
  | waitc (y : Bool) (a : BitVec 9) (p : BitVec 3)
  /-- MON (R216): Arms a monitor on a word and waits until it is at or above a value. -/
  | mon (y : Bool) (d : BitVec 7) (a : BitVec 9) (b : BitVec 9)
  /-- BINIT (R43): Initialises a team barrier's count and reload, releasing waiters. -/
  | binit (y : Bool) (a : BitVec 9)
  /-- BARV (R43): Arrives at a team barrier without waiting. -/
  | barv (y : Bool) (a : BitVec 9)
  /-- BWAIT (R43): Waits at a team barrier for the fibre's pending completion. -/
  | bwait (y : Bool) (d : BitVec 7) (a : BitVec 9)
  /-- BSYNC (R43): Arrives at a team barrier and then waits. -/
  | bsync (y : Bool) (d : BitVec 7) (a : BitVec 9)
  /-- FBAR (R30): Fibre-local barrier over a mask of spindle positions. -/
  | fbar (y : Bool) (a : BitVec 9)
  /-- BQRY (R213): Returns the state, pending bit, count and reload of a barrier. -/
  | bqry (y : Bool) (d : BitVec 7) (a : BitVec 9)
  /-- JMP (R195): Unconditional PC-relative jump. -/
  | jmp (y : Bool) (o : BitVec 18)
  /-- CALL (R195): PC-relative call setting the ply's LINK. -/
  | call (y : Bool) (o : BitVec 18)
  /-- BRA (R195): Uniform branch taken when any EXEC lane takes it. -/
  | bra (y : Bool) (p : BitVec 3) (n : BitVec 1) (o : BitVec 18)
  /-- BRL (R195): Uniform branch taken when every EXEC lane takes it. -/
  | brl (y : Bool) (p : BitVec 3) (n : BitVec 1) (o : BitVec 18)
  /-- BRD (R31): Divergent branch splitting the ply into taken and fall-through sets. -/
  | brd (y : Bool) (p : BitVec 3) (n : BitVec 1) (o : BitVec 18)
  /-- JMPR (R197): Jumps to the address in a U register. -/
  | jmpr (y : Bool) (a : BitVec 9)
  /-- CALLR (R197): Calls the address in a U register, setting LINK. -/
  | callr (y : Bool) (a : BitVec 9)
  /-- RET (R197): Jumps to the ply's LINK. -/
  | ret (y : Bool)
  /-- LOOP (R199): Captures a body of 1 to 32 words after its step word and replays it count times with stepped operands. -/
  | loop (y : Bool) (c : BitVec 6) (l : BitVec 5) (step : BitVec 32)
  /-- NOP (R201): Has no effect. -/
  | nop (y : Bool)
  /-- EXIT (R202): Removes every lane of the ply mask from the fibre's lane set. -/
  | exit (y : Bool)
  /-- EXITN (R203): Pushes each active lane into a spawn bin under its successor address and removes it. -/
  | exitn (y : Bool) (a : BitVec 9)
  /-- SPAWN (R204): Pushes one spawn-bin entry per active lane under the target address. -/
  | spawn (y : Bool) (a : BitVec 9)
  /-- JOIN (R32): Pops the reconvergence stack or merges the plies. -/
  | join (y : Bool)
  /-- YIELD (R206): Passes the spindle to the next READY fibre. -/
  | yield (y : Bool)
  /-- TRAP (R208): Raises a SOFT trap with a 32-bit code. -/
  | trap (y : Bool) (a : BitVec 9)
  /-- TRET (R209): Leaves the handler, restoring state from the frame and resuming at or after the trapping instruction. -/
  | tret (y : Bool) (a : BitVec 9)
  /-- RDCLK (R206): Writes the core's 64-bit cycle counter to a pair. -/
  | rdclk (y : Bool) (d : BitVec 7)
  /-- LAUNCH (R210): Submits a launch header to the context's device-launch queue. -/
  | launch (y : Bool) (d : BitVec 7) (a : BitVec 9)
  /-- NOPRE (R211): Opens a no-pre-emption section and starts its budget. -/
  | nopre (y : Bool)
  /-- PREOK (R211): Closes a no-pre-emption section, letting deferred saves proceed. -/
  | preok (y : Bool)
  /-- QTAB (R299): Loads a quasi-random table into a slot and makes it the fibre's current table. -/
  | qtab (y : Bool) (d : BitVec 7) (a : BitVec 9)
  /-- PCOWN (R293): Takes ownership of a pseudo-channel for BNK. -/
  | pcown (y : Bool) (d : BitVec 7) (a : BitVec 9)
  /-- PCREL (R293): Gives up ownership of a pseudo-channel, leaving all-bank mode first. -/
  | pcrel (y : Bool) (a : BitVec 9)
  /-- SETTH (R207): Sets or removes the team's trap handler address. -/
  | setth (y : Bool) (a : BitVec 9)
  /-- CTXSAVE (R322): Privileged request to save the team of a core residency to a save area. -/
  | ctxsave (y : Bool) (d : BitVec 7) (a : BitVec 9)
  /-- CTXLD (R322): Privileged request to restore a saved team onto a core residency. -/
  | ctxld (y : Bool) (d : BitVec 7) (a : BitVec 9)
  /-- HALTF (R323): Privileged kill of the fibre in a named slot. -/
  | haltf (y : Bool) (d : BitVec 7) (a : BitVec 9)
  /-- SPINDLE_YIELD_ON_STALL (R26): When every stalled ply has Y set, the spindle passes to its next READY fibre. -/
  | spindleYieldOnStall (core quadrant spindle : Nat)
  /-- LOAD_DATA_RETURN (R405): Returned load, old value or status data is written to D and lm and the ld counter falls. -/
  | loadDataReturn (core op : Nat)
  /-- NEAR_ACCESS_PERFORMED (R121): A near store, atomic or near POST is performed at DIE and returns, lowering c.st. -/
  | nearAccessPerformed (core op : Nat)
  /-- MONITOR_REEVALUATE (R216): A write performed to a monitored word re-reads it and releases the MON with status 0 when met. -/
  | monitorReevaluate (core res slot : Nat)
  /-- SPAWN_BIN_TIMER_EXPIRY (R39): A FILLING spawn bin's 4,096-cycle timer reaches 0 and the bin becomes EXPIRED. -/
  | spawnBinTimerExpiry (core res bin : Nat)
  /-- SPAWN_BIN_LAUNCH (R40): A FULL or EXPIRED bin launches a fibre from its oldest entries when a slot within the limit frees. -/
  | spawnBinLaunch (core res : Nat)
  /-- SPAWN_DEADLOCK (R42): Every live fibre stalled at SPAWN or EXITN with no bin able to launch freezes the team. -/
  | spawnDeadlock (core res : Nat)
  /-- LONG_WAIT_SWAP (R45): After 2^18 cycles with every fibre waiting and a team pending, the core drains and saves the team. -/
  | longWaitSwap (core res : Nat)
  /-- QUANTUM_END (R339): A team's quantum count reaches QUANT and it is saved if an eligible team waits. -/
  | quantumEnd (core res : Nat)
  /-- NOPRE_BUDGET_EXPIRY (R361): A no-pre-emption section's budget runs out, closing it and raising SOFT cause 1. -/
  | nopreBudgetExpiry (core res slot : Nat)
  /-- TEAM_SAVE_COMPLETE (R318): A drained team's context is written to its save area and SAVED is written as a release. -/
  | teamSaveComplete (core res : Nat)
  /-- TEAM_RESTORE (R54): A saved team is restored onto a core and its waiting fibres re-evaluate. -/
  | teamRestore (core res : Nat)
  /-- TEAM_END (R53): When every fibre is DONE or FROZEN and no bin can launch, the team ends and its slots free. -/
  | teamEnd (core res : Nat)
  /-- GANG_START (R255): A complete gang starts when every member's matrix slice is free, making members READY. -/
  | gangStart (core res group : Nat)
  /-- MMA_COMPLETE (R258): A started MMA finishes its cycles and writes each member's tile. -/
  | mmaComplete (core res run : Nat)
  /-- WALK_COMPLETE (R347): A page-table walk returns, filling the translation cache or reporting a fault. -/
  | walkComplete (core walk : Nat)
  /-- FAULT_SERVICE (R351): The control die serves an NP or PERM fault on demand or posts a translation-fault event. -/
  | faultService (fault : Nat)
  /-- INVALIDATION (R353): A die drops the page's translations and fills and abandons monitors on the page. -/
  | invalidation (inv die : Nat)
  /-- INVALIDATION_ACK (R353): After every access using a dropped translation has finished, the die acknowledges the invalidation. -/
  | invalidationAck (inv die : Nat)
  /-- INVALIDATION_ACK_RECEIPT (R353): The control die counts an acknowledgement and completes the mapping command at its target. -/
  | invalidationAckReceipt (inv die : Nat)
  /-- ENGINE_ACCEPT (R275): An engine accepts a READY command when it has room, in order of readiness. -/
  | engineAccept (core res : Nat)
  /-- BASE_DIE_COMMAND_START (R286): A base-die engine starts its next queued command in arrival order. -/
  | baseDieCommandStart (stack : Nat)
  /-- ENG_COMMAND_COMPLETE (R275): An engine command's last effect is performed: STATUS is written, locks free and the token completes. -/
  | engCommandComplete (core res entry : Nat)
  /-- FENCE_COMPLETE (R237): Every access captured by a fence is performed, freeing its fence slot. -/
  | fenceComplete (core res slot fslot : Nat)
  /-- BNK_COMMAND_COMPLETE (R294): A BNK command completes at its pseudo-channel and c.bank falls. -/
  | bnkCommandComplete (pch : Nat)
  /-- FAR_RETRANSMIT (R109): A sender's retransmission interval passes without acknowledgement and it sends another copy. -/
  | farRetransmit (tag : Nat)
  /-- DELIVERY_FAILURE (R109): The delivery bound passes without acknowledgement and the sender posts a delivery-failure event. -/
  | deliveryFailure (tag : Nat)
  /-- FAR_COPY_AGE_EXPIRY (R108): A held far copy's age reaches 0 and the holder drops it. -/
  | farCopyAgeExpiry (copy : Nat)
  /-- ROUTER_FORWARD (R383): A router takes a packet from a die link, drops it on CRC failure, charges its age and forwards it. -/
  | routerForward (copy next : Nat) (crcBad : Bool)
  /-- HOME_COPY_RECEIPT (R110): A home filters a far copy, performs the operation once and acknowledges it. -/
  | homeCopyReceipt (copy : Nat)
  /-- FAR_ACK_RECEIPT (R109): An acknowledgement reaches the sender, which stops retransmitting and lets the counter fall. -/
  | farAckReceipt (ack : Nat) (lost : Bool)
  /-- FETCH_LANDING_REPORT (R235): The landing acknowledgement is reported to the requesting core, ending the lane's leg. -/
  | fetchLandingReport (tag : Nat)
  /-- FETCH_LEG_FAILURE (R235): 2D + 2L passes without a landing report and the core posts a delivery-failure event. -/
  | fetchLegFailure (tag : Nat)
  /-- FILTER_TAG_EXPIRY (R111): A duplicate-filter tag's lifetime ends and the home drops it. -/
  | filterTagExpiry (home tag : Nat)
  /-- REGION_FREE (R118): A CLOSING region's 4.1 ms passes and its entry and sidecar space are freed. -/
  | regionFree (stack base : Nat)
  /-- FAR_SEND_RELEASE (R107): 10 ms after a reset agent's last send, the control die releases it to send far packets. -/
  | farSendRelease (agent : Nat)
  /-- RESIDENCY_SWITCH_REQUEST (R316): The control die requests a switch, stopping issue from the current residency. -/
  | residencySwitchRequest (core : Nat)
  /-- RESIDENCY_IDLE_SWITCH (R316): A residency with no RUN or READY fibre for 64 cycles while the other has one starts a switch. -/
  | residencyIdleSwitch (core : Nat)
  /-- DRAIN_COMPLETE (R316): When residency r's pipes and started MMAs have drained, the other residency starts issuing. -/
  | drainComplete (core : Nat)
  /-- DUAL_WRITE (R325): A write of DUAL selects single or dual residency, ignored while a team is placed. -/
  | dualWrite (core : Nat) (value : BitVec 32)
  /-- SWREQ (R316): Writing 1 to SWREQ requests a residency switch. -/
  | swreq (core : Nat) (value : BitVec 32)
  /-- QUANT_WRITE (R325): A write of QUANT sets the quantum, ignored with an event when reserved. -/
  | quantWrite (core : Nat) (value : BitVec 32)
  /-- REGISTER_WRITE (R7): A write to a device register without its own row, with the reserved-value checks. -/
  | registerWrite (space : RegSpace) (offset : Nat) (value : BitVec 64)
  /-- QUEUE_ENABLE_WRITE (R326): A write of ENABLE lets or stops the control die consuming from a queue. -/
  | queueEnableWrite (queue : Nat) (value : BitVec 32)
  /-- ARVADD (R326): A write adds n arrivals to ARVCNT, ignored with an event when reserved. -/
  | arvadd (queue : Nat) (value : BitVec 32)
  /-- QUEUE_SLOT_WRITE (R327): A host write to a queue slot stores whole granules once and discards rewrites with a conflict event. -/
  | queueSlotWrite (queue slot offset : Nat) (bytes : List (BitVec 8))
  /-- QUEUE_CONSUME (R328): The control die consumes the WRITTEN slot at CONSUMED when an arrival is counted, reopening it. -/
  | queueConsume (queue : Nat)
  /-- TEAM_PLACE (R337): As cores free, the control die places the team of the highest list onto the lowest fitting core. -/
  | teamPlace (device : Nat)
  /-- PLACEMENT_AGEING (R338): A list's head team waiting 50 µs starts reserving freed cores. -/
  | placementAgeing (device list : Nat)
  /-- TEST_RUN (R368): Writing 1 to TEST.RUN requests an in-field test of the core pair. -/
  | testRun (core : Nat) (value : BitVec 32)
  /-- INFIELD_TEST_START (R367): Once no NOPRE section is open, the pair's teams are saved and the test runs. -/
  | infieldTestStart (pair : Nat)
  /-- INFIELD_TEST_COMPLETE (R367): The test ends with PASS, MFAIL or FAIL, setting health bits and re-placing teams. -/
  | infieldTestComplete (pair : Nat) (result : TestResult)
  /-- UNCORRECTABLE_ERROR (R362): An uncorrectable error poisons its granule, or takes a home agent down. -/
  | uncorrectableError (place : ErrorPlace)
  /-- HOME_RESTART_PERIOD_END (R364): The restarted home's 4.1 ms discard period ends and it resumes service. -/
  | homeRestartPeriodEnd (stack : Nat)
  /-- EPOCH_END (R374): When every logical core's team has stopped and drained, buffered writes commit and waits are evaluated. -/
  | epochEnd (die : Nat)
  /-- PORT_LINK_CHANGE (R385): A scale-out port's link goes up or down. -/
  | portLinkChange (port : Nat) (up : Bool)
  /-- PORT_INGRESS_PACKET (R387): A port filters an arriving fabric packet by peer and tag and relays or re-acknowledges it. -/
  | portIngressPacket (port : Nat) (sender : Nat) (packet : List (BitVec 8))
  /-- PEER_ENTRY_FETCH_COMPLETE (R389): A missed peer-table entry arrives from the spill region and the waiting packet proceeds. -/
  | peerEntryFetchComplete (pidx : Nat)
  /-- GO (R392): Writing 1 to GO takes the accepted features once STAGE is 4. -/
  | go (fn : Nat) (value : BitVec 32)
  /-- EVENT_RING_CONFIGURE (R396): A write of the ring base or entries resets PROD and CONS. -/
  | eventRingConfigure (fn offset : Nat) (value : BitVec 64)
  /-- MODULE_RESET (R400): Power-on or fundamental reset clears everything but fuses and restarts bring-up. -/
  | moduleReset (cause : ResetCause)
  /-- COMPUTE_DIE_RESET (R20): Clears a compute die's cores and engines; the control die re-places its teams. -/
  | computeDieReset (die : Nat)
  /-- BASE_DIE_RESET (R400): Clears a stack's home agent, filter, engines and regions. -/
  | baseDieReset (stack : Nat)
  /-- PORT_RESET (R400): Clears a scale-out port's link state. -/
  | portReset (port : Nat)
  /-- BOOT_STAGE_ADVANCE (R401): The control die completes a bring-up stage and advances BOOTSTAT.STAGE. -/
  | bootStageAdvance (failedStacks failedDies : List Nat)
  /-- POWER_SAMPLE (R404): Every 100 µs the power manager samples input power and throttles above PLIMIT or 105 °C. -/
  | powerSample (watts : Nat) (hottest : Nat)
  /-- THERMAL_TRIP (R404): A die reaching 115 °C resets the module. -/
  | thermalTrip (die : Nat)
  /-- UNASSIGNED_FUNCTION_CODE (R147): An instruction word whose major is valid but whose function code, branch kind or destination class is unassigned raises a precise ILL trap. -/
  | unassignedFunctionCode (w : BitVec 32)
  /-- COMPUTE_DIE_RESET_RELEASE (R20): A compute die whose cores were held in reset leaves reset, and its cores become available for placement again. -/
  | computeDieResetRelease (die : Nat)
  /-- BASE_DIE_RESET_RELEASE (R400): A base die reset by firmware leaves reset, and its home agent returns to service after its discard period. -/
  | baseDieResetRelease (stack : Nat)
  /-- CREATE_CONTEXT (R313): Creates a context with its mode, privilege and page-table root. -/
  | createContext
  /-- DESTROY_CONTEXT (R313): Destroys a context. -/
  | destroyContext
  /-- MAP (R345): Writes page-table entries for a context. -/
  | map
  /-- UNMAP (R353): Removes a mapping and invalidates its translation across the presence mask. -/
  | unmap
  /-- REGISTER_ON_DEMAND_RANGE (R351): Registers a VA range and frame pool for on-demand fault service. -/
  | registerOnDemandRange
  /-- FAULT_RETRY (R351): Makes the fault service walk again for a pending fault. -/
  | faultRetry
  /-- FAULT_ABORT (R351): Makes a pending fault unresolvable, killing its fibres. -/
  | faultAbort
  /-- CREATE_GRAPH (R332): Copies a graph image and makes its first version. -/
  | createGraph
  /-- EDIT_GRAPH (R333): Makes a new latest version of a graph. -/
  | editGraph
  /-- WRITE_PEER_ENTRY (R389): Writes a peer-table entry. -/
  | writePeerEntry
  /-- ASSIGN_QUEUE (R326): Assigns a launch queue to a function and context. -/
  | assignQueue
  /-- RESYNC (R398): Writes a snapshot summary of contexts, queues, launches, regions, units and faults to the host. -/
  | resync
  /-- CANCEL_LAUNCH (R394): Cancels a launch in drain or kill mode. -/
  | cancelLaunch
  /-- FIRMWARE_DOWNLOAD (R395): Reads, checks and writes a firmware image into a slot. -/
  | firmwareDownload
  /-- GET_VERSION (R403): SPDM request answered with the supported version. -/
  | getVersion
  /-- GET_CAPABILITIES (R403): SPDM request answered with the responder's capabilities. -/
  | getCapabilities
  /-- NEGOTIATE_ALGORITHMS (R403): SPDM request selecting ECDSA P-256 and SHA-256. -/
  | negotiateAlgorithms
  /-- GET_DIGESTS (R403): SPDM request returning certificate chain digests. -/
  | getDigests
  /-- GET_CERTIFICATE (R403): SPDM request returning the certificate chain of slot 0. -/
  | getCertificate
  /-- CHALLENGE (R403): SPDM request answered with a signature of the identity key. -/
  | challenge
  /-- GET_MEASUREMENTS (R403): SPDM request returning the SHA-256 measurements. -/
  | getMeasurements
  /-- UNSUPPORTED_REQUEST (R403): Any other SPDM request receives the UnsupportedRequest error. -/
  | unsupportedRequest
  deriving DecidableEq, Repr

end Sys2Proof
end

