-- ==== Sys2Proof/Decode.lean ====
section
/-! DEFINITION. Decoding the instruction word, and encoding it (06 R134 to R150, 02 R49).

Every 32-bit word decodes.  A word that no row of the opcode table matches is
`unassignedFunctionCode`, whose meaning is the ILL of R150; the other ILL cases of an encoding are
found by the meaning of the row, in the order of R151.  Only bytes that make no whole word are refused. -/

namespace Sys2Proof

/-- Why bytes are no instruction. -/
inductive DecodeError where
  /-- Fewer than four bytes: no whole word (R134). -/
  | truncated
  /-- A `LOOP` word without its step word (02 R49). -/
  | missingStep
  deriving DecidableEq, Repr

/-- The five fields of every word (R134). -/
structure RawWord where
  y : Bool
  op : BitVec 6
  d : BitVec 7
  a : BitVec 9
  b : BitVec 9
  deriving DecidableEq, Repr

/-- The fields of a word. -/
def RawWord.unpack (w : Word) : RawWord :=
  ⟨w.extractLsb' 31 1 = 1, w.extractLsb' 25 6, w.extractLsb' 18 7, w.extractLsb' 9 9, w.extractLsb' 0 9⟩

/-- The word of the fields. -/
def RawWord.pack (r : RawWord) : Word :=
  (BitVec.ofBool r.y) ++ r.op ++ r.d ++ r.a ++ r.b

/-- The words of major 0x0E (06 R143, R147). -/
def decodeBnk (r : RawWord) : Instr :=
  match r.b with
  | 0 => if r.d = 0 then .bnkBmode r.y r.a else .unassignedFunctionCode r.pack
  | 1 => if r.d = 0 ∧ r.a = 0 then .bnkBexit r.y else .unassignedFunctionCode r.pack
  | 2 => if r.d.extractLsb' 3 4 = 0 then .bnkBld r.y (r.d.extractLsb' 0 3) r.a else .unassignedFunctionCode r.pack
  | 3 => if r.d.extractLsb' 3 4 = 0 then .bnkBst r.y (r.d.extractLsb' 0 3) r.a else .unassignedFunctionCode r.pack
  | 4 => if r.d.extractLsb' 3 4 = 0 then .bnkBbc r.y (r.d.extractLsb' 0 3) r.a else .unassignedFunctionCode r.pack
  | 5 => if r.d.extractLsb' 6 1 = 0 then .bnkBmac r.y (r.d.extractLsb' 3 3) (r.d.extractLsb' 0 3) r.a else .unassignedFunctionCode r.pack
  | 6 => if r.a = 0 then .bnkBrd r.y r.d else .unassignedFunctionCode r.pack
  | 7 => if r.d.extractLsb' 5 2 = 0 ∧ r.a = 0 then .bnkBred r.y (r.d.extractLsb' 2 3) (r.d.extractLsb' 0 2) else .unassignedFunctionCode r.pack
  | 8 => if r.d = 0 then .bnkBsave r.y r.a else .unassignedFunctionCode r.pack
  | 9 => if r.d = 0 then .bnkBrst r.y r.a else .unassignedFunctionCode r.pack
  | _ => .unassignedFunctionCode r.pack

/-- The words of major 0x13 (06 R143, R147). -/
def decodeShifti (r : RawWord) : Instr :=
  if r.b.extractLsb' 6 3 = 0 then .shli r.y r.d r.a (r.b.extractLsb' 0 6)
  else if r.b.extractLsb' 6 3 = 2 then .shri r.y r.d r.a (r.b.extractLsb' 0 6)
  else if r.b.extractLsb' 6 3 = 4 then .roti r.y r.d r.a (r.b.extractLsb' 0 6)
  else .unassignedFunctionCode r.pack

/-- The words of major 0x19 (06 R143, R147). -/
def decodeIntx (r : RawWord) : Instr :=
  match r.b with
  | 0 => .not r.y r.d r.a
  | 1 => .neg r.y r.d r.a
  | 2 => .abs r.y r.d r.a
  | 3 => .clz r.y r.d r.a
  | 4 => .ctz r.y r.d r.a
  | 5 => .popc r.y r.d r.a
  | 6 => .brev r.y r.d r.a
  | 7 => .bswap r.y r.d r.a
  | 8 => .sextb r.y r.d r.a
  | 9 => .sexth r.y r.d r.a
  | 10 => .zextb r.y r.d r.a
  | 11 => .zexth r.y r.d r.a
  | _ => .unassignedFunctionCode r.pack

/-- The words of major 0x1C (06 R143, R147). -/
def decodeLane (r : RawWord) : Instr :=
  match r.b with
  | 0 => .ballot r.y r.d r.a
  | 1 => .anyl r.y r.d r.a
  | 2 => .alll r.y r.d r.a
  | 3 => .popl r.y r.d r.a
  | 4 => .firstl r.y r.d r.a
  | 5 => .readl r.y r.d r.a
  | 6 => .psumi r.y r.d r.a
  | 7 => .rsumi r.y r.d r.a
  | 8 => .rmin r.y r.d r.a
  | 9 => .rmax r.y r.d r.a
  | 10 => .psumf r.y r.d r.a
  | 11 => .rsumf r.y r.d r.a
  | _ => .unassignedFunctionCode r.pack

/-- The words of major 0x1F (06 R143, R147). -/
def decodeEng (r : RawWord) : Instr :=
  match r.b with
  | 0 => .engCpy r.y r.d r.a
  | 1 => .engCpy2d r.y r.d r.a
  | 2 => .engCpyg r.y r.d r.a
  | 3 => .engCpys r.y r.d r.a
  | 4 => .engFill r.y r.d r.a
  | 5 => .engKvc r.y r.d r.a
  | 6 => .engSelp r.y r.d r.a
  | 7 => .engSelk r.y r.d r.a
  | 8 => .engRdx r.y r.d r.a
  | 9 => .engLreg r.y r.d r.a
  | 10 => .engLrev r.y r.d r.a
  | _ => .unassignedFunctionCode r.pack

/-- The words of major 0x27 (06 R143, R147). -/
def decodeFx (r : RawWord) : Instr :=
  match r.b with
  | 0 => .fneg r.y r.d r.a
  | 1 => .fabs r.y r.d r.a
  | 2 => .fsqrt r.y r.d r.a
  | 3 => .frcp r.y r.d r.a
  | 4 => .frsq r.y r.d r.a
  | 5 => .fexp2 r.y r.d r.a
  | 6 => .flog2 r.y r.d r.a
  | 7 => .fsinp r.y r.d r.a
  | 8 => .fcosp r.y r.d r.a
  | 9 => .ffloor r.y r.d r.a
  | 10 => .fceil r.y r.d r.a
  | 11 => .ftrunc r.y r.d r.a
  | 12 => .frint r.y r.d r.a
  | 13 => .fclass r.y r.d r.a
  | _ => .unassignedFunctionCode r.pack

/-- The words of major 0x28 (06 R143, R147). -/
def decodeCvt (r : RawWord) : Instr :=
  if r.b.extractLsb' 0 2 = 0 ∧ r.b.extractLsb' 3 6 = 56 then .cvtW r.y r.d r.a (r.b.extractLsb' 2 1)
  else if r.b.extractLsb' 0 1 = 0 then .cvt r.y r.d r.a (r.b.extractLsb' 5 4) (r.b.extractLsb' 2 3) (r.b.extractLsb' 1 1)
  else .unassignedFunctionCode r.pack

/-- The words of major 0x2A (06 R143, R147). -/
def decodeMov (r : RawWord) : Instr :=
  match r.b with
  | 0 => .mov r.y r.d r.a
  | 1 => if r.a = 0 then .getm r.y r.d else .unassignedFunctionCode r.pack
  | 2 => if r.a = 0 then .getf r.y r.d else .unassignedFunctionCode r.pack
  | 3 => if r.a = 0 then .getx r.y r.d else .unassignedFunctionCode r.pack
  | 4 => if r.a = 0 then .getg r.y r.d else .unassignedFunctionCode r.pack
  | 5 => if r.a = 0 then .getl r.y r.d else .unassignedFunctionCode r.pack
  | 6 => if r.d = 0 then .setl r.y r.a else .unassignedFunctionCode r.pack
  | _ => .unassignedFunctionCode r.pack

/-- The words of major 0x2B (06 R143, R147). -/
def decodeSetm (r : RawWord) : Instr :=
  match r.b with
  | 0 => if r.d = 0 then .setmode r.y r.a else .unassignedFunctionCode r.pack
  | 1 => if r.d = 0 then .setfmt r.y r.a else .unassignedFunctionCode r.pack
  | 2 => if r.d = 0 then .setexec r.y r.a else .unassignedFunctionCode r.pack
  | 3 => if r.d = 0 then .setgang r.y r.a else .unassignedFunctionCode r.pack
  | _ => .unassignedFunctionCode r.pack

/-- The words of major 0x2D (06 R143, R147). -/
def decodeTree (r : RawWord) : Instr :=
  match r.b with
  | 0 => .tanc r.y r.d r.a
  | 1 => .tdep r.y r.d r.a
  | 2 => .tpath r.y r.d r.a
  | _ => .unassignedFunctionCode r.pack

/-- The words of major 0x2E (06 R143, R147). -/
def decodeMma (r : RawWord) : Instr :=
  if r.d.extractLsb' 4 3 = 5 then .mma r.y (r.d.extractLsb' 0 4) r.a r.b
  else .unassignedFunctionCode r.pack

/-- The words of major 0x2F (06 R143, R147). -/
def decodeMxf (r : RawWord) : Instr :=
  match r.b with
  | 0 => if r.d.extractLsb' 4 3 = 5 ∧ r.a = 0 then .tzero r.y (r.d.extractLsb' 0 4) else .unassignedFunctionCode r.pack
  | 1 => if r.d.extractLsb' 4 3 = 5 then .tld r.y (r.d.extractLsb' 0 4) r.a else .unassignedFunctionCode r.pack
  | 2 => if r.d.extractLsb' 4 3 = 5 then .tst r.y (r.d.extractLsb' 0 4) r.a else .unassignedFunctionCode r.pack
  | 3 => .trd r.y r.d r.a
  | 4 => .twr r.y r.d r.a
  | 5 => if r.d = 0 then .metaSlot r.y r.a else .unassignedFunctionCode r.pack
  | 6 => if r.d = 0 then .scale r.y r.a else .unassignedFunctionCode r.pack
  | 7 => .tcvt r.y r.d r.a
  | 8 => .trowmax r.y r.d r.a
  | _ => .unassignedFunctionCode r.pack

/-- The words of major 0x37 (06 R143, R147). -/
def decodeFetch (r : RawWord) : Instr :=
  if r.d.extractLsb' 0 4 = 0 then .fetch r.y (r.d.extractLsb' 4 3) r.a r.b
  else .unassignedFunctionCode r.pack

/-- The words of major 0x38 (06 R143, R147). -/
def decodeFence (r : RawWord) : Instr :=
  if r.a = 0 then .fence r.y r.d (r.b.extractLsb' 3 6) (r.b.extractLsb' 0 3)
  else .unassignedFunctionCode r.pack

/-- The words of major 0x39 (06 R143, R147). -/
def decodeWait (r : RawWord) : Instr :=
  if r.d = 0 ∧ r.b = 0 then .waitt r.y r.a
  else if r.d = 0 ∧ r.b.extractLsb' 3 6 = 1 then .waitc r.y r.a (r.b.extractLsb' 0 3)
  else .unassignedFunctionCode r.pack

/-- The words of major 0x3B (06 R143, R147). -/
def decodeBar (r : RawWord) : Instr :=
  match r.b with
  | 0 => if r.d = 0 then .binit r.y r.a else .unassignedFunctionCode r.pack
  | 1 => if r.d = 0 then .barv r.y r.a else .unassignedFunctionCode r.pack
  | 2 => .bwait r.y r.d r.a
  | 3 => .bsync r.y r.d r.a
  | 4 => if r.d = 0 then .fbar r.y r.a else .unassignedFunctionCode r.pack
  | 5 => .bqry r.y r.d r.a
  | _ => .unassignedFunctionCode r.pack

/-- The words of major 0x3C (06 R143, R147). -/
def decodeBr (r : RawWord) : Instr :=
  if r.d = 0 then .jmp r.y (r.a ++ r.b)
  else if r.d = 1 then .call r.y (r.a ++ r.b)
  else if r.d.extractLsb' 0 3 = 2 then .bra r.y (r.d.extractLsb' 4 3) (r.d.extractLsb' 3 1) (r.a ++ r.b)
  else if r.d.extractLsb' 0 3 = 3 then .brl r.y (r.d.extractLsb' 4 3) (r.d.extractLsb' 3 1) (r.a ++ r.b)
  else if r.d.extractLsb' 0 3 = 4 then .brd r.y (r.d.extractLsb' 4 3) (r.d.extractLsb' 3 1) (r.a ++ r.b)
  else .unassignedFunctionCode r.pack

/-- The words of major 0x3D (06 R143, R147). -/
def decodeJx (r : RawWord) : Instr :=
  match r.b with
  | 0 => if r.d = 0 then .jmpr r.y r.a else .unassignedFunctionCode r.pack
  | 1 => if r.d = 0 then .callr r.y r.a else .unassignedFunctionCode r.pack
  | 2 => if r.d = 0 ∧ r.a = 0 then .ret r.y else .unassignedFunctionCode r.pack
  | _ => .unassignedFunctionCode r.pack

/-- The words of major 0x3E (06 R143, R147). -/
def decodeLoop (r : RawWord) (next : Word) : Instr :=
  match r.b with
  | 0 => if r.d.extractLsb' 6 1 = 0 ∧ r.a.extractLsb' 0 4 = 0 then .loop r.y (r.d.extractLsb' 0 6) (r.a.extractLsb' 4 5) next else .unassignedFunctionCode r.pack
  | _ => .unassignedFunctionCode r.pack

/-- The words of major 0x3F (06 R143, R147). -/
def decodeMisc (r : RawWord) : Instr :=
  match r.b with
  | 0 => if r.d = 0 ∧ r.a = 0 then .nop r.y else .unassignedFunctionCode r.pack
  | 1 => if r.d = 0 ∧ r.a = 0 then .exit r.y else .unassignedFunctionCode r.pack
  | 2 => if r.d = 0 then .exitn r.y r.a else .unassignedFunctionCode r.pack
  | 3 => if r.d = 0 then .spawn r.y r.a else .unassignedFunctionCode r.pack
  | 4 => if r.d = 0 ∧ r.a = 0 then .join r.y else .unassignedFunctionCode r.pack
  | 5 => if r.d = 0 ∧ r.a = 0 then .yield r.y else .unassignedFunctionCode r.pack
  | 6 => if r.d = 0 then .trap r.y r.a else .unassignedFunctionCode r.pack
  | 7 => if r.d = 0 then .tret r.y r.a else .unassignedFunctionCode r.pack
  | 8 => if r.a = 0 then .rdclk r.y r.d else .unassignedFunctionCode r.pack
  | 9 => .launch r.y r.d r.a
  | 10 => if r.d = 0 ∧ r.a = 0 then .nopre r.y else .unassignedFunctionCode r.pack
  | 11 => if r.d = 0 ∧ r.a = 0 then .preok r.y else .unassignedFunctionCode r.pack
  | 12 => .qtab r.y r.d r.a
  | 13 => .pcown r.y r.d r.a
  | 14 => if r.d = 0 then .pcrel r.y r.a else .unassignedFunctionCode r.pack
  | 15 => if r.d = 0 then .setth r.y r.a else .unassignedFunctionCode r.pack
  | 32 => .ctxsave r.y r.d r.a
  | 33 => .ctxld r.y r.d r.a
  | 34 => .haltf r.y r.d r.a
  | _ => .unassignedFunctionCode r.pack

/-- The instruction of a word whose following word is `next` (used by `LOOP` alone). -/
def decodeRaw (r : RawWord) (next : Word) : Instr :=
  match r.op with
  | 0 => .ill r.y (r.d ++ r.a ++ r.b)
  | 1 => .iadd r.y r.d r.a r.b
  | 2 => .isub r.y r.d r.a r.b
  | 3 => .imul r.y r.d r.a r.b
  | 4 => .imulh r.y r.d r.a r.b
  | 5 => .imad r.y r.d r.a r.b
  | 6 => .imin r.y r.d r.a r.b
  | 7 => .imax r.y r.d r.a r.b
  | 8 => .and r.y r.d r.a r.b
  | 9 => .or r.y r.d r.a r.b
  | 10 => .xor r.y r.d r.a r.b
  | 11 => .andn r.y r.d r.a r.b
  | 12 => .shl r.y r.d r.a r.b
  | 13 => .shr r.y r.d r.a r.b
  | 14 => decodeBnk r
  | 15 => .iaddi r.y r.d r.a r.b
  | 16 => .andi r.y r.d r.a r.b
  | 17 => .ori r.y r.d r.a r.b
  | 18 => .xori r.y r.d r.a r.b
  | 19 => decodeShifti r
  | 20 => .movw r.y r.d (r.a ++ r.b)
  | 21 => .movhi r.y r.d (r.a ++ r.b)
  | 22 => .icmp r.y (r.d.extractLsb' 3 4) (r.d.extractLsb' 0 3) r.a r.b
  | 23 => .icmpi r.y (r.d.extractLsb' 3 4) (r.d.extractLsb' 0 3) r.a r.b
  | 24 => .sel r.y r.d r.a r.b
  | 25 => decodeIntx r
  | 26 => .bfx r.y r.d r.a r.b
  | 27 => .bfi r.y r.d r.a r.b
  | 28 => decodeLane r
  | 29 => .shuf r.y r.d r.a r.b
  | 30 => .bflyx r.y r.d r.a r.b
  | 31 => decodeEng r
  | 32 => .fadd r.y r.d r.a r.b
  | 33 => .fsub r.y r.d r.a r.b
  | 34 => .fmul r.y r.d r.a r.b
  | 35 => .fma r.y r.d r.a r.b
  | 36 => .fmin r.y r.d r.a r.b
  | 37 => .fmax r.y r.d r.a r.b
  | 38 => .fcmp r.y (r.d.extractLsb' 3 4) (r.d.extractLsb' 0 3) r.a r.b
  | 39 => decodeFx r
  | 40 => decodeCvt r
  | 41 => .fdiv r.y r.d r.a r.b
  | 42 => decodeMov r
  | 43 => decodeSetm r
  | 44 => .qrnd r.y r.d r.a r.b
  | 45 => decodeTree r
  | 46 => decodeMma r
  | 47 => decodeMxf r
  | 48 => .ld r.y r.d r.a (r.b.extractLsb' 6 3) (r.b.extractLsb' 0 6)
  | 49 => .st r.y r.d r.a (r.b.extractLsb' 6 3) (r.b.extractLsb' 0 6)
  | 50 => .ldx r.y r.d r.a r.b
  | 51 => .stx r.y r.d r.a r.b
  | 52 => .atom r.y (r.d.extractLsb' 3 4) (r.d.extractLsb' 0 3) r.a r.b
  | 53 => .cas r.y r.d r.a r.b
  | 54 => .post r.y (r.d.extractLsb' 3 4) (r.d.extractLsb' 0 3) r.a r.b
  | 55 => decodeFetch r
  | 56 => decodeFence r
  | 57 => decodeWait r
  | 58 => .mon r.y r.d r.a r.b
  | 59 => decodeBar r
  | 60 => decodeBr r
  | 61 => decodeJx r
  | 62 => decodeLoop r next
  | _ => decodeMisc r

/-- The instruction of a word (R134). -/
def decodeWord (w next : Word) : Instr := decodeRaw (RawWord.unpack w) next

/-- Four bytes, the first least significant (00 R5). -/
def wordOfBytes (b0 b1 b2 b3 : Byte) : Word := b3 ++ b2 ++ b1 ++ b0

/-- The four bytes of a word, the first least significant (00 R5). -/
def bytesOfWord (w : Word) : List Byte :=
  [w.extractLsb' 0 8, w.extractLsb' 8 8, w.extractLsb' 16 8, w.extractLsb' 24 8]

/-- Whether the word is a `LOOP`, which a step word follows (02 R49, 06 R142). -/
def isLoopWord (w : Word) : Bool :=
  match decodeWord w 0 with
  | .loop _ _ _ _ => true
  | _ => false

/-- Decode the first instruction of a byte string, and give back the rest. -/
def decode : List Byte → Except DecodeError (Instr × List Byte)
  | b0 :: b1 :: b2 :: b3 :: rest =>
    let w := wordOfBytes b0 b1 b2 b3
    if isLoopWord w then
      match rest with
      | c0 :: c1 :: c2 :: c3 :: rest' => .ok (decodeWord w (wordOfBytes c0 c1 c2 c3), rest')
      | _ => .error .missingStep
    else .ok (decodeWord w 0, rest)
  | _ => .error .truncated

/-- The word of an instruction, and its step word; none for a row that is no word. -/
def encode (i : Instr) : Option (Word × Option Word) :=
  match i with
  | .ill y x => some (RawWord.pack ⟨y, 0, x.extractLsb' 18 7, x.extractLsb' 9 9, x.extractLsb' 0 9⟩, none)
  | .iadd y d a b => some (RawWord.pack ⟨y, 1, d, a, b⟩, none)
  | .isub y d a b => some (RawWord.pack ⟨y, 2, d, a, b⟩, none)
  | .imul y d a b => some (RawWord.pack ⟨y, 3, d, a, b⟩, none)
  | .imulh y d a b => some (RawWord.pack ⟨y, 4, d, a, b⟩, none)
  | .imad y d a b => some (RawWord.pack ⟨y, 5, d, a, b⟩, none)
  | .imin y d a b => some (RawWord.pack ⟨y, 6, d, a, b⟩, none)
  | .imax y d a b => some (RawWord.pack ⟨y, 7, d, a, b⟩, none)
  | .and y d a b => some (RawWord.pack ⟨y, 8, d, a, b⟩, none)
  | .or y d a b => some (RawWord.pack ⟨y, 9, d, a, b⟩, none)
  | .xor y d a b => some (RawWord.pack ⟨y, 10, d, a, b⟩, none)
  | .andn y d a b => some (RawWord.pack ⟨y, 11, d, a, b⟩, none)
  | .shl y d a b => some (RawWord.pack ⟨y, 12, d, a, b⟩, none)
  | .shr y d a b => some (RawWord.pack ⟨y, 13, d, a, b⟩, none)
  | .bnkBmode y a => some (RawWord.pack ⟨y, 14, (0 : BitVec 7), a, (0 : BitVec 9)⟩, none)
  | .bnkBexit y => some (RawWord.pack ⟨y, 14, (0 : BitVec 7), (0 : BitVec 9), (1 : BitVec 9)⟩, none)
  | .bnkBld y k a => some (RawWord.pack ⟨y, 14, (0 : BitVec 4) ++ k, a, (2 : BitVec 9)⟩, none)
  | .bnkBst y k a => some (RawWord.pack ⟨y, 14, (0 : BitVec 4) ++ k, a, (3 : BitVec 9)⟩, none)
  | .bnkBbc y k a => some (RawWord.pack ⟨y, 14, (0 : BitVec 4) ++ k, a, (4 : BitVec 9)⟩, none)
  | .bnkBmac y v k a => some (RawWord.pack ⟨y, 14, (0 : BitVec 1) ++ v ++ k, a, (5 : BitVec 9)⟩, none)
  | .bnkBrd y d => some (RawWord.pack ⟨y, 14, d, (0 : BitVec 9), (6 : BitVec 9)⟩, none)
  | .bnkBred y k o => some (RawWord.pack ⟨y, 14, (0 : BitVec 2) ++ k ++ o, (0 : BitVec 9), (7 : BitVec 9)⟩, none)
  | .bnkBsave y a => some (RawWord.pack ⟨y, 14, (0 : BitVec 7), a, (8 : BitVec 9)⟩, none)
  | .bnkBrst y a => some (RawWord.pack ⟨y, 14, (0 : BitVec 7), a, (9 : BitVec 9)⟩, none)
  | .iaddi y d a i => some (RawWord.pack ⟨y, 15, d, a, i⟩, none)
  | .andi y d a i => some (RawWord.pack ⟨y, 16, d, a, i⟩, none)
  | .ori y d a i => some (RawWord.pack ⟨y, 17, d, a, i⟩, none)
  | .xori y d a i => some (RawWord.pack ⟨y, 18, d, a, i⟩, none)
  | .shli y d a n => some (RawWord.pack ⟨y, 19, d, a, (0 : BitVec 3) ++ n⟩, none)
  | .shri y d a n => some (RawWord.pack ⟨y, 19, d, a, (2 : BitVec 3) ++ n⟩, none)
  | .roti y d a n => some (RawWord.pack ⟨y, 19, d, a, (4 : BitVec 3) ++ n⟩, none)
  | .movw y d i => some (RawWord.pack ⟨y, 20, d, (i.extractLsb' 9 9), (i.extractLsb' 0 9)⟩, none)
  | .movhi y d i => some (RawWord.pack ⟨y, 21, d, (i.extractLsb' 9 9), (i.extractLsb' 0 9)⟩, none)
  | .icmp y c p a b => some (RawWord.pack ⟨y, 22, c ++ p, a, b⟩, none)
  | .icmpi y c p a i => some (RawWord.pack ⟨y, 23, c ++ p, a, i⟩, none)
  | .sel y d a b => some (RawWord.pack ⟨y, 24, d, a, b⟩, none)
  | .not y d a => some (RawWord.pack ⟨y, 25, d, a, (0 : BitVec 9)⟩, none)
  | .neg y d a => some (RawWord.pack ⟨y, 25, d, a, (1 : BitVec 9)⟩, none)
  | .abs y d a => some (RawWord.pack ⟨y, 25, d, a, (2 : BitVec 9)⟩, none)
  | .clz y d a => some (RawWord.pack ⟨y, 25, d, a, (3 : BitVec 9)⟩, none)
  | .ctz y d a => some (RawWord.pack ⟨y, 25, d, a, (4 : BitVec 9)⟩, none)
  | .popc y d a => some (RawWord.pack ⟨y, 25, d, a, (5 : BitVec 9)⟩, none)
  | .brev y d a => some (RawWord.pack ⟨y, 25, d, a, (6 : BitVec 9)⟩, none)
  | .bswap y d a => some (RawWord.pack ⟨y, 25, d, a, (7 : BitVec 9)⟩, none)
  | .sextb y d a => some (RawWord.pack ⟨y, 25, d, a, (8 : BitVec 9)⟩, none)
  | .sexth y d a => some (RawWord.pack ⟨y, 25, d, a, (9 : BitVec 9)⟩, none)
  | .zextb y d a => some (RawWord.pack ⟨y, 25, d, a, (10 : BitVec 9)⟩, none)
  | .zexth y d a => some (RawWord.pack ⟨y, 25, d, a, (11 : BitVec 9)⟩, none)
  | .bfx y d a b => some (RawWord.pack ⟨y, 26, d, a, b⟩, none)
  | .bfi y d a b => some (RawWord.pack ⟨y, 27, d, a, b⟩, none)
  | .ballot y d a => some (RawWord.pack ⟨y, 28, d, a, (0 : BitVec 9)⟩, none)
  | .anyl y d a => some (RawWord.pack ⟨y, 28, d, a, (1 : BitVec 9)⟩, none)
  | .alll y d a => some (RawWord.pack ⟨y, 28, d, a, (2 : BitVec 9)⟩, none)
  | .popl y d a => some (RawWord.pack ⟨y, 28, d, a, (3 : BitVec 9)⟩, none)
  | .firstl y d a => some (RawWord.pack ⟨y, 28, d, a, (4 : BitVec 9)⟩, none)
  | .readl y d a => some (RawWord.pack ⟨y, 28, d, a, (5 : BitVec 9)⟩, none)
  | .psumi y d a => some (RawWord.pack ⟨y, 28, d, a, (6 : BitVec 9)⟩, none)
  | .rsumi y d a => some (RawWord.pack ⟨y, 28, d, a, (7 : BitVec 9)⟩, none)
  | .rmin y d a => some (RawWord.pack ⟨y, 28, d, a, (8 : BitVec 9)⟩, none)
  | .rmax y d a => some (RawWord.pack ⟨y, 28, d, a, (9 : BitVec 9)⟩, none)
  | .psumf y d a => some (RawWord.pack ⟨y, 28, d, a, (10 : BitVec 9)⟩, none)
  | .rsumf y d a => some (RawWord.pack ⟨y, 28, d, a, (11 : BitVec 9)⟩, none)
  | .shuf y d a b => some (RawWord.pack ⟨y, 29, d, a, b⟩, none)
  | .bflyx y d a j => some (RawWord.pack ⟨y, 30, d, a, j⟩, none)
  | .engCpy y d a => some (RawWord.pack ⟨y, 31, d, a, (0 : BitVec 9)⟩, none)
  | .engCpy2d y d a => some (RawWord.pack ⟨y, 31, d, a, (1 : BitVec 9)⟩, none)
  | .engCpyg y d a => some (RawWord.pack ⟨y, 31, d, a, (2 : BitVec 9)⟩, none)
  | .engCpys y d a => some (RawWord.pack ⟨y, 31, d, a, (3 : BitVec 9)⟩, none)
  | .engFill y d a => some (RawWord.pack ⟨y, 31, d, a, (4 : BitVec 9)⟩, none)
  | .engKvc y d a => some (RawWord.pack ⟨y, 31, d, a, (5 : BitVec 9)⟩, none)
  | .engSelp y d a => some (RawWord.pack ⟨y, 31, d, a, (6 : BitVec 9)⟩, none)
  | .engSelk y d a => some (RawWord.pack ⟨y, 31, d, a, (7 : BitVec 9)⟩, none)
  | .engRdx y d a => some (RawWord.pack ⟨y, 31, d, a, (8 : BitVec 9)⟩, none)
  | .engLreg y d a => some (RawWord.pack ⟨y, 31, d, a, (9 : BitVec 9)⟩, none)
  | .engLrev y d a => some (RawWord.pack ⟨y, 31, d, a, (10 : BitVec 9)⟩, none)
  | .fadd y d a b => some (RawWord.pack ⟨y, 32, d, a, b⟩, none)
  | .fsub y d a b => some (RawWord.pack ⟨y, 33, d, a, b⟩, none)
  | .fmul y d a b => some (RawWord.pack ⟨y, 34, d, a, b⟩, none)
  | .fma y d a b => some (RawWord.pack ⟨y, 35, d, a, b⟩, none)
  | .fmin y d a b => some (RawWord.pack ⟨y, 36, d, a, b⟩, none)
  | .fmax y d a b => some (RawWord.pack ⟨y, 37, d, a, b⟩, none)
  | .fcmp y c p a b => some (RawWord.pack ⟨y, 38, c ++ p, a, b⟩, none)
  | .fneg y d a => some (RawWord.pack ⟨y, 39, d, a, (0 : BitVec 9)⟩, none)
  | .fabs y d a => some (RawWord.pack ⟨y, 39, d, a, (1 : BitVec 9)⟩, none)
  | .fsqrt y d a => some (RawWord.pack ⟨y, 39, d, a, (2 : BitVec 9)⟩, none)
  | .frcp y d a => some (RawWord.pack ⟨y, 39, d, a, (3 : BitVec 9)⟩, none)
  | .frsq y d a => some (RawWord.pack ⟨y, 39, d, a, (4 : BitVec 9)⟩, none)
  | .fexp2 y d a => some (RawWord.pack ⟨y, 39, d, a, (5 : BitVec 9)⟩, none)
  | .flog2 y d a => some (RawWord.pack ⟨y, 39, d, a, (6 : BitVec 9)⟩, none)
  | .fsinp y d a => some (RawWord.pack ⟨y, 39, d, a, (7 : BitVec 9)⟩, none)
  | .fcosp y d a => some (RawWord.pack ⟨y, 39, d, a, (8 : BitVec 9)⟩, none)
  | .ffloor y d a => some (RawWord.pack ⟨y, 39, d, a, (9 : BitVec 9)⟩, none)
  | .fceil y d a => some (RawWord.pack ⟨y, 39, d, a, (10 : BitVec 9)⟩, none)
  | .ftrunc y d a => some (RawWord.pack ⟨y, 39, d, a, (11 : BitVec 9)⟩, none)
  | .frint y d a => some (RawWord.pack ⟨y, 39, d, a, (12 : BitVec 9)⟩, none)
  | .fclass y d a => some (RawWord.pack ⟨y, 39, d, a, (13 : BitVec 9)⟩, none)
  | .cvt y d a t r s => some (RawWord.pack ⟨y, 40, d, a, t ++ r ++ s ++ (0 : BitVec 1)⟩, none)
  | .cvtW y d a r => some (RawWord.pack ⟨y, 40, d, a, (56 : BitVec 6) ++ r ++ (0 : BitVec 2)⟩, none)
  | .fdiv y d a b => some (RawWord.pack ⟨y, 41, d, a, b⟩, none)
  | .mov y d a => some (RawWord.pack ⟨y, 42, d, a, (0 : BitVec 9)⟩, none)
  | .getm y d => some (RawWord.pack ⟨y, 42, d, (0 : BitVec 9), (1 : BitVec 9)⟩, none)
  | .getf y d => some (RawWord.pack ⟨y, 42, d, (0 : BitVec 9), (2 : BitVec 9)⟩, none)
  | .getx y d => some (RawWord.pack ⟨y, 42, d, (0 : BitVec 9), (3 : BitVec 9)⟩, none)
  | .getg y d => some (RawWord.pack ⟨y, 42, d, (0 : BitVec 9), (4 : BitVec 9)⟩, none)
  | .getl y d => some (RawWord.pack ⟨y, 42, d, (0 : BitVec 9), (5 : BitVec 9)⟩, none)
  | .setl y a => some (RawWord.pack ⟨y, 42, (0 : BitVec 7), a, (6 : BitVec 9)⟩, none)
  | .setmode y a => some (RawWord.pack ⟨y, 43, (0 : BitVec 7), a, (0 : BitVec 9)⟩, none)
  | .setfmt y a => some (RawWord.pack ⟨y, 43, (0 : BitVec 7), a, (1 : BitVec 9)⟩, none)
  | .setexec y a => some (RawWord.pack ⟨y, 43, (0 : BitVec 7), a, (2 : BitVec 9)⟩, none)
  | .setgang y a => some (RawWord.pack ⟨y, 43, (0 : BitVec 7), a, (3 : BitVec 9)⟩, none)
  | .qrnd y d a b => some (RawWord.pack ⟨y, 44, d, a, b⟩, none)
  | .tanc y d a => some (RawWord.pack ⟨y, 45, d, a, (0 : BitVec 9)⟩, none)
  | .tdep y d a => some (RawWord.pack ⟨y, 45, d, a, (1 : BitVec 9)⟩, none)
  | .tpath y d a => some (RawWord.pack ⟨y, 45, d, a, (2 : BitVec 9)⟩, none)
  | .mma y t a b => some (RawWord.pack ⟨y, 46, (5 : BitVec 3) ++ t, a, b⟩, none)
  | .tzero y t => some (RawWord.pack ⟨y, 47, (5 : BitVec 3) ++ t, (0 : BitVec 9), (0 : BitVec 9)⟩, none)
  | .tld y t a => some (RawWord.pack ⟨y, 47, (5 : BitVec 3) ++ t, a, (1 : BitVec 9)⟩, none)
  | .tst y t a => some (RawWord.pack ⟨y, 47, (5 : BitVec 3) ++ t, a, (2 : BitVec 9)⟩, none)
  | .trd y d a => some (RawWord.pack ⟨y, 47, d, a, (3 : BitVec 9)⟩, none)
  | .twr y d a => some (RawWord.pack ⟨y, 47, d, a, (4 : BitVec 9)⟩, none)
  | .metaSlot y a => some (RawWord.pack ⟨y, 47, (0 : BitVec 7), a, (5 : BitVec 9)⟩, none)
  | .scale y a => some (RawWord.pack ⟨y, 47, (0 : BitVec 7), a, (6 : BitVec 9)⟩, none)
  | .tcvt y d a => some (RawWord.pack ⟨y, 47, d, a, (7 : BitVec 9)⟩, none)
  | .trowmax y d a => some (RawWord.pack ⟨y, 47, d, a, (8 : BitVec 9)⟩, none)
  | .ld y d a s o => some (RawWord.pack ⟨y, 48, d, a, s ++ o⟩, none)
  | .st y d a s o => some (RawWord.pack ⟨y, 49, d, a, s ++ o⟩, none)
  | .ldx y d a b => some (RawWord.pack ⟨y, 50, d, a, b⟩, none)
  | .stx y d a b => some (RawWord.pack ⟨y, 51, d, a, b⟩, none)
  | .atom y o s a b => some (RawWord.pack ⟨y, 52, o ++ s, a, b⟩, none)
  | .cas y d a b => some (RawWord.pack ⟨y, 53, d, a, b⟩, none)
  | .post y o s a b => some (RawWord.pack ⟨y, 54, o ++ s, a, b⟩, none)
  | .fetch y z a b => some (RawWord.pack ⟨y, 55, z ++ (0 : BitVec 4), a, b⟩, none)
  | .fence y d p s => some (RawWord.pack ⟨y, 56, d, (0 : BitVec 9), p ++ s⟩, none)
  | .waitt y a => some (RawWord.pack ⟨y, 57, (0 : BitVec 7), a, (0 : BitVec 9)⟩, none)
  | .waitc y a p => some (RawWord.pack ⟨y, 57, (0 : BitVec 7), a, (1 : BitVec 6) ++ p⟩, none)
  | .mon y d a b => some (RawWord.pack ⟨y, 58, d, a, b⟩, none)
  | .binit y a => some (RawWord.pack ⟨y, 59, (0 : BitVec 7), a, (0 : BitVec 9)⟩, none)
  | .barv y a => some (RawWord.pack ⟨y, 59, (0 : BitVec 7), a, (1 : BitVec 9)⟩, none)
  | .bwait y d a => some (RawWord.pack ⟨y, 59, d, a, (2 : BitVec 9)⟩, none)
  | .bsync y d a => some (RawWord.pack ⟨y, 59, d, a, (3 : BitVec 9)⟩, none)
  | .fbar y a => some (RawWord.pack ⟨y, 59, (0 : BitVec 7), a, (4 : BitVec 9)⟩, none)
  | .bqry y d a => some (RawWord.pack ⟨y, 59, d, a, (5 : BitVec 9)⟩, none)
  | .jmp y o => some (RawWord.pack ⟨y, 60, (0 : BitVec 7), (o.extractLsb' 9 9), (o.extractLsb' 0 9)⟩, none)
  | .call y o => some (RawWord.pack ⟨y, 60, (1 : BitVec 7), (o.extractLsb' 9 9), (o.extractLsb' 0 9)⟩, none)
  | .bra y p n o => some (RawWord.pack ⟨y, 60, p ++ n ++ (2 : BitVec 3), (o.extractLsb' 9 9), (o.extractLsb' 0 9)⟩, none)
  | .brl y p n o => some (RawWord.pack ⟨y, 60, p ++ n ++ (3 : BitVec 3), (o.extractLsb' 9 9), (o.extractLsb' 0 9)⟩, none)
  | .brd y p n o => some (RawWord.pack ⟨y, 60, p ++ n ++ (4 : BitVec 3), (o.extractLsb' 9 9), (o.extractLsb' 0 9)⟩, none)
  | .jmpr y a => some (RawWord.pack ⟨y, 61, (0 : BitVec 7), a, (0 : BitVec 9)⟩, none)
  | .callr y a => some (RawWord.pack ⟨y, 61, (0 : BitVec 7), a, (1 : BitVec 9)⟩, none)
  | .ret y => some (RawWord.pack ⟨y, 61, (0 : BitVec 7), (0 : BitVec 9), (2 : BitVec 9)⟩, none)
  | .loop y c l step => some (RawWord.pack ⟨y, 62, (0 : BitVec 1) ++ c, l ++ (0 : BitVec 4), (0 : BitVec 9)⟩, some step)
  | .nop y => some (RawWord.pack ⟨y, 63, (0 : BitVec 7), (0 : BitVec 9), (0 : BitVec 9)⟩, none)
  | .exit y => some (RawWord.pack ⟨y, 63, (0 : BitVec 7), (0 : BitVec 9), (1 : BitVec 9)⟩, none)
  | .exitn y a => some (RawWord.pack ⟨y, 63, (0 : BitVec 7), a, (2 : BitVec 9)⟩, none)
  | .spawn y a => some (RawWord.pack ⟨y, 63, (0 : BitVec 7), a, (3 : BitVec 9)⟩, none)
  | .join y => some (RawWord.pack ⟨y, 63, (0 : BitVec 7), (0 : BitVec 9), (4 : BitVec 9)⟩, none)
  | .yield y => some (RawWord.pack ⟨y, 63, (0 : BitVec 7), (0 : BitVec 9), (5 : BitVec 9)⟩, none)
  | .trap y a => some (RawWord.pack ⟨y, 63, (0 : BitVec 7), a, (6 : BitVec 9)⟩, none)
  | .tret y a => some (RawWord.pack ⟨y, 63, (0 : BitVec 7), a, (7 : BitVec 9)⟩, none)
  | .rdclk y d => some (RawWord.pack ⟨y, 63, d, (0 : BitVec 9), (8 : BitVec 9)⟩, none)
  | .launch y d a => some (RawWord.pack ⟨y, 63, d, a, (9 : BitVec 9)⟩, none)
  | .nopre y => some (RawWord.pack ⟨y, 63, (0 : BitVec 7), (0 : BitVec 9), (10 : BitVec 9)⟩, none)
  | .preok y => some (RawWord.pack ⟨y, 63, (0 : BitVec 7), (0 : BitVec 9), (11 : BitVec 9)⟩, none)
  | .qtab y d a => some (RawWord.pack ⟨y, 63, d, a, (12 : BitVec 9)⟩, none)
  | .pcown y d a => some (RawWord.pack ⟨y, 63, d, a, (13 : BitVec 9)⟩, none)
  | .pcrel y a => some (RawWord.pack ⟨y, 63, (0 : BitVec 7), a, (14 : BitVec 9)⟩, none)
  | .setth y a => some (RawWord.pack ⟨y, 63, (0 : BitVec 7), a, (15 : BitVec 9)⟩, none)
  | .ctxsave y d a => some (RawWord.pack ⟨y, 63, d, a, (32 : BitVec 9)⟩, none)
  | .ctxld y d a => some (RawWord.pack ⟨y, 63, d, a, (33 : BitVec 9)⟩, none)
  | .haltf y d a => some (RawWord.pack ⟨y, 63, d, a, (34 : BitVec 9)⟩, none)
  | .unassignedFunctionCode w => some (w, none)
  | _ => none

/-- The bytes of an instruction in memory; none for a row that is no word. -/
def encodeBytes (i : Instr) : Option (List Byte) :=
  (encode i).map fun p => bytesOfWord p.1 ++ (p.2.map bytesOfWord).getD []

/-- The first `n` bytes of a number, least significant first. -/
def bytesOfNat : Nat → Nat → List Byte
  | 0, _ => []
  | n + 1, w => BitVec.ofNat 8 w :: bytesOfNat n (w / 256)

/-- What the decoder reads from an instruction whose bits are `w` and, above `nbits`, zeros. -/
def decodeTableWord (nbits w : Nat) : Option Instr :=
  match decode (bytesOfNat 8 (w % 2 ^ nbits)) with
  | .ok (i, _) => some i
  | .error _ => none

end Sys2Proof
end

