-- ==== Sys2Proof/Config.lean ====
section
/-! DEFINITION. What one module has fixed, and the values the manual leaves open.

The figures are those of the manual's rules.  An `opaque` constant has no body: nothing can be proved
of its value, and a statement about it holds whatever it is. -/

namespace Sys2Proof.Config

/-- Compute dies (01 R9). -/
def dies : Nat := 8
/-- Cores of a die (01 R9). -/
def coresPerDie : Nat := 80
/-- Cores of the module (01 R9). -/
def cores : Nat := 640
/-- Management cores of the control die (00 R8, 05 R107). -/
def managementCores : Nat := 16
/-- Fibre slots of a residency (02 R24). -/
def slots : Nat := 32
/-- The lowest address that is translated, and the lowest a program counter may hold (05 R101, 08 R194). -/
def windowTop : Nat := 0x200000
/-- A spawn bin's timer, in core cycles (02 R39). -/
def binTimer : Nat := 4096
/-- The budget of a `NOPRE` section (08 R211, 17 R361). -/
def nopreBudget : Nat := 2 ^ 20
/-- The long-wait count of 02 R45. -/
def longWait : Nat := 2 ^ 18
/-- Cycles a CLOSING region stays (05 R118), and a restarted home discards (17 R364). -/
def closingCycles : Nat := 10250000
/-- The ages a far packet starts with (05 R108). -/
def agePackage : Nat := 196
def ageSystem : Nat := 19532
/-- Delivery bounds in cycles: 20 us and 2 ms at 2.5 GHz (05 R109). -/
def boundPackage : Nat := 50000
def boundSystem : Nat := 5000000
/-- Lifetimes of one copy, in cycles (05 R108). -/
def lifePackage : Nat := 196 * 256
def lifeSystem : Nat := 19532 * 256
/-- Tags a home's filter holds of each scope (05 R110). -/
def filterRoom : Nat := 262144
/-- Keys the ingress filter of the ports holds (19 R387). -/
def portFilterRoom : Nat := 1048576
/-- Cycles before a reset agent may send far packets: 10 ms (05 R107). -/
def farHold : Nat := 25000000
/-- Cycles of 50 us, the ageing rule (16 R338), and of 10 ms, a step of effective priority (16 R336). -/
def ageing : Nat := 125000
def prioStep : Nat := 25000000
/-- Retired instructions of a quantum of a deterministic launch (18 R373). -/
def detQuantum : Nat := 4096
/-- Lane records of a fibre's write buffer (18 R376). -/
def bufferRoom : Nat := 2048
/-- Entries of a translation cache (17 R347). -/
def tlbRoom : Nat := 1024

/-- What a byte of stack memory or scratchpad that nothing has written reads as: a module reset clears
stack contents (20 R400).  DESIGN CHOICE the value 0, unsafe (log 2). -/
def clearedByte : Byte := 0

/-- The value a privileged read of a device-register offset that no register map describes returns:
open (DESIGN CHOICE a free value, log 10). -/
opaque openRegister : Nat → Nat → DWord

/-- Whether MIN and MAX of a packet from a remote peer compare without sign: the header of 19 R386 does not
say (free, log 18). -/
opaque remoteUnsigned : Bool

/-- The capability words CAP1 to CAP3, which 19 R392 does not describe (free, log 11). -/
opaque capWord : Nat → Word

/-- Whether the feature of bit `n` of CAP0 is present, `n` at most 4 (19 R392; free, log 11). -/
opaque capFeature : Nat → Bool

/-- The SHA-256 digest of the fused public key, and the fused minimum SVN of a new module (20 R402; free, log 12). -/
opaque keyDigest : BitVec 256
opaque fusedMinimum : BitVec 16

/-- The public key whose digest is fused: the x and y coordinates the ROM checks with (20 R402; free, log 12). -/
opaque publicKey : BitVec 256 × BitVec 256

/-- The images that the two slots of a new module hold (20 R402; free, log 12). -/
opaque factoryImage : Nat → List Byte

/-- The private identity key of the module, and the numbers that its signatures draw, by digest and attempt (20 R403; free,
log 13). -/
opaque identityKey : Nat
opaque signNonce : BitVec 256 → Nat → Nat

/-- The bytes of the certificate chain in slot 0 and of the boot ROM (20 R403; free, log 13). -/
opaque certificateChain : List Byte
opaque bootRom : List Byte

/-- The launch header address that a save records, by queue and slot: a record carries none (15 R319; free, log 22). -/
opaque headerAddress : Nat → Nat → DWord

/-- Where firmware puts a page table that a mapping needs: by context, level and index of the table's
first address (17 R344; free, log 23). -/
opaque tablePlace : Nat → Nat → Nat → Nat

/-- The digest that an SPDM signature covers, of a nonce and of what is reported, and the bytes that stand before SVN and fused
minimum, and before presentation mode and offline units, in what measurements 3 and 4 are digests of (20 R403; free, log 13). -/
opaque transcript : BitVec 256 → BitVec 256 → BitVec 256
opaque versionPrefix : List Byte
opaque unitPrefix : List Byte

/-- The place after byte 8 and the size of a field of a command record for which the manual gives none, by command code and
field (19 R393; free, log 90). -/
opaque commandField : Nat → Nat → Nat × Nat

/-- The type code of an event, and bytes 10 to 31 of its record (19 R396; free, log 104). -/
opaque eventCode : Nat → BitVec 15
opaque eventPayload : Nat → List Nat → BitVec 176

/-- The header of a RESYNC summary, from the counts of its sections and the sources' sequence numbers, and the record of an
item of a section (19 R398; free, log 104). -/
opaque resyncHeader : List Nat → List (Nat × Nat) → BitVec 512
opaque resyncRecord : Nat → List Nat → BitVec 256

/-- The IPv6 address of the module's ports, as the number of its 16 bytes (19 R385; free, log 103). -/
opaque moduleAddress : Nat

/-- Where the firmware-reserved region of the peer table begins in stack memory (19 R389; free, log 103). -/
opaque peerTable : Nat

end Sys2Proof.Config
end

