-- ==== Sys2Proof/Machine/State.lean ====
section
/-! DEFINITION. The state of the module as plain data, and the state after reset. -/

namespace Sys2Proof.Machine

/-- A table with natural keys: rising keys, one entry each. -/
abbrev KMap (α : Type) := List (Nat × α)

/-- Memory by physical byte address (05 R102): rising addresses, no byte that an unlisted address reads as. -/
abbrev Memory := List Host.Cell

/-! ### A fibre -/

/-- An entry of a reconvergence stack (02 R31, R35). -/
structure StackEntry where
  arm : Bool
  mask : Mask
  addr : Option Addr
  mode : Word
  fmt : Word
  /-- It came back from a poisoned atom of the spill area (17 R362). -/
  bad : Bool
  deriving DecidableEq, Repr

/-- The state of a `LOOP` (02 R48 to R51, 08 R200): `idx` is the position in the body. -/
structure LoopState where
  laddr : Addr
  body : List Word
  step : Word
  pass : Nat
  count : Nat
  idx : Nat
  loff : Int
  deriving DecidableEq, Repr

/-- A ply (02 R31, 03 R55, R75, R76).  A ply is live when its ply mask is not empty. -/
structure Ply where
  pc : Addr
  exec : Mask
  mask : Mask
  link : Addr
  /-- The entries on chip, top first, at most four (02 R34). -/
  stack : List StackEntry
  /-- How many older entries the spill area holds (02 R34). -/
  spilled : Nat
  loop : Option LoopState
  inHandler : Bool
  /-- Waits at a `JOIN` with an empty stack (02 R32). -/
  atJoin : Bool
  /-- Waits at a rendezvous latch (10 R255). -/
  atLatch : Bool
  /-- The yield bit of the instruction the ply is stalled at (02 R26). -/
  stall : Option Bool
  deriving DecidableEq, Repr

/-- A register by its shape (03 R66). -/
inductive RegVal where
  | u (x : Word)
  | a (base stride : Word)
  | g (lanes : List Word)
  deriving DecidableEq, Repr

/-- A main or operand-file register: value, live bit (03 R64), poisoned lanes (17 R362; bit 0 for a U register). -/
structure Reg where
  live : Bool
  val : RegVal
  poison : Mask
  deriving DecidableEq, Repr

/-- An accumulator tile (10 R243, R244): its 1,024 cells, or no cell when all are zero. -/
structure Tile where
  live : Bool
  cells : List Word
  poison : List Nat
  deriving DecidableEq, Repr

/-- The registers of a fibre (03 R55). -/
structure Regs where
  v : List Reg
  o : List Reg
  la : List DWord
  lm : List DWord
  laPoison : Mask
  lmPoison : Mask
  preds : List Mask
  tiles : List Tile
  deriving DecidableEq, Repr

/-- The path counters (01 R19, 05 R121). -/
structure Counters where
  ld : Nat
  st : Nat
  far : Nat
  eng : Nat
  bank : Nat
  sel : Nat
  deriving DecidableEq, Repr

/-- The current quasi-random table of a fibre: its slot and its address (11 R299, R300). -/
structure TableRef where
  slot : Nat
  addr : Addr
  deriving DecidableEq, Repr

/-- MODE, FMT, GANG, RCNT, counters, table, bank channel (03 R55, R71 to R74; 11 R294, R299). -/
structure Special where
  mode : Word
  fmt : Word
  gang : Word
  rcnt : Word
  ctr : Counters
  table : Option TableRef
  bankCh : Option Nat
  deriving DecidableEq, Repr

/-- A destination register after `LOOP` stepping (02 R50, 03 R61). -/
inductive Dest where
  | v (i : Nat)
  | o (i : Nat)
  | tile (i : Nat)
  | discard
  | nothing
  deriving DecidableEq, Repr

/-- What a waiting fibre waits for (02 R27, 15 R320). -/
inductive Wait where
  /-- A team barrier: `held` while the arrival is held (02 R43), `sync` for a `BSYNC` or a `BWAIT`, which writes a status. -/
  | barrier (id : Nat) (held sync : Bool) (dest : Dest)
  | fbar (mask : Nat)
  | mon (pa va : Nat) (value : Word) (dest : Dest)
  | token (tok : Word)
  | counter (path threshold : Nat)
  deriving DecidableEq, Repr

/-- The wait record: the ply that executed the instruction, and the condition. -/
structure WaitState where
  ply : Nat
  wait : Wait
  deriving DecidableEq, Repr

/-- The merge record of a topmost `BRD` (02 R31, R32). -/
structure Merge where
  mode : Word
  fmt : Word
  owner : Nat
  deriving DecidableEq, Repr

/-- One lane's part of an access: the physical address of each byte, and the bytes to be written. -/
structure LaneAcc where
  lane : Nat
  pas : List Nat
  data : List Byte
  deriving DecidableEq, Repr

/-- A read-modify-write at its place of execution (09 R226 to R232). -/
structure Rmw where
  code : Nat
  wide : Bool
  unsigned : Bool
  cas : Bool
  deriving DecidableEq, Repr

/-- What a buffered or pending write does. -/
inductive WriteKind where
  | store
  | rmw (r : Rmw) (compare : List (Nat × DWord))
  /-- ONCE, ARV and FADDW at DIE, with the tags of 09 R231. -/
  | region (code : Nat) (tags : List Nat)
  deriving DecidableEq, Repr

/-- One buffered instruction of a deterministic launch (18 R375, R376). -/
structure BufRec where
  fibre : Nat
  op : Nat
  kind : WriteKind
  lanes : List LaneAcc
  va : List Nat
  deriving DecidableEq, Repr

/-- One record of a check digest (18 R381). -/
structure CheckRec where
  fibre : Nat
  va : Nat
  code : Nat
  lane : Nat
  size : Nat
  data : List Byte
  deriving DecidableEq, Repr

/-- A page translation as a cache entry or a fill holds it (17 R345, R347, R352). -/
structure Leaf where
  ctx : Nat
  va : Nat
  size : Nat
  entry : BitVec 64
  deriving DecidableEq, Repr

/-- Bookkeeping of issue, pre-emption and deterministic launches (16 R341, 08 R211, 18 R373). -/
structure FSched where
  lastPly : Nat
  /-- When an open `NOPRE` section began: a cycle, or a retired count in a deterministic launch. -/
  nopre : Option Nat
  /-- SOFT cause 1 waits to be delivered (17 R361). -/
  softPending : Bool
  retired : Nat
  /-- Instructions left in the quantum of a deterministic launch (18 R373). -/
  left : Option Nat
  /-- The plies that wait at an instruction which was counted among the retired ones when it issued, so not again when it
  completes; true where that was in this quantum of a deterministic launch (18 R373). -/
  tally : KMap Bool
  /-- The fills of each ply's replay (17 R352). -/
  fills : List (Nat × Leaf)
  /-- Why the fibre is FROZEN (17 R356). -/
  killed : Option Nat
  /-- When the fibre last issued, parked or was placed: a fibre that waits has waited since then (02 R45). -/
  since : Nat
  deriving DecidableEq, Repr

/-- The states of 02 R52: a fibre that its spindle has made active and that is `ready` is in RUN; an
empty slot is DONE. -/
inductive Status where
  | ready | waiting | parked | frozen
  deriving DecidableEq, Repr

/-- A fibre (02 R21, 03 R55). -/
structure Fibre where
  num : Nat
  status : Status
  wait : Option WaitState
  lanes : Mask
  p0 : Ply
  p1 : Ply
  merge : Option Merge
  regs : Regs
  spec : Special
  sched : FSched
  deriving DecidableEq, Repr

/-! ### A team -/

/-- The launch header (06 R156). -/
structure Header where
  entry : Addr
  width : Nat
  fibres : Nat
  tiles : Nat
  bars : Nat
  nu : Nat
  na : Nat
  ng : Nat
  wfirst : Nat
  wcount : Nat
  flags : BitVec 8
  res : Nat
  prio : Nat
  scratch : Nat
  tx : Nat
  ty : Nat
  tz : Nat
  qtaba : Addr
  handler : Addr
  param : Addr
  deriving DecidableEq, Repr

inductive BarState where
  | free | armed | consumed | abandoned
  deriving DecidableEq, Repr

/-- A team barrier (02 R43): fibre numbers with a pending bit; a held arrival is in the fibre's wait record. -/
structure Barrier where
  state : BarState
  count : Nat
  reload : Nat
  pend : List Nat
  deriving DecidableEq, Repr

/-- An entry of a spawn bin (02 R38), with who pushed it (18 R378). -/
structure BinEntry where
  v : List Word
  fibre : Nat
  lane : Nat
  deriving DecidableEq, Repr

inductive BinState where
  | empty | filling | full | expired
  deriving DecidableEq, Repr

/-- A spawn bin (02 R39): `since` the cycle its timer started, `order` when it became FULL or EXPIRED. -/
structure Bin where
  state : BinState
  target : Addr
  entries : List BinEntry
  since : Nat
  order : Nat
  deriving DecidableEq, Repr

/-- What a pending save is for. -/
inductive SaveReason where
  | swap | quantum | test | ctxsave (base : Nat) | replace
  deriving DecidableEq, Repr

/-- The deterministic part of a team (18 R370, R379 to R381). -/
structure DetTeam where
  lcore : Nat
  epoch : Nat
  sampled : Bool
  copyCore : Nat
  /-- The digest of this copy of the team (18 R381). -/
  digest : BitVec 64
  /-- The buffered instructions of the epoch, oldest first (18 R376). -/
  buf : List BufRec
  /-- The records of the epoch's quantum, oldest first (18 R381). -/
  check : List CheckRec
  deriving DecidableEq, Repr

/-- The team of a residency (02 R21 to R23).  A paired team is held by the even core. -/
structure Team where
  ctx : Nat
  launch : Nat
  hdr : Header
  hdrAddr : Addr
  num : Nat
  handler : Addr
  barriers : KMap Barrier
  bins : List Bin
  quantumAt : Nat
  save : Option SaveReason
  det : Option DetTeam
  deriving DecidableEq, Repr

/-- A fence slot (09 R237): while busy, the outstanding accesses it waits for. -/
structure FenceSlot where
  gen : Nat
  busy : Option (List Nat)
  deriving DecidableEq, Repr

inductive DepState where
  | free | held | ready | running
  deriving DecidableEq, Repr

/-- A range of an engine command with the translations of its pages outside the window (11 R272, R277). -/
structure Range where
  va : Nat
  len : Nat
  dest : Bool
  leaves : List Leaf
  deriving DecidableEq, Repr

/-- A command of an engine (11 R271 to R275). -/
structure EngCmd where
  code : Nat
  desc : List Byte
  /-- Where STATUS goes (11 R273). -/
  statusPas : List Nat
  slot : Nat
  op : Nat
  ctx : Nat
  ranges : List Range
  readyAt : Nat
  /-- Conditions met so far, bit v for STATUS v (11 R274). -/
  conds : Nat
  /-- Tags of result packets not yet acknowledged (11 R289). -/
  packets : List Nat
  deriving DecidableEq, Repr

/-- A dependency-table entry (11 R275). -/
structure DepEntry where
  state : DepState
  gen : Nat
  cmd : Option EngCmd
  deriving DecidableEq, Repr

/-- A range-lock entry (05 R122). -/
structure Lock where
  entry : Nat
  va : Nat
  len : Nat
  dest : Bool
  deriving DecidableEq, Repr

/-- A held arrival at a rendezvous latch (10 R255), with the registers of its fragment and part (02 R50). -/
structure Arrival where
  slot : Nat
  ply : Nat
  tile : Nat
  a : Dest
  na : Nat
  killA : Bool
  b : Dest
  nb : Nat
  killB : Bool
  deriving DecidableEq, Repr

/-- The record of a rendezvous latch (10 R255). -/
structure GangRec where
  gang : Word
  type : Nat
  fmt : Word
  tile : Nat
  arrived : List Arrival
  deriving DecidableEq, Repr

/-- One member's result of a started MMA (10 R258, R260). -/
structure MmaShare where
  slot : Nat
  fibre : Nat
  tile : Nat
  pc : Addr
  cells : List Word
  deriving DecidableEq, Repr

/-- A started MMA (10 R258, R259). -/
structure MmaRun where
  doneAt : Nat
  quadrants : List Nat
  shares : List MmaShare
  deriving DecidableEq, Repr

/-- A quasi-random table slot: identifier and bytes (11 R298, R299). -/
structure QSlot where
  id : BitVec 64
  bytes : List Byte
  deriving DecidableEq, Repr

inductive FaultKind where
  | np | perm | rsvd | hole
  deriving DecidableEq, Repr

/-- The access classes of 17 R346. -/
inductive AccClass where
  | load | store | atomic | fetch | engineRead | engineWrite | bankRead | bankWrite
  deriving DecidableEq, Repr

/-- An entry of the fault buffer (17 R350). -/
structure FaultEntry where
  ply : Nat
  va : Nat
  cls : AccClass
  kind : FaultKind
  deriving DecidableEq, Repr

/-- One residency of a core (15 R315). -/
structure Residency where
  team : Option Team
  /-- The residency belongs to the paired team of the even core below (02 R23). -/
  pairedOdd : Bool
  slots : KMap Fibre
  /-- The shared window, by spindle 2q + sp (02 R28). -/
  windows : KMap (List Reg)
  /-- The active slot of each spindle 2q + sp (16 R342). -/
  active : KMap Nat
  /-- Fence slots by 8 × slot + n (09 R237). -/
  fences : KMap FenceSlot
  deps : KMap DepEntry
  locks : List Lock
  latches : KMap GangRec
  mmas : KMap MmaRun
  scales : KMap (List Word)
  metas : KMap (List Byte)
  qslots : KMap QSlot
  faults : KMap FaultEntry
  deriving DecidableEq, Repr

/-! ### A core -/

/-- What an outstanding access is. -/
inductive OpBody where
  | load (lanes : List LaneAcc) (dest : Dest) (bytes : Nat) (signed uniform : Bool)
  | write (kind : WriteKind) (lanes : List LaneAcc) (dest : Dest)
  /-- An old value on its way back: per lane the value and whether it is poisoned. -/
  | oldValue (vals : List (Nat × DWord × Bool)) (dest : Dest) (wide : Bool)
  | status (value : Word) (dest : Dest)
  | tileLoad (tile : Nat) (pas : List Nat)
  | tileStore (pas : List Nat) (data : List Byte) (poison : List Nat)
  /-- A load of a slot, with the bytes that it read when it issued (log 113). -/
  | slotLoad (isScale : Bool) (slot : Nat) (data : List Byte)
  /-- A table load: the bytes that it read when it issued, the table's address, and where the status goes (log 113). -/
  | tableLoad (data : List Byte) (addr : Addr) (dest : Dest)
  /-- A far instruction: the tags still awaited. -/
  | far (tags : List Nat)
  | engine (entry : Nat)
  | bank (pch : Nat)
  /-- A `BRD`, and the register it writes. -/
  | bankRead (dest : Dest)
  deriving DecidableEq, Repr

/-- An outstanding access (05 R119, R121), kept in issue order until its counter has fallen. -/
structure Op where
  res : Nat
  slot : Nat
  fibre : Nat
  ply : Nat
  path : Nat
  active : Mask
  /-- The lanes of `lm` that no younger return has written (03 R63). -/
  lm : Mask
  body : OpBody
  /-- Returned, but an older one of its path has not (05 R121). -/
  done : Bool
  pages : List Nat
  /-- Its place in the issue order of the core: an old value on its way back keeps its instruction's (03 R63). -/
  seq : Nat
  deriving DecidableEq, Repr

/-- A walk in progress (17 R347): who waits, and for which address and class. -/
structure Walk where
  res : Nat
  slot : Nat
  ply : Nat
  ctx : Nat
  va : Nat
  cls : AccClass
  deriving DecidableEq, Repr

/-- A team that the control die has saved (15 R318): its residency, the odd core's when paired, and the
scratchpad bytes of each core with the offsets of their poisoned atoms, even core first.  A stack is held whole,
spilled entries below those on chip.  `ops` are the buffered writes of a deterministic team whose turn on a
shared core has passed (18 R372). -/
structure Saved where
  team : Team
  even : Residency
  odd : Option Residency
  scratch : List (List Byte × List Nat)
  ops : List (KMap Op)
  deriving DecidableEq, Repr

/-- A restore that waits to be made (15 R322, 16 R339): of a save area, or of a team the control die holds. -/
structure RestoreReq where
  base : Option Nat
  saved : Saved
  deriving DecidableEq, Repr

/-- HEALTH and TEST (17 R368). -/
structure Health where
  suspect : Bool
  mfence : Bool
  offline : Bool
  shretry : Nat
  busy : Bool
  testing : Bool
  result : Nat
  /-- A retry has failed, and no in-field test has passed since (17 R366). -/
  untested : Bool
  deriving DecidableEq, Repr

/-- A core (01 R9, 15 R325). -/
structure Core where
  r0 : Residency
  r1 : Residency
  dual : Bool
  issuing : Nat
  draining : Bool
  swcnt : BitVec 16
  quant : Nat
  health : Health
  /-- The spindle that issued last, by quadrant (16 R341). -/
  lastSpindle : KMap Nat
  tlb : List Leaf
  walks : KMap Walk
  ops : KMap Op
  nextOp : Nat
  seq : Nat
  resetAt : Nat
  lastFar : Nat
  farReady : Bool
  /-- Since when the issuing residency of a dual core has had no RUN or READY fibre (15 R316). -/
  idleSince : Option Nat
  /-- By residency. -/
  restore : KMap RestoreReq
  /-- Teams of other logical cores of a deterministic launch that take turns on this core (18 R372). -/
  turns : List Saved
  shadow : Nat
  held : Bool
  /-- Corrected errors that the core has counted (17 R362). -/
  corrected : Nat
  deriving DecidableEq, Repr

/-! ### Stacks, pseudo-channels and the fabric -/

inductive RegionState where
  | opened
  | closing (since : Nat)
  deriving DecidableEq, Repr

/-- A region (05 R113, R116): written granules with their writer's tag, and conflicting granules. -/
structure Region where
  /-- The address of its first byte, and whether its pages are channel-local (05 R103, R113). -/
  base : Nat
  cl : Bool
  size : Nat
  wide : Bool
  e : Int
  owner : Nat
  state : RegionState
  written : KMap Nat
  conflict : List Nat
  deriving DecidableEq, Repr

/-- A tag in a duplicate filter (05 R110, R111). -/
structure FilterTag where
  tag : Nat
  sys : Bool
  first : Nat
  deriving DecidableEq, Repr

/-- A command waiting at a base die (11 R275, R286). -/
structure BaseCmd where
  core : Nat
  res : Nat
  entry : Nat
  deriving DecidableEq, Repr

/-- A stack's home agent and base-die engines (01 R17). -/
structure Home where
  filter : List FilterTag
  regions : List Region
  seq : Nat
  /-- The selection engine: commands waiting, and the one that runs (11 R286). -/
  queue : List BaseCmd
  running : Option BaseCmd
  /-- The reduction engine. -/
  sums : List BaseCmd
  summing : Option BaseCmd
  down : Bool
  discardUntil : Option Nat
  /-- The sequence number of the replies that the die's link interface sends while the home is down (17 R364). -/
  linkSeq : Nat
  /-- When a copy last left, and whether far packets may be sent (05 R107). -/
  lastFar : Nat
  farReady : Bool
  /-- Corrected errors that the base die has counted (17 R362). -/
  corrected : Nat
  deriving DecidableEq, Repr

/-- Who owns a pseudo-channel (11 R293). -/
structure ChOwner where
  ctx : Nat
  launch : Nat
  team : Nat
  fibre : Nat
  /-- The fibre is DONE, and a command of it is still in the queue: no later fibre of its number is the owner. -/
  gone : Bool
  deriving DecidableEq, Repr

/-- What a BNK command does at its pseudo-channel (11 R294). -/
inductive BankDo where
  | enter
  | leave
  | load (k : Nat) (at_ : Nat)
  | store (k : Nat) (at_ : Nat)
  /-- The 32 bytes that the command has read, and whether they are poisoned. -/
  | broadcast (k : Nat) (data : List Byte) (bad : Bool)
  | mac (kd kv : Nat) (at_ : Nat)
  | read (dest : Dest)
  | reduce (op k : Nat)
  | save
  | restore
  deriving DecidableEq, Repr

/-- A BNK command in flight (11 R294, R296). -/
structure BankCmd where
  core : Nat
  op : Nat
  /-- The fibre that issued it. -/
  by_ : ChOwner
  banks : List Nat
  act : BankDo
  deriving DecidableEq, Repr

/-- A 32-byte bank register or root (11 R293). -/
structure BankReg where
  bits : BitVec 256
  poison : Bool
  deriving DecidableEq, Repr

/-- A pseudo-channel (11 R293 to R297): registers k0 to k7 of bank b by 8 × b + k. -/
structure Channel where
  owner : Option ChOwner
  allBank : Bool
  k : KMap BankReg
  root : BankReg
  queue : List BankCmd
  deriving DecidableEq, Repr

inductive PktKind where
  | op | request | reply | ack
  deriving DecidableEq, Repr

/-- What a far packet carries (05 R107, R108; 09 R234; 19 R386). -/
structure Packet where
  tag : Nat
  sys : Bool
  kind : PktKind
  code : Nat
  target : Nat
  landing : Nat
  size : Nat
  data : List Byte
  poison : List Nat
  /-- The request a reply answers, by its tag. -/
  request : Nat
  ctx : Nat
  /-- A packet through a peer page: its peer index, `target` being the offset in the peer's window (19 R388). -/
  peer : Option Nat
  /-- A reply or an acknowledgement to a remote module: its IPv6 address (19 R387). -/
  remote : Option Nat
  srcDie : Nat
  /-- The sending and the named device of a packet to another device of this module (19 R390). -/
  fromDev : Option Nat
  toDev : Option Nat
  deriving DecidableEq, Repr

/-- A packet at its sender until it is acknowledged or has failed (05 R109). -/
structure Sent where
  pkt : Packet
  first : Nat
  last : Nat
  /-- The retransmission interval when the last copy left (19 R384). -/
  interval : Nat
  deriving DecidableEq, Repr

/-- Where a copy is: on the link to a die, at its router, at a home, at the port complex. -/
inductive CopyPlace where
  | router (die : Nat)
  | home (stack : Nat)
  | port
  deriving DecidableEq, Repr

/-- A peer-table entry (19 R389). -/
structure Peer where
  valid : Bool
  inbound : Bool
  loc : Bool
  dev : Nat
  addr : Nat
  wbase : Nat
  wsize : Nat
  deriving DecidableEq, Repr

/-- A far copy in flight (05 R108), with the peer entry as it was when the copy was sent (19 R399). -/
structure Copy where
  pkt : Packet
  via : Option Peer
  age : Nat
  place : CopyPlace
  since : Nat
  deriving DecidableEq, Repr

/-- An acknowledgement on its way to the sender of `tag` (05 R110). -/
structure Ack where
  tag : Nat
  deriving DecidableEq, Repr

/-- A lane's leg of a FETCH (09 R234, R235), by the tag of its request. -/
structure Leg where
  core : Nat
  first : Nat
  sys : Bool
  ctx : Nat
  landing : Nat
  reported : Bool
  deriving DecidableEq, Repr

/-- A scale-out port (19 R384): its SEQ, when a copy of it last left, and whether it may send (05 R107). -/
structure Port where
  enable : Bool
  up : Bool
  latu : Nat
  seq : Nat
  lastFar : Nat
  farReady : Bool
  deriving DecidableEq, Repr

/-- A key of the ingress filter (19 R387): the peer's address, its tag, and the tag of the relay. -/
structure PortKey where
  peer : Nat
  tag : Nat
  relay : Nat
  first : Nat
  acked : Bool
  deriving DecidableEq, Repr

/-- A window that firmware exports from a device (19 R389, R390): `none` exports it to remote peers. -/
structure Export where
  dev : Nat
  todev : Option Nat
  base : Nat
  size : Nat
  deriving DecidableEq, Repr

/-- A UDP datagram that a port has sent: the port, the IPv6 destination, UDP header and payload (19 R385, R386). -/
structure Datagram where
  port : Nat
  dest : Nat
  bytes : List Byte
  deriving DecidableEq, Repr

/-- The far fabric. -/
structure Fabric where
  sent : KMap Sent
  copies : KMap Copy
  acks : KMap Ack
  legs : KMap Leg
  nextCopy : Nat
  nextAck : Nat
  rtip : Nat
  rtis : Nat
  ports : KMap Port
  portKeys : List PortKey
  /-- The rows of the peer table that firmware has written; the table itself stands in memory (19 R389). -/
  peerRows : List Nat
  peerCache : List Nat
  /-- Entries being fetched (19 R389). -/
  peerWait : List Nat
  exports : List Export
  /-- Datagrams that the ports have sent. -/
  egress : List Datagram
  deriving DecidableEq, Repr

/-! ### The control die -/

/-- A context (15 R313); `checkSlot` is n of 18 R379. -/
structure Context where
  fn : Nat
  mode : Nat
  device : Nat
  privileged : Bool
  root : Nat
  presence : List Nat
  checkSlot : Nat
  lseq : Nat
  deriving DecidableEq, Repr

/-- The check registers of a context slot (18 R379). -/
structure CheckRegs where
  chken : Bool
  seed : BitVec 64
  sampled : Nat
  mismatch : Nat
  skipped : Nat
  deriving DecidableEq, Repr

/-- A launch queue (16 R326 to R328): slot i's granules by 64 × i + g. -/
structure Queue where
  enable : Bool
  arvcnt : Word
  consumed : Word
  mirror : Addr
  granules : KMap Word
  /-- The function and the context it is assigned to. -/
  owner : Option (Nat × Nat)
  deriving DecidableEq, Repr

/-- A graph (16 R332, R333): versions by number, each a list of 256-byte nodes. -/
structure Graph where
  ctx : Nat
  id : Nat
  versions : KMap (List (List Byte))
  latest : Nat
  deriving DecidableEq, Repr

/-- An instance of a graph in flight (16 R333, R334). -/
structure Instance where
  graph : Nat
  ctx : Nat
  version : Nat
  queue : Nat
  slot : Nat
  param : Addr
  done : List Nat
  started : List Nat
  failed : Bool
  /-- Cancelled (19 R394): nodes are skipped as in a failed one. -/
  cancelled : Bool
  frozen : Nat
  deriving DecidableEq, Repr

/-- A launch in flight (16 R335): `node` is its instance and node number. -/
structure Launch where
  ctx : Nat
  hdr : Header
  hdrAddr : Addr
  queue : Nat
  slot : Nat
  node : Option (Nat × Nat)
  left : Nat
  frozen : Nat
  cancelled : Bool
  /-- LSEQ of a deterministic launch (18 R379). -/
  det : Option Nat
  /-- The physical core of each logical core (18 R372). -/
  remap : KMap Nat
  /-- How many teams of each logical core have ended, and the logical cores one of whose teams has ended in
  this epoch (18 R370, R374). -/
  ended : KMap Nat
  resting : List Nat
  deriving DecidableEq, Repr

/-- Teams waiting for placement (16 R336, R338): `count` consecutive teams of a launch, or one that was saved. -/
structure Waiting where
  launch : Nat
  num : Nat
  count : Nat
  since : Nat
  saved : Option Saved
  aged : Bool
  deriving DecidableEq, Repr

/-- A reservation of a core by the head of a list (16 R338): device and list. -/
structure Reservation where
  core : Nat
  device : Nat
  list : Nat
  deriving DecidableEq, Repr

/-- A fault at the fault service (17 R350, R351), and the fibres it parks: launch, team and fibre number. -/
structure ServiceFault where
  ctx : Nat
  va : Nat
  kind : FaultKind
  cls : AccClass
  fibres : List (Nat × Nat × Nat)
  posted : Bool
  deriving DecidableEq, Repr

/-- An on-demand range (17 R351). -/
structure Demand where
  ctx : Nat
  va : Nat
  pages : Nat
  perm : BitVec 8
  pool : Nat
  frames : Nat
  taken : Nat
  deriving DecidableEq, Repr

/-- Where an invalidation stands at one die (17 R353). -/
inductive InvState where
  | sent
  /-- The accesses that used a dropped translation: core and outstanding access. -/
  | dropped (waits : List (Nat × Nat))
  | acked
  deriving DecidableEq, Repr

/-- An invalidation (17 R353). -/
structure Invalidation where
  ctx : Nat
  va : Nat
  size : Nat
  dies : KMap InvState
  left : Nat
  fn : Nat
  resp : Nat
  cmd : Nat
  deriving DecidableEq, Repr

/-- BOOTSTAT and firmware slots (20 R401, R402). -/
structure Boot where
  stage : Nat
  slot : Nat
  recov : Bool
  svn : BitVec 16
  minimum : BitVec 16
  images : KMap (List Byte)
  running : List Byte
  offlineStacks : List Nat
  offlineDies : List Nat
  lastReset : ResetCause
  deriving DecidableEq, Repr

/-- Power management (20 R404); the samples of the running 1 ms average. -/
structure Power where
  plimit : Nat
  pnow : Nat
  tmax : Nat
  throt : Bool
  samples : List Nat
  deriving DecidableEq, Repr

/-- Create context (15 R313, R314). -/
structure ContextCmd where
  /-- The function that the context belongs to: the one that creates it; firmware names any. -/
  fn : Nat
  ctx : Nat
  mode : Nat
  device : Nat
  privileged : Bool
  root : Nat
  deriving DecidableEq, Repr

/-- The management commands of 19 R393 with their fields. -/
inductive Command where
  | createContext (c : ContextCmd)
  | destroyContext (ctx : Nat)
  /-- One leaf, at level 1 to 3, with its entry (17 R344, R345). -/
  | map (ctx va level : Nat) (entry : BitVec 64)
  | unmap (ctx va : Nat)
  | demand (ctx va pages : Nat) (perm : BitVec 8) (pool frames : Nat)
  | faultRetry (ctx va : Nat)
  | faultAbort (ctx va : Nat)
  | createGraph (ctx graph : Nat) (image : List Byte)
  | editGraph (ctx graph : Nat) (image : List Byte)
  | writePeer (pidx : Nat) (bytes : List Byte)
  /-- `owner` is byte 10: 0 the physical function, 1 to 16 the virtual ones (16 R326). -/
  | assignQueue (queue owner ctx : Nat)
  | resync (buffer : Nat)
  | cancelLaunch (queue slot mode : Nat)
  | firmwareDownload (address length slot : Nat)
  deriving DecidableEq, Repr

/-- A command that the host has started: its function, response address and fields (19 R393). -/
structure PendingCmd where
  fn : Nat
  resp : Nat
  cmd : Command
  deriving DecidableEq, Repr

/-- A response written to the host (19 R393): address, status and second word. -/
structure Response where
  fn : Nat
  address : Nat
  status : Nat
  second : Nat
  deriving DecidableEq, Repr

/-- The events that the manual names. -/
inductive EventType where
  | launchComplete | launchError | fibreFrozen | teamEnd | spawnDeadlock | deliveryFailure
  | targetClosed | writeOnceConflict | regionAccess | regionLost | engineError | translationFault
  | registerError | queueConflict | graphFailed | memoryError | coreSuspect | matrixFenced
  | pairOffline | checkMismatch | peerAccess
  deriving DecidableEq, Repr

/-- A posted event (19 R396): source, per-source sequence number, context, payload. -/
structure Event where
  type : EventType
  source : Nat
  seq : Nat
  ctx : Nat
  payload : List Nat
  deriving DecidableEq, Repr

/-- One record of a RESYNC summary (19 R398). -/
structure Resync where
  fn : Nat
  buffer : Nat
  seqs : KMap Nat
  contexts : List Nat
  queues : List (Nat × Word × Word)
  launches : List Nat
  instances : List Nat
  regions : List (Nat × Nat × Bool)
  units : List Nat
  faults : List (Nat × Nat)
  reset : ResetCause
  deriving DecidableEq, Repr

/-- A PCI Express function (19 R391, R392, R396). -/
structure HostFn where
  acc : KMap Word
  goed : Bool
  slot : List Byte
  ringBase : Addr
  ringEntries : Nat
  cons : Nat
  prod : Nat
  lost : Nat
  /-- The records in the ring: event and PHASE. -/
  ring : KMap (Event × Bool)
  msix : List Nat
  deriving DecidableEq, Repr

/-- What an SPDM requester offers (20 R403). -/
structure AlgorithmOffer where
  ecdsaP256 : Bool
  sha256 : Bool
  deriving DecidableEq, Repr

/-- An SPDM request (20 R403). -/
inductive SpdmRequest where
  | getVersion
  | getCapabilities
  | negotiateAlgorithms (offer : AlgorithmOffer)
  | getDigests
  | getCertificate (slot offset length : Nat)
  | challenge (slot : Nat) (nonce : BitVec 256)
  | getMeasurements (index : Nat) (nonce : BitVec 256)
  | other (code : Nat)
  deriving DecidableEq, Repr

/-- An SPDM response (20 R403). -/
inductive SpdmResponse where
  | version (major minor : Nat)
  | capabilities (keyExchange sessions : Bool)
  | algorithms (ecdsaP256 sha256 : Bool)
  | digests (d : BitVec 256)
  | certificate (bytes : List Byte)
  | challengeAuth (digest : BitVec 256) (signature : BitVec 512)
  | measurements (values : List (Nat × BitVec 256)) (signature : BitVec 512)
  | unsupportedRequest
  deriving DecidableEq, Repr

/-- The SPDM responder: the request in the DOE mailbox, the last response, what has been negotiated. -/
structure Spdm where
  request : Option SpdmRequest
  response : Option SpdmResponse
  negotiated : Bool
  deriving DecidableEq, Repr

/-- Stack frames that a mapping has used, and the decoding under which (05 R103; log 101). -/
structure FrameUse where
  base : Nat
  size : Nat
  cl : Bool
  deriving DecidableEq, Repr

/-- A management core of the control die as an agent of the far fabric (00 R8, 05 R107): the manual gives it no other
state. -/
structure ManagementCore where
  seq : Nat
  lastFar : Nat
  farReady : Bool
  deriving DecidableEq, Repr

/-- The control die (01 R9, 16, 17, 18, 19, 20). -/
structure Control where
  mode : Nat
  contexts : KMap Context
  checks : KMap CheckRegs
  queues : KMap Queue
  deviceQueues : KMap Queue
  /-- The place in the order of service of the queue that was served last, plus one (16 R329, R331). -/
  served : Nat
  graphs : List Graph
  instances : KMap Instance
  nextInstance : Nat
  launches : KMap Launch
  nextLaunch : Nat
  /-- Teams waiting, by 8 × device + 4 × RES + PRIO (16 R336). -/
  lists : KMap (List Waiting)
  reservations : List Reservation
  /-- Teams saved by `CTXSAVE`, by save-area base (15 R322). -/
  areas : KMap Saved
  /-- Teams saved for an in-field test of a core pair, by the pair's number: they enter placement again when it ends (17 R367). -/
  underTest : List (Nat × Saved)
  faults : KMap ServiceFault
  nextFault : Nat
  /-- Saved PARKED fibres whose fault was aborted: launch, team, fibre (17 R351, R352). -/
  aborts : List (Nat × Nat × Nat)
  demands : List Demand
  frames : List FrameUse
  invs : KMap Invalidation
  nextInv : Nat
  boot : Boot
  power : Power
  fns : KMap HostFn
  cmd : List PendingCmd
  responses : List Response
  resyncs : List Resync
  spdm : Spdm
  seqs : KMap Nat
  events : List Event
  /-- The epoch of each die (18 R374). -/
  epochs : KMap Nat
  /-- The management cores, 0 to 15. -/
  managers : KMap ManagementCore
  deriving DecidableEq, Repr

/-! ### The module -/

/-- The ply that issues an instruction: package core number, residency, slot, ply. -/
structure Who where
  core : Nat
  res : Nat
  slot : Nat
  ply : Nat
  deriving DecidableEq, Repr

/-- What may come next (log 1): a row of the table, an issue by a quadrant, the passing of time, what the host does (a
command, a write to BAR2, an SPDM request), windows that firmware exports, or an error that a core or a base die has
corrected (17 R362).  What a host or other software has put into stack memory before a run stands in `State.mem` (DESIGN CHOICE,
log 123). -/
inductive Move where
  | event (i : Instr)
  | issue (core quadrant : Nat)
  | tick (cycles : Nat)
  | command (c : PendingCmd)
  | bar2 (fn offset : Nat) (bytes : List Byte)
  | spdm (r : SpdmRequest)
  | exports (e : List Export)
  | corrected (core : Nat)
  | correctedBase (stack : Nat)
  deriving DecidableEq, Repr

/-- A waiting `MON` that a write has ended: its word met its value, or was read poisoned (08 R216, 17 R363). -/
structure MonEnd where
  core : Nat
  res : Nat
  slot : Nat
  bad : Bool
  deriving DecidableEq, Repr

/-- The check copy of a sampled team (18 R380), by the launch and the number of its team: what of the machine is the copy's own.
While the primary stands on its cores, these cores, and the scratchpad of the residency, as the copy has them; while it is
saved, the copy as it was saved. -/
structure CheckCopy where
  launch : Nat
  num : Nat
  cores : KMap Core
  cells : Memory
  atoms : List Nat
  saved : Option Saved
  deriving DecidableEq, Repr

/-- The module. -/
structure State where
  clock : Nat
  mem : Memory
  poison : List Nat
  hostMem : Memory
  cores : KMap Core
  homes : KMap Home
  channels : KMap Channel
  fabric : Fabric
  control : Control
  /-- The ply that issues (log 1). -/
  cur : Who
  /-- What comes next, oldest first (log 1). -/
  agenda : List Move
  /-- The quadrant that issued last, 4 × core + q (log 1). -/
  lastIssue : Nat
  /-- The counter of free values (log 10). -/
  free : Nat
  /-- Waiting `MON`s that a write has ended, and whose fibres have not gone on yet (08 R216). -/
  met : List MonEnd
  /-- The check copies of sampled teams (18 R380). -/
  copies : List CheckCopy
  deriving DecidableEq, Repr

/-- How the model itself stops. -/
inductive Fault where
  /-- `exec` was handed an instruction while no live ply issues it: no hardware does this (safe). -/
  | noIssuer
  deriving DecidableEq, Repr

/-- Why an instruction has no meaning. -/
inductive Refusal where
  /-- The instruction is not modelled yet: raised by `exec` alone (safe). -/
  | notModelled (mnemonic : String)
  deriving DecidableEq, Repr

/-! ### Reset -/

/-- A residency that hosts nothing. -/
def Residency.empty : Residency :=
  { team := none, pairedOdd := false, slots := [], windows := [], active := [], fences := [], deps := []
    locks := [], latches := [], mmas := [], scales := [], metas := [], qslots := [], faults := [] }

/-- A core in its reset (15 R325, 17 R368, 08 R206, 20 R400); it runs once its die is released (20 R401), and may send far
packets 10 ms later (05 R107). -/
def Core.reset (now : Nat) : Core :=
  { r0 := Residency.empty, r1 := Residency.empty, dual := false, issuing := 0, draining := false
    swcnt := 0, quant := 2500000
    health := { suspect := false, mfence := false, offline := false, shretry := 0, busy := false
                testing := false, result := 0, untested := false }
    lastSpindle := [], tlb := [], walks := [], ops := [], nextOp := 0, seq := 0, resetAt := now, lastFar := 0
    farReady := false, idleSince := none, restore := [], turns := [], shadow := 0, held := true, corrected := 0 }

/-- A home agent in its reset (20 R400): it is down until its base die runs (20 R401). -/
def Home.reset : Home :=
  { filter := [], regions := [], seq := 0, linkSeq := 0, queue := [], running := none, sums := [], summing := none, down := true, discardUntil := none
    lastFar := 0, farReady := false, corrected := 0 }

/-- A pseudo-channel after reset.  DESIGN CHOICE: bank registers and root 0 (log 8). -/
def Channel.reset : Channel :=
  { owner := none, allBank := false, k := [], root := ⟨0, false⟩, queue := [] }

/-- A port after reset (19 R384). -/
def Port.reset : Port := { enable := false, up := false, latu := 4, seq := 0, lastFar := 0, farReady := false }

/-- A function after reset (19 R392, R396). -/
def HostFn.reset : HostFn :=
  { acc := [], goed := false, slot := [], ringBase := 0, ringEntries := 0, cons := 0, prod := 0, lost := 0
    ring := [], msix := [] }

/-- A launch queue after reset (16 R326). -/
def Queue.reset : Queue :=
  { enable := false, arvcnt := 0, consumed := 0, mirror := 0, granules := [], owner := none }

/-- The check registers of a slot after reset (18 R379). -/
def CheckRegs.reset : CheckRegs := { chken := true, seed := 0, sampled := 0, mismatch := 0, skipped := 0 }

/-- The fabric after reset (19 R384). -/
def Fabric.reset : Fabric :=
  { sent := [], copies := [], acks := [], legs := [], nextCopy := 0, nextAck := 0, rtip := 120, rtis := 50
    ports := [], portKeys := [], peerRows := [], peerCache := [], peerWait := [], exports := []
    egress := [] }

/-- The boot state after a module reset, with what the fuses and the image slots hold (20 R400 to R402). -/
def Boot.reset (minimum : BitVec 16) (images : KMap (List Byte)) (cause : ResetCause) : Boot :=
  { stage := 0, slot := 0, recov := false, svn := 0, minimum := minimum, images := images, running := []
    offlineStacks := [], offlineDies := [], lastReset := cause }

/-- A management core after a module reset: it counts SEQ from 0, and may send far packets 10 ms later (05 R107). -/
def ManagementCore.reset : ManagementCore := { seq := 0, lastFar := 0, farReady := false }

/-- The control die after a module reset. -/
def Control.reset (minimum : BitVec 16) (images : KMap (List Byte)) (cause : ResetCause) : Control :=
  { mode := 0, contexts := [], checks := [], queues := [], deviceQueues := [], served := 0, graphs := [], instances := []
    nextInstance := 0, launches := [], nextLaunch := 0, lists := [], reservations := [], areas := [], underTest := []
    faults := [], nextFault := 0, aborts := [], demands := [], frames := [], invs := [], nextInv := 0
    boot := Boot.reset minimum images cause
    power := { plimit := 4400, pnow := 0, tmax := 0, throt := false, samples := [] }
    fns := [], cmd := [], responses := [], resyncs := []
    spdm := { request := none, response := none, negotiated := false }
    seqs := [], events := [], epochs := []
    managers := (List.range Config.managementCores).map fun m => (m, ManagementCore.reset) }

/-- The module right after a module reset (20 R400), whatever survives it being given. -/
def State.resetWith (minimum : BitVec 16) (images : KMap (List Byte)) (cause : ResetCause) : State :=
  { clock := 0, mem := [], poison := [], hostMem := [], cores := [], homes := [], channels := []
    fabric := Fabric.reset, control := Control.reset minimum images cause
    cur := { core := 0, res := 0, slot := 0, ply := 0 }, agenda := [], lastIssue := 0, free := 0, met := [], copies := [] }

/-- The module right after power-on. -/
def State.reset : State :=
  State.resetWith Config.fusedMinimum [(0, Config.factoryImage 0), (1, Config.factoryImage 1)] .powerOn

end Sys2Proof.Machine
end

