-- ==== Sys2Proof/Machine/Ops.lean ====
section
/-! DEFINITION. The named operations over tables, memory, cores and fibres; what an issue answers;
posting events; waiting and resuming; taking a trap, freezing a fibre, and returning from a handler. -/

namespace Sys2Proof.Machine

open Sys2Proof

/-! ### Tables with natural keys -/

/-- The entry at a key. -/
def kget {α : Type} : KMap α → Nat → Option α
  | [], _ => none
  | (k, v) :: m, x => if x = k then some v else kget m x

/-- The entry at a key, or a default. -/
def kgetD {α : Type} (m : KMap α) (x : Nat) (d : α) : α := (kget m x).getD d

/-- Set the entry at a key, keeping keys rising. -/
def kset {α : Type} : KMap α → Nat → α → KMap α
  | [], x, y => [(x, y)]
  | (k, v) :: m, x, y =>
    if x < k then (x, y) :: (k, v) :: m
    else if x = k then (x, y) :: m
    else (k, v) :: kset m x y

/-- Remove the entry at a key. -/
def kerase {α : Type} : KMap α → Nat → KMap α
  | [], _ => []
  | (k, v) :: m, x => if x = k then kerase m x else (k, v) :: kerase m x

/-- Change the entry at a key, if it is there. -/
def kmod {α : Type} (m : KMap α) (x : Nat) (f : α → α) : KMap α :=
  match kget m x with
  | some v => kset m x (f v)
  | none => m

/-- Keys strictly rising. -/
def krising {α : Type} : KMap α → Bool
  | [] => true
  | [_] => true
  | (k, _) :: (k', v') :: m => decide (k < k') && krising ((k', v') :: m)

/-! ### Numbers and bytes -/

/-- The number of little-endian bytes (00 R5). -/
def leNat : List Byte → Nat
  | [] => 0
  | b :: bs => b.toNat + 256 * leNat bs

/-- `n` bytes at an offset of a byte string; bytes beyond it are 0. -/
def sliceBytes (bs : List Byte) (off n : Nat) : List Byte :=
  (List.range n).map fun i => bs.getD (off + i) 0

/-- The little-endian number of `n` bytes at an offset. -/
def leAt (bs : List Byte) (off n : Nat) : Nat := leNat (sliceBytes bs off n)

/-- A number read as two's complement of `n` bits. -/
def toSigned (n x : Nat) : Int := if x < 2 ^ (n - 1) then (x : Int) else (x : Int) - 2 ^ n

/-- An integer modulo 2^n. -/
def ofInt (n : Nat) (x : Int) : Nat := (x % (2 ^ n : Nat)).toNat

/-! ### Lanes -/

/-- The lanes of a mask below `w`, ascending. -/
def lanesOf (m : Mask) (w : Nat) : List Nat := (List.range w).filter fun l => m.getLsbD l

/-- The mask of the lanes below `w` that satisfy `p`. -/
def maskOf (w : Nat) (p : Nat → Bool) : Mask :=
  (List.range w).foldl (fun m l => if p l then m ||| (1#64 <<< l) else m) 0

/-- Lanes 0 to w − 1. -/
def fullMask (w : Nat) : Mask := BitVec.ofNat 64 (2 ^ w - 1)

/-! ### Physical addresses (05 R102, R103) -/

/-- The die field. -/
def dieOf (pa : Nat) : Nat := pa / 2 ^ 48 % 16
/-- The kind field. -/
def kindOf (pa : Nat) : Nat := pa / 2 ^ 44 % 16
/-- The 44 bits below the kind field. -/
def offOf (pa : Nat) : Nat := pa % 2 ^ 44
/-- A physical address. -/
def paOf (die kind off : Nat) : Nat := die * 2 ^ 48 + kind * 2 ^ 44 + off
/-- The pseudo-channel q of an interleaved stack offset (05 R103). -/
def pchOff (a : Nat) : Nat := a / 1024 % 512
/-- The local address of an interleaved stack offset (05 R103). -/
def localOff (a : Nat) : Nat := a / 2 ^ 19 * 1024 + a % 1024
/-- The interleaved stack offset of a pseudo-channel's local address (05 R103). -/
def interOff (q loc : Nat) : Nat := loc / 1024 * 2 ^ 19 + q * 1024 + loc % 1024
/-- The interleaved offset of the cell that a channel-local offset names (05 R103). -/
def clToInter (a : Nat) : Nat := interOff (a / 65536 % 512) (a / 2 ^ 25 * 65536 + a % 65536)
/-- The channel-local offset of the cell that an interleaved offset names (05 R103). -/
def interToCl (a : Nat) : Nat := localOff a / 65536 * 2 ^ 25 + pchOff a * 65536 + localOff a % 65536
/-- The module number of a die's pseudo-channel q: stack × 256 + pseudo-channel, q lying in stack 2 × die + q mod 2 as
its pseudo-channel ⌊q / 2⌋ (01 R9, 05 R103). -/
def channelNo (die q : Nat) : Nat := 256 * (2 * die + q % 2) + q / 2
/-- The q of a pseudo-channel number. -/
def channelQ (c : Nat) : Nat := 2 * (c % 256) + c / 256 % 2
/-- The pseudo-channel of a KIND 0 address. -/
def channelOf (pa : Nat) : Nat := channelNo (dieOf pa) (pchOff (offOf pa))
/-- The stack of a KIND 0 address (05 R103). -/
def stackOf (pa : Nat) : Nat := dieOf pa * 2 + pchOff (offOf pa) % 2
/-- The core of a KIND 1 address, as package core number (05 R102). -/
def scratchCore (pa : Nat) : Nat := dieOf pa * 80 + offOf pa / 2 ^ 20 % 128
/-- The physical address of a byte of a core's scratchpad. -/
def scratchPa (core off : Nat) : Nat := paOf (core / 80) 1 (core % 80 * 2 ^ 20 + off)

/-! ### Memory -/

/-- The byte at an address. -/
def readByte (m : Memory) (a : Nat) : Byte := kgetD m a Config.clearedByte

/-- Write a byte, keeping the canonical form. -/
def writeByte (m : Memory) (a : Nat) (b : Byte) : Memory :=
  if b = Config.clearedByte then kerase m a else kset m a b

/-- The bytes at a list of addresses. -/
def readAll (m : Memory) (as : List Nat) : List Byte := as.map (readByte m)

/-- Write bytes at a list of addresses, in order. -/
def writeAll : Memory → List Nat → List Byte → Memory
  | m, a :: as, b :: bs => writeAll (writeByte m a b) as bs
  | m, _, _ => m

/-- The canonical form of memory: rising addresses, no byte that an unlisted address reads as. -/
def Memory.wf (m : Memory) : Bool := krising m && m.all fun c => c.2 != Config.clearedByte

/-- `n` consecutive addresses. -/
def span (a n : Nat) : List Nat := (List.range n).map (a + ·)

/-- The little-endian number of `n` bytes at an address. -/
def readNat (m : Memory) (a n : Nat) : Nat := leNat (readAll m (span a n))

/-- Write `n` little-endian bytes at an address. -/
def writeNat (m : Memory) (a n x : Nat) : Memory := writeAll m (span a n) (bytesOfNat n x)

/-- The 32-byte atoms that addresses lie in (17 R362). -/
def atomsOf (as : List Nat) : List Nat := (as.map (· / 32)).dedup

/-- Whether any of the addresses lies in a poisoned atom. -/
def State.poisoned (s : State) (as : List Nat) : Bool := as.any fun a => s.poison.contains (a / 32)

/-- The atoms of addresses among poisoned ones. -/
def addAtoms (ps as : List Nat) : List Nat := (atomsOf as).foldl (fun ps a => if ps.contains a then ps else a :: ps) ps

/-- Mark the atoms of addresses poisoned (17 R362). -/
def State.poisonAtoms (s : State) (as : List Nat) : State := { s with poison := addAtoms s.poison as }

/-- What a write of addresses leaves of some poisoned atoms: an atom written whole loses its poison (17 R362). -/
def keepAtoms (ps as : List Nat) : List Nat :=
  if ps = [] then [] else ps.filter fun p => !((span (p * 32) 32).all fun a => as.contains a)

/-- Poisoned atoms that a write of addresses leaves. -/
def State.poisonLeft (s : State) (as : List Nat) : List Nat := keepAtoms s.poison as

/-! ### Cores, residencies, teams, fibres -/

/-- A core by its package number. -/
def State.core (s : State) (n : Nat) : Core := kgetD s.cores n (Core.reset 0)

/-- Replace a core. -/
def State.setCore (s : State) (n : Nat) (c : Core) : State := { s with cores := kset s.cores n c }

/-- Change a core. -/
def State.modCore (s : State) (n : Nat) (f : Core → Core) : State := s.setCore n (f (s.core n))

/-- A residency of a core. -/
def Core.res (c : Core) (r : Nat) : Residency := if r = 0 then c.r0 else c.r1

/-- Replace a residency. -/
def Core.setRes (c : Core) (r : Nat) (x : Residency) : Core :=
  if r = 0 then { c with r0 := x } else { c with r1 := x }

/-- A residency by core and number. -/
def State.res (s : State) (n r : Nat) : Residency := (s.core n).res r

/-- Replace a residency. -/
def State.setRes (s : State) (n r : Nat) (x : Residency) : State :=
  s.setCore n ((s.core n).setRes r x)

/-- Change a residency. -/
def State.modRes (s : State) (n r : Nat) (f : Residency → Residency) : State :=
  s.setRes n r (f (s.res n r))

/-- The core that holds a residency's team record: the even core for a paired team (02 R23). -/
def State.home (s : State) (n r : Nat) : Nat := if (s.res n r).pairedOdd then n - 1 else n

/-- The team of a residency. -/
def State.team (s : State) (n r : Nat) : Option Team := (s.res (s.home n r) r).team

/-- Change the team of a residency. -/
def State.modTeam (s : State) (n r : Nat) (f : Team → Team) : State :=
  s.modRes (s.home n r) r fun x => { x with team := x.team.map f }

/-- Whether a header declares a paired team (06 R156). -/
def Header.paired (h : Header) : Bool := h.flags.getLsbD 0

/-- The cores that host a residency's team. -/
def State.teamCores (s : State) (n r : Nat) : List Nat :=
  let h := s.home n r
  match (s.res h r).team with
  | some t => if t.hdr.paired then [h, h + 1] else [h]
  | none => []

/-- A fibre by core, residency and slot. -/
def State.fibre (s : State) (n r sl : Nat) : Option Fibre := kget (s.res n r).slots sl

/-- Replace a fibre. -/
def State.setFibre (s : State) (n r sl : Nat) (f : Fibre) : State :=
  s.modRes n r fun x => { x with slots := kset x.slots sl f }

/-- Change a fibre, if the slot holds one. -/
def State.modFibre (s : State) (n r sl : Nat) (f : Fibre → Fibre) : State :=
  match s.fibre n r sl with
  | some x => s.setFibre n r sl (f x)
  | none => s

/-- How the `MON` of a slot has been ended by a write, if one has: whether its word was poisoned. -/
def State.metAt (s : State) (n r slot : Nat) : Option Bool :=
  (s.met.find? fun m => m.core == n && m.res == r && m.slot == slot).map (·.bad)

/-- The waiting `MON` of a fibre re-reads its word after a write of some addresses: it ends where the word is poisoned, or
at or above its value (08 R216, 17 R363). -/
def Fibre.monEnd (f : Fibre) (as : List Nat) (mem : Memory) (poison : List Nat) : Option Bool :=
  match f.status, f.wait with
  | .waiting, some ⟨_, .mon pa _ value _⟩ =>
    if !(as.any fun a => decide (pa ≤ a) && decide (a < pa + 4)) then none
    else if poison.contains (pa / 32) then some true
    else if value.toNat ≤ readNat mem pa 4 then some false
    else none
  | _, _ => none

/-- The `MON`s that a write of some addresses ends, each by the first write that does (08 R216).  A deterministic launch
evaluates at the ends of quanta alone (18 R378). -/
def State.monsEnded (s : State) (as : List Nat) (mem : Memory) (poison : List Nat) : List MonEnd :=
  s.cores.flatMap fun c => [0, 1].flatMap fun r =>
    (c.2.res r).slots.filterMap fun p =>
      if ((s.team c.1 r).bind (·.det)).isNone && (s.metAt c.1 r p.1).isNone then
        (p.2.monEnd as mem poison).map fun bad => { core := c.1, res := r, slot := p.1, bad := bad }
      else none

/-- Write bytes, those at the addresses `bad` being poisoned, and note the monitors that the write ends (08 R216, 17 R362). -/
def State.write (s : State) (as : List Nat) (bs : List Byte) (bad : List Nat) : State :=
  let mem := writeAll s.mem as bs
  let poison := addAtoms (s.poisonLeft as) bad
  { s with mem := mem, poison := poison, met := s.met ++ s.monsEnded as mem poison }

/-- Write bytes that are not poisoned. -/
def State.store (s : State) (as : List Nat) (bs : List Byte) : State := s.write as bs []

/-- Forget that a slot's `MON` was ended. -/
def State.forgetMet (s : State) (n r slot : Nat) : State :=
  { s with met := s.met.filter fun m => !(m.core == n && m.res == r && m.slot == slot) }

/-- Forget the ended `MON`s of some cores. -/
def State.forgetMets (s : State) (cores : List Nat) : State :=
  { s with met := s.met.filter fun m => !cores.contains m.core }

/-- The fibres of a residency's team: core, slot, fibre. -/
def State.teamFibres (s : State) (n r : Nat) : List (Nat × Nat × Fibre) :=
  (s.teamCores n r).flatMap fun c => (s.res c r).slots.map fun p => (c, p.1, p.2)

/-- A ply. -/
def Fibre.ply (f : Fibre) (p : Nat) : Ply := if p = 0 then f.p0 else f.p1

/-- Replace a ply. -/
def Fibre.setPly (f : Fibre) (p : Nat) (x : Ply) : Fibre :=
  if p = 0 then { f with p0 := x } else { f with p1 := x }

/-- A ply that holds no lanes. -/
def Ply.empty : Ply :=
  { pc := 0, exec := 0, mask := 0, link := 0, stack := [], spilled := 0, loop := none, inHandler := false
    atJoin := false, atLatch := false, stall := none }

/-- A live ply holds lanes (02 R31). -/
def Ply.live (p : Ply) : Bool := p.mask != 0

/-- The local cycle counter of a core (08 R206). -/
def State.cycles (s : State) (n : Nat) : Nat := s.clock - (s.core n).resetAt

/-- Offset of a residency's share of a core's scratchpad (05 R101). -/
def State.shareBase (s : State) (n r : Nat) : Nat := if (s.core n).dual then r * 0x80000 else 0

/-- Bytes of a residency's share of a core's scratchpad (05 R101). -/
def State.shareSize (s : State) (n : Nat) : Nat := if (s.core n).dual then 0x80000 else 0x100000

/-- Quadrant, spindle and position of a slot (02 R24). -/
def quadOf (slot : Nat) : Nat := slot % 4
def spinOf (slot : Nat) : Nat := slot / 4 % 2
def posOf (slot : Nat) : Nat := slot / 8
/-- The number of a spindle within a core: 2q + sp. -/
def spindleKey (slot : Nat) : Nat := 2 * quadOf slot + spinOf slot

/-! ### Events (19 R396) -/

/-- Whether a function's ring is configured, whether it is full, and the PHASE of its next record (19 R396). -/
def HostFn.ringOn (f : HostFn) : Bool := f.ringEntries != 0
def HostFn.ringFull (f : HostFn) : Bool := (f.prod + 2 ^ 32 - f.cons) % 2 ^ 32 == f.ringEntries
def HostFn.phase (f : HostFn) : Bool := decide (f.prod / f.ringEntries % 2 = 0)

/-- The 32 bytes of an event record (19 R396); its type code and its payload's layout are free (log 104). -/
def Event.record (e : Event) (phase : Bool) : List Byte :=
  bytesOfNat 2 ((Config.eventCode e.type.ctorIdx).toNat + if phase then 2 ^ 15 else 0) ++ bytesOfNat 2 e.source
    ++ bytesOfNat 4 e.seq ++ bytesOfNat 2 e.ctx ++ bytesOfNat 22 (Config.eventPayload e.type.ctorIdx e.payload).toNat

/-- The record as it is written into the host's memory (19 R391, R396). -/
def HostFn.ringStore (f : HostFn) (e : Event) (m : Memory) : Memory :=
  if f.ringOn && !f.ringFull then
    writeAll m (span (f.ringBase.toNat + 32 * (f.prod % f.ringEntries)) 32) (e.record f.phase)
  else m

/-- Write an event into the ring of a function, or count it as lost (19 R396, R397). -/
def HostFn.ringWrite (f : HostFn) (e : Event) : HostFn :=
  if !f.ringOn then f
  else if f.ringFull then { f with lost := min (f.lost + 1) 0xFFFFFFFF }
  else
    { f with
      ring := kset f.ring (f.prod % f.ringEntries) (e, f.phase)
      prod := (f.prod + 1) % 2 ^ 32
      msix := if f.msix.contains 1 then f.msix else f.msix ++ [1] }

/-- Post an event: the source's next sequence number, the event, and its record in the ring of the
function that owns the context (19 R396). -/
def State.post (s : State) (t : EventType) (source ctx : Nat) (payload : List Nat) : State :=
  let n := kgetD s.control.seqs source 0 + 1
  let e : Event := { type := t, source := source, seq := n, ctx := ctx, payload := payload }
  let fn := ((kget s.control.contexts ctx).map (·.fn)).getD 0 % 17
  let f := kgetD s.control.fns fn HostFn.reset
  { s with
    hostMem := f.ringStore e s.hostMem
    control := { s.control with
      seqs := kset s.control.seqs source n
      events := s.control.events ++ [e]
      fns := kset s.control.fns fn (f.ringWrite e) } }

/-! ### What an issue answers -/

/-- The traps of 17 R355. -/
inductive TrapKind where
  | ill | shape | deadreg | far | scope | rlock | bankbusy | math | shadow | poison | soft
  deriving DecidableEq, Repr

/-- KIND in a frame (17 R355). -/
def TrapKind.code : TrapKind → Nat
  | .ill => 0 | .shape => 1 | .deadreg => 2 | .far => 3 | .scope => 4 | .rlock => 5 | .bankbusy => 6
  | .math => 7 | .shadow => 8 | .poison => 9 | .soft => 10

/-- A trap with what its frame records (17 R355, R358). -/
structure Trap where
  kind : TrapKind
  cause : Nat
  code : Word
  lanes : Mask
  addr : Addr
  field : Nat
  deriving DecidableEq, Repr

/-- A trap with nothing but its kind and cause. -/
def Trap.plain (k : TrapKind) (cause : Nat) : Trap :=
  { kind := k, cause := cause, code := 0, lanes := 0, addr := 0, field := 0 }

/-- Why an instruction does not take its own effect at this issue. -/
inductive Stop where
  /-- It traps (17 R355). -/
  | trap (t : Trap)
  /-- It stalls and issues again later (02 R26). -/
  | stall
  /-- Its fibre stops for the quantum of a deterministic launch (18 R373). -/
  | halt
  /-- It stalls until a walk returns (17 R347). -/
  | miss (va : Nat) (cls : AccClass)
  /-- It meets a fault, and the fibre parks (17 R350). -/
  | fault (va : Nat) (cls : AccClass) (kind : FaultKind)
  deriving DecidableEq, Repr

/-- ILL causes (17 R355). -/
def illEncoding : Stop := .trap (Trap.plain .ill 0)
def illState : Stop := .trap (Trap.plain .ill 1)
def illPrivilege : Stop := .trap (Trap.plain .ill 2)
def illStack : Stop := .trap (Trap.plain .ill 3)
def illLoop : Stop := .trap (Trap.plain .ill 6)
def illTarget : Stop := .trap (Trap.plain .ill 7)
/-- SHAPE with the operand field it names (17 R358). -/
def shapeTrap (field : Nat) : Stop := .trap { Trap.plain .shape 0 with field := field }
/-- DEADREG with the operand field it names (17 R358). -/
def deadTrap (field : Nat) : Stop := .trap { Trap.plain .deadreg 0 with field := field }
/-- The FIELD of a D field (17 R358). -/
def dField (d : BitVec 7) : Nat := 0x8000 + d.toNat

/-- Go on when a condition holds. -/
def need (c : Bool) (e : Stop) : Except Stop Unit := if c then .ok () else .error e

/-- All that an issuing instruction sees: who issues, its core, residency, team, fibre and ply. -/
structure View where
  who : Who
  core : Core
  res : Residency
  team : Team
  fib : Fibre
  ply : Ply
  deriving DecidableEq, Repr

/-- The view of a ply: none when its slot is empty, its ply not live, or its residency without a team. -/
def State.viewOf (s : State) (w : Who) : Option View :=
  match s.team w.core w.res, s.fibre w.core w.res w.slot with
  | some t, some f =>
    let p := f.ply w.ply
    if p.live then some { who := w, core := s.core w.core, res := s.res w.core w.res, team := t, fib := f, ply := p }
    else none
  | _, _ => none

/-- The view of the issuing ply. -/
def State.view (s : State) : Option View := s.viewOf s.cur

/-- W of the view's launch (02 R22). -/
def View.width (v : View) : Nat := v.team.hdr.width
/-- The declared main registers (03 R56). -/
def View.declared (v : View) : Nat := v.team.hdr.nu + v.team.hdr.na + v.team.hdr.ng
/-- The loop offset (02 R51). -/
def View.loff (v : View) : Int := (v.ply.loop.map (·.loff)).getD 0

/-- Replace the fibre of a view. -/
def State.putFibre (s : State) (v : View) (f : Fibre) : State :=
  s.setFibre v.who.core v.who.res v.who.slot f

/-- Change the fibre of a view. -/
def State.onFibre (s : State) (v : View) (g : Fibre → Fibre) : State :=
  s.modFibre v.who.core v.who.res v.who.slot g

/-- Change the issuing ply. -/
def State.onPly (s : State) (v : View) (g : Ply → Ply) : State :=
  s.onFibre v fun f => f.setPly v.who.ply (g (f.ply v.who.ply))

/-! ### Fields of MODE (03 R71) -/

def modeType (m : Word) : Nat := (m.extractLsb' 0 4).toNat
def modeRnd (m : Word) : Nat := (m.extractLsb' 4 3).toNat
def modeSat (m : Word) : Bool := m.getLsbD 7
def modeGp (m : Word) : Nat := (m.extractLsb' 8 3).toNat
def modeGs (m : Word) : Bool := m.getLsbD 11
def modeGe (m : Word) : Bool := m.getLsbD 12
def modeCp (m : Word) : Nat := (m.extractLsb' 13 3).toNat
/-- The enables EINV, EDZ, EOVF, EUNF, EINX, bit 0 first. -/
def modeEnables (m : Word) : BitVec 5 := m.extractLsb' 16 5

/-- The reset MODE and FMT (03 R71, R73). -/
def modeReset : Word := 2
def fmtReset : Word := 0x27

/-- A MODE value without a reserved value (03 R71). -/
def modeLegal (m : Word) : Bool :=
  decide (modeType m ≤ 12) && decide (modeRnd m ≤ 4) && m.extractLsb' 21 11 == 0

/-- Fields of FMT (03 R73). -/
def fmtPlanes (f : Word) : Nat := (f.extractLsb' 0 3).toNat + 1
def fmtSgrp (f : Word) : Nat := (f.extractLsb' 3 4).toNat
def fmtAct (f : Word) : Nat := (f.extractLsb' 7 2).toNat
def fmtSpar (f : Word) : Nat := (f.extractLsb' 9 3).toNat
def fmtAcc (f : Word) : Nat := (f.extractLsb' 12 2).toNat
def fmtSslot (f : Word) : Nat := (f.extractLsb' 14 4).toNat

/-- An FMT value without a reserved value (03 R73). -/
def fmtLegal (f : Word) : Bool :=
  decide (4 ≤ fmtSgrp f) && decide (fmtSgrp f ≤ 9) && decide (fmtAct f ≤ 1) && decide (fmtSpar f ≤ 2)
    && decide (fmtAcc f ≤ 1) && f.extractLsb' 18 14 == 0

/-- A legal GANG value for a fibre of quadrant `q` (03 R74). -/
def gangLegal (g : Word) (q : Nat) : Bool :=
  decide (g ∈ ([0, 1, 2, 4, 8, 3, 12, 15] : List Word)) && (g == 0 || g.getLsbD q)

/-- The active mask of a ply under a MODE (03 R72). -/
def activeMask (f : Fibre) (p : Ply) : Mask :=
  if modeGe f.spec.mode then
    let g := f.regs.preds.getD (modeGp f.spec.mode) 0
    p.exec &&& (if modeGs f.spec.mode then ~~~g else g)
  else p.exec

/-- The active mask of the issuing instruction (03 R72). -/
def View.active (v : View) : Mask := activeMask v.fib v.ply

/-! ### Where the program counter goes -/

/-- The body length of a loop. -/
def LoopState.len (l : LoopState) : Nat := l.body.length

/-- ASTEPB of a step word (02 R49). -/
def stepBytes (w : Word) : Int := (w.extractLsb' 0 16).toInt

/-- The ply after an instruction that falls through: the next word, the next body word, the next pass,
or the word after the body (02 R51, 08 R199, R209). -/
def Ply.advance (p : Ply) : Ply :=
  match p.loop with
  | none => { p with pc := p.pc + 4, stall := none }
  | some l =>
    if l.idx + 1 < l.len then
      { p with pc := p.pc + 4, loop := some { l with idx := l.idx + 1 }, stall := none }
    else if l.pass + 1 < l.count then
      { p with pc := l.laddr + 8, stall := none
               loop := some { l with idx := 0, pass := l.pass + 1, loff := l.loff + stepBytes l.step } }
    else { p with pc := l.laddr + 8 + BitVec.ofNat 64 (4 * l.len), loop := none, stall := none }

/-- The fills of a ply's replay have served (17 R352). -/
def Fibre.served (f : Fibre) (ply : Nat) : Fibre :=
  { f with sched := { f.sched with fills := f.sched.fills.filter (·.1 != ply) } }

/-- One more retired instruction of a fibre (18 R373).  In a deterministic launch, whose fibres count down a quantum, the budget
of a `NOPRE` section counts these: at its last one the section closes, and SOFT is due (18 R378). -/
def FSched.tick (x : FSched) : FSched :=
  let out := x.left.isSome && (x.nopre.map fun from_ => decide (from_ + Config.nopreBudget ≤ x.retired + 1)).getD false
  { x with
    retired := x.retired + 1, left := x.left.map (· - 1)
    nopre := if out then none else x.nopre, softPending := x.softPending || out }

/-- A ply's instruction retires: it counts, unless it has waited, and so was counted when it issued (18 R373). -/
def FSched.count (x : FSched) (ply : Nat) : FSched :=
  if (kget x.tally ply).isSome then { x with tally := kerase x.tally ply } else x.tick

/-- A ply begins to wait at an instruction that has issued: it is counted now (18 R373). -/
def FSched.begins (x : FSched) (ply : Nat) : FSched :=
  if (kget x.tally ply).isSome then x else { x.tick with tally := kset x.tally ply true }

/-- The instruction at which a ply has waited traps after all: it is no retired one (18 R373). -/
def FSched.uncount (x : FSched) (ply : Nat) : FSched :=
  match kget x.tally ply with
  | none => x
  | some now =>
    { x with
      retired := x.retired - 1, left := if now then x.left.map (· + 1) else x.left, tally := kerase x.tally ply }

/-- A ply's instruction retires, which ends its replay (17 R352, 18 R373). -/
def Fibre.count (f : Fibre) (ply : Nat) : Fibre := { f with sched := (f.served ply).sched.count ply }

/-- A ply begins to wait. -/
def Fibre.begins (f : Fibre) (ply : Nat) : Fibre := { f with sched := f.sched.begins ply }

/-- The instruction at which a ply has waited traps. -/
def Fibre.uncount (f : Fibre) (ply : Nat) : Fibre := { f with sched := f.sched.uncount ply }

/-- The fibre after its ply's instruction has fallen through. -/
def Fibre.retire (f : Fibre) (ply : Nat) : Fibre :=
  (f.setPly ply (f.ply ply).advance).count ply

/-- Retire the issuing instruction with fall-through. -/
def State.retire (s : State) (v : View) : State := s.onFibre v fun f => f.retire v.who.ply

/-- Retire the issuing instruction, going to an address. -/
def State.retireTo (s : State) (v : View) (pc : Addr) : State :=
  s.onFibre v fun f =>
    (f.setPly v.who.ply { (f.ply v.who.ply) with pc := pc, stall := none }).count v.who.ply

/-! ### Registers by name -/

/-- The tag that a launch gives a main register (03 R56): 0 U, 1 A, 2 G. -/
def Header.tag (h : Header) (i : Nat) : Nat := if i < h.nu then 0 else if i < h.nu + h.na then 1 else 2

/-- Whether a main register lies in the shared window (02 R28). -/
def Header.inWindow (h : Header) (i : Nat) : Bool :=
  decide (h.wfirst ≤ i) && decide (i < h.wfirst + h.wcount)

/-- A dead register of a tag, contents 0 (03 R55; DESIGN CHOICE the 0, log 5). -/
def Reg.dead (tag w : Nat) : Reg :=
  { live := false, poison := 0
    val := if tag = 0 then .u 0 else if tag = 1 then .a 0 0 else .g (List.replicate w 0) }

/-- A main register of a fibre in its residency, a window register being its spindle's (02 R28). -/
def getV (h : Header) (r : Residency) (slot : Nat) (f : Fibre) (i : Nat) : Reg :=
  if h.inWindow i then (kgetD r.windows (spindleKey slot) []).getD (i - h.wfirst) (Reg.dead (h.tag i) h.width)
  else f.regs.v.getD i (Reg.dead (h.tag i) h.width)

/-- An operand-file register. -/
def getO (h : Header) (f : Fibre) (i : Nat) : Reg := f.regs.o.getD i (Reg.dead 2 h.width)

/-- Replace element `i` of a list; where it is shorter, it grows with the values `d` that its missing elements read as. -/
def setAt {α : Type} (xs : List α) (i : Nat) (x : α) (d : Nat → α) : List α :=
  if i < xs.length then xs.set i x
  else xs ++ (List.range (i - xs.length)).map (fun k => d (xs.length + k)) ++ [x]

/-- Write a main register. -/
def State.setV (s : State) (n r slot : Nat) (h : Header) (i : Nat) (x : Reg) : State :=
  if h.inWindow i then
    s.modRes n r fun res =>
      { res with
        windows := kset res.windows (spindleKey slot)
          (setAt (kgetD res.windows (spindleKey slot) []) (i - h.wfirst) x fun k => Reg.dead (h.tag (k + h.wfirst)) h.width) }
  else s.modFibre n r slot fun f =>
    { f with regs := { f.regs with v := setAt f.regs.v i x fun k => Reg.dead (h.tag k) h.width } }

/-- Write an operand-file register. -/
def State.setO (s : State) (n r slot : Nat) (h : Header) (i : Nat) (x : Reg) : State :=
  s.modFibre n r slot fun f =>
    { f with regs := { f.regs with o := setAt f.regs.o i x fun _ => Reg.dead 2 h.width } }

/-- One lane of a register value (03 R66). -/
def RegVal.lane : RegVal → Nat → Word
  | .u x, _ => x
  | .a b st, l => b + BitVec.ofNat 32 l * st
  | .g xs, l => xs.getD l 0

/-- Write lanes of a G value. -/
def RegVal.setLanes (v : RegVal) (w : Nat) (act : Mask) (f : Nat → Word) : RegVal :=
  .g ((List.range w).map fun l => if act.getLsbD l then f l else v.lane l)

/-- A register after lanes of it are written with values that are or are not poisoned. -/
def Reg.writeLanes (x : Reg) (w : Nat) (act : Mask) (f : Nat → Word) (poison : Mask) : Reg :=
  { live := true, val := x.val.setLanes w act f, poison := (x.poison &&& ~~~act) ||| (poison &&& act) }

/-- A register after a uniform value is written (03 R68 to R70, R405): a U register takes it, an A
register takes it with stride 0 unless no lane is active, a G register takes it in active lanes. -/
def Reg.writeUniform (x : Reg) (w : Nat) (act : Mask) (u : Word) (poison : Bool) : Reg :=
  match x.val with
  | .u _ => { live := true, val := .u u, poison := if poison then 1 else 0 }
  | .a _ _ => if act = 0 then x else { live := true, val := .a u 0, poison := if poison then fullMask w else 0 }
  | .g _ => if act = 0 then x else x.writeLanes w act (fun _ => u) (if poison then fullMask w else 0)

/-- Deliver a 32-bit uniform value to a destination under a mask (03 R68, R69, R405). -/
def State.giveUniform (s : State) (n r slot : Nat) (act : Mask) (d : Dest) (u : Word) (poison : Bool) : State :=
  match s.team n r, s.fibre n r slot with
  | some t, some f =>
    match d with
    | .v i => s.setV n r slot t.hdr i ((getV t.hdr (s.res n r) slot f i).writeUniform t.hdr.width act u poison)
    | .o i => s.setO n r slot t.hdr i ((getO t.hdr f i).writeUniform t.hdr.width act u poison)
    | _ => s
  | _, _ => s

/-! ### Waiting -/

/-- The fibre waits: its wait record is set and it leaves the ready set (02 R27); the instruction has issued (18 R373). -/
def State.waitOn (s : State) (v : View) (wt : Wait) : State :=
  s.onFibre v fun f => { f.begins v.who.ply with status := .waiting, wait := some { ply := v.who.ply, wait := wt } }

/-- The destination a wait writes its status to. -/
def Wait.dest : Wait → Dest
  | .barrier _ _ _ d => d
  | .mon _ _ _ d => d
  | _ => .nothing

/-- A waiting fibre's instruction completes with a status: the status is written, the ply goes on, the
fibre is READY (02 R27, R43, 08 R216). -/
def State.resume (s : State) (n r slot : Nat) (status : Word) : State :=
  match s.fibre n r slot with
  | some f =>
    match f.wait with
    | some w =>
      let act := activeMask f (f.ply w.ply)
      let s1 := match w.wait with
        | .barrier _ _ false _ => s
        | _ => s.giveUniform n r slot act w.wait.dest status false
      s1.modFibre n r slot fun g => { (g.retire w.ply) with status := .ready, wait := none }
    | none => s
  | none => s

/-! ### Team barriers (02 R43) -/

/-- A barrier that nothing has initialised. -/
def Barrier.fresh : Barrier := { state := .free, count := 0, reload := 0, pend := [] }

/-- A barrier of a residency's team. -/
def State.bar (s : State) (n r id : Nat) : Barrier :=
  ((s.team n r).map fun t => kgetD t.barriers id Barrier.fresh).getD Barrier.fresh

/-- Replace a barrier. -/
def State.setBar (s : State) (n r id : Nat) (b : Barrier) : State :=
  s.modTeam n r fun t => { t with barriers := kset t.barriers id b }

/-- Insert by a rising key, after entries of an equal key. -/
def insertBy {α : Type} (key : α → Nat) (x : α) : List α → List α
  | [] => [x]
  | y :: ys => if key x < key y then x :: y :: ys else y :: insertBy key x ys

/-- Fibres waiting at a barrier, held or not, in ascending fibre number: core, slot, fibre. -/
def State.barWaiters (s : State) (n r id : Nat) (held : Bool) : List (Nat × Nat × Fibre) :=
  ((s.teamFibres n r).filter fun x =>
    match x.2.2.wait with
    | some ⟨_, .barrier i h _ _⟩ => i == id && h == held
    | _ => false).foldl (fun ys x => insertBy (fun z => z.2.2.num) x ys) []

/-- Release fibres with a status. -/
def State.resumeAll (s : State) (r : Nat) (xs : List (Nat × Nat × Fibre)) (status : Word) : State :=
  xs.foldl (fun s x => s.resume x.1 r x.2.1 status) s

/-- One arrival counts (02 R43, R44): the count falls, the pending bit is set; at 0 the barrier is
CONSUMED, every waiting fibre returns status 0 and its pending bit clears; with no pending bit left it
is ARMED again with count RELOAD. -/
def State.barArrive (s : State) (n r id fnum : Nat) : State :=
  let b := s.bar n r id
  let b1 : Barrier :=
    { b with count := b.count - 1, pend := if b.pend.contains fnum then b.pend else fnum :: b.pend }
  if b1.count ≠ 0 then s.setBar n r id b1
  else
    let ws := s.barWaiters n r id false
    let pend := b1.pend.filter fun x => !(ws.any fun w => w.2.2.num == x)
    let b2 := if pend = [] then { b1 with state := .armed, count := b1.reload, pend := [] }
              else { b1 with state := .consumed, pend := pend }
    (s.setBar n r id b2).resumeAll r ws 0

/-- A held arrival is taken once the barrier is ARMED again: a `BARV` goes on, a `BSYNC` waits. -/
def State.takeHeld (s : State) (n r id : Nat) (x : Nat × Nat × Fibre) : State :=
  if (s.bar n r id).state ≠ .armed then s
  else
    match x.2.2.wait with
    | some ⟨p, .barrier _ _ sync d⟩ =>
      if sync then
        let s1 := s.modFibre x.1 r x.2.1 fun f => { f with wait := some { ply := p, wait := .barrier id false true d } }
        s1.barArrive n r id x.2.2.num
      else (s.resume x.1 r x.2.1 0).barArrive n r id x.2.2.num
    | _ => s

/-- A fibre's pending bit at a barrier clears; when it is the last of a CONSUMED barrier, the barrier
re-arms and held arrivals are taken in ascending fibre number (02 R43). -/
def State.barLeave (s : State) (n r id fnum : Nat) : State :=
  let b := s.bar n r id
  if b.pend.contains fnum then
    let pend := b.pend.filter (· != fnum)
    if b.state = .consumed ∧ pend = [] then
      let held := s.barWaiters n r id true
      held.foldl (fun s x => s.takeHeld n r id x)
        (s.setBar n r id { b with state := .armed, count := b.reload, pend := [] })
    else s.setBar n r id { b with pend := pend }
  else s

/-- A barrier is left for good, with status 1 to every waiter and every held arrival (02 R43). -/
def State.barRelease (s : State) (n r id : Nat) (b : Barrier) : State :=
  let ws := s.barWaiters n r id false ++ s.barWaiters n r id true
  (s.setBar n r id b).resumeAll r ws 1

/-- A fibre of the team becomes FROZEN: ARMED and CONSUMED barriers are ABANDONED (02 R43). -/
def State.barFreeze (s : State) (n r : Nat) : State :=
  (((s.team n r).map (·.barriers)).getD []).foldl (fun s p =>
    if p.2.state = .armed ∨ p.2.state = .consumed then
      s.barRelease n r p.1 { p.2 with state := .abandoned, pend := [] }
    else s) s

/-! ### Fibre-local barriers (02 R30) -/

/-- Whether a position of a spindle counts as arrived at an `FBAR` of a mask. -/
def fbarArrived (res : Residency) (key mask pos : Nat) : Bool :=
  match kget res.slots (pos * 8 + key % 2 * 4 + key / 2) with
  | none => true
  | some f =>
    f.status == .frozen ||
      (match f.wait with
       | some ⟨_, .fbar m⟩ => m == mask
       | _ => false)

/-- Complete every `FBAR` of a spindle that all its named positions have reached (02 R30). -/
def State.fbarSettle (s : State) (n r key : Nat) : State :=
  (List.range 4).foldl (fun s pos =>
    let res := s.res n r
    match kget res.slots (pos * 8 + key % 2 * 4 + key / 2) with
    | some f =>
      match f.wait with
      | some ⟨_, .fbar m⟩ =>
        if (List.range 4).all fun p => !(m.testBit p) || fbarArrived res key m p then
          (List.range 4).foldl (fun s p =>
            if m.testBit p then
              match s.fibre n r (p * 8 + key % 2 * 4 + key / 2) with
              | some g =>
                (match g.wait with
                 | some ⟨_, .fbar m'⟩ =>
                   if m' = m then s.resume n r (p * 8 + key % 2 * 4 + key / 2) 0 else s
                 | _ => s)
              | none => s
            else s) s
        else s
      | _ => s
    | none => s) s

/-! ### Reconvergence stacks (02 R34, R35) -/

/-- Offset of the spill area in a core's share of the scratchpad (02 R34). -/
def State.spillBase (s : State) (n : Nat) : Nat := s.shareSize n - 57344

/-- The physical address of spilled entry `k` of ply `p` of a slot (02 R34). -/
def State.spillPa (s : State) (n r slot p k : Nat) : Nat :=
  scratchPa n (s.shareBase n r + s.spillBase n + ((2 * slot + p) * 28 + k) * 32)

/-- The 32 bytes of an entry (02 R35). -/
def StackEntry.bytes (e : StackEntry) : List Byte :=
  bytesOfNat 8 e.mask.toNat
    ++ bytesOfNat 8 ((e.addr.getD 0).toNat % 2 ^ 56 + (if e.arm then 2 ^ 63 else 0))
    ++ bytesOfNat 4 e.mode.toNat ++ bytesOfNat 4 e.fmt.toNat ++ bytesOfNat 8 0

/-- The entry of 32 bytes (02 R35). -/
def StackEntry.ofBytes (bs : List Byte) : StackEntry :=
  let w := leAt bs 8 8
  let a := BitVec.ofNat 64 (w % 2 ^ 56)
  let arm := w.testBit 63
  { arm := arm, mask := BitVec.ofNat 64 (leAt bs 0 8)
    addr := if a = 0 ∧ ¬ arm then none else some a
    mode := BitVec.ofNat 32 (leAt bs 16 4), fmt := BitVec.ofNat 32 (leAt bs 20 4), bad := false }

/-- Depth of a stack, on chip and spilled. -/
def Ply.depth (p : Ply) : Nat := p.stack.length + p.spilled

/-- The spilled entry `k` of a ply, with the poison of its atom (02 R34, 17 R362; log 95). -/
def State.spilledEntry (s : State) (n r slot p k : Nat) : StackEntry :=
  let as := span (s.spillPa n r slot p k) 32
  { StackEntry.ofBytes (readAll s.mem as) with bad := s.poisoned as }

/-- An entry goes to its place in the spill area, and its poison with it. -/
def State.spillEntry (s : State) (n r slot p k : Nat) (e : StackEntry) : State :=
  let as := span (s.spillPa n r slot p k) 32
  s.write as e.bytes (if e.bad then as else [])

/-- The whole stack of a ply, top first. -/
def State.wholeStack (s : State) (n r slot p : Nat) (x : Ply) : List StackEntry :=
  x.stack ++ (List.range x.spilled).map fun k => s.spilledEntry n r slot p (x.spilled - 1 - k)

/-- Push an entry; the fifth on-chip entry goes to the spill area (02 R34). -/
def State.pushEntry (s : State) (v : View) (e : StackEntry) : State :=
  match s.fibre v.who.core v.who.res v.who.slot with
  | none => s
  | some f =>
    let p := f.ply v.who.ply
    if p.stack.length < 4 then s.onPly v fun p => { p with stack := e :: p.stack }
    else
      let old := p.stack.getD 3 e
      (s.spillEntry v.who.core v.who.res v.who.slot v.who.ply p.spilled old).onPly v fun p =>
        { p with stack := e :: p.stack.take 3, spilled := p.spilled + 1 }

/-- Pop the top entry; the newest spilled entry comes back on chip (02 R34). -/
def State.popEntry (s : State) (v : View) : State :=
  match s.fibre v.who.core v.who.res v.who.slot with
  | none => s
  | some f =>
    let p := f.ply v.who.ply
    if p.spilled = 0 then s.onPly v fun p => { p with stack := p.stack.drop 1 }
    else
      let e := s.spilledEntry v.who.core v.who.res v.who.slot v.who.ply (p.spilled - 1)
      s.onPly v fun p => { p with stack := p.stack.drop 1 ++ [e], spilled := p.spilled - 1 }

/-! ### Taking a trap, and freezing a fibre (08 R207, 17 R355 to R358) -/

/-- The physical address of the frame of a ply (17 R357). -/
def State.framePa (s : State) (n r slot p scratch : Nat) : Nat :=
  scratchPa n (s.shareBase n r + scratch - 8192 + (2 * slot + p) * 128)

/-- The 128 bytes of a frame (17 R358). -/
def frameBytes (t : Trap) (ply : Nat) (p : Ply) (mode fmt : Word) : List Byte :=
  let lp := p.loop
  bytesOfNat 1 t.kind.code ++ bytesOfNat 1 t.cause
    ++ bytesOfNat 1 (ply + if lp.isSome then 2 else 0) ++ bytesOfNat 1 0
    ++ bytesOfNat 4 t.code.toNat ++ bytesOfNat 8 p.pc.toNat ++ bytesOfNat 8 p.exec.toNat
    ++ bytesOfNat 8 p.link.toNat ++ bytesOfNat 4 mode.toNat ++ bytesOfNat 4 fmt.toNat
    ++ bytesOfNat 8 t.lanes.toNat ++ bytesOfNat 8 t.addr.toNat
    ++ bytesOfNat 4 ((lp.map (·.pass)).getD 0) ++ bytesOfNat 4 ((lp.map (·.count)).getD 0)
    ++ bytesOfNat 4 (ofInt 32 ((lp.map (·.loff)).getD 0)) ++ bytesOfNat 4 0
    ++ bytesOfNat 8 ((lp.map (·.laddr.toNat)).getD 0) ++ bytesOfNat 2 t.field ++ bytesOfNat 46 0

/-! ### A failed shadow check (17 R366, R368) -/

/-- The even core of a core's pair. -/
def pairOf (n : Nat) : Nat := n / 2 * 2

/-- Change both cores of a pair. -/
def State.modPair (s : State) (n : Nat) (f : Core → Core) : State :=
  (s.modCore (pairOf n) f).modCore (pairOf n + 1) f

/-- A write of TEST: RUN requests a test of the pair unless it is BUSY (17 R368). -/
def State.requestTest (s : State) (n : Nat) : State :=
  if (s.core n).health.busy then s
  else s.modPair n fun c => { c with health := { c.health with busy := true } }

/-- A retry that fails (17 R366): SUSPECT, a core-suspect event, and a test of the pair. -/
def State.shadowFails (s : State) (n : Nat) : State :=
  let s1 := (s.modCore n fun c => { c with shadow := 0, health := { c.health with suspect := true } }).modPair n fun c =>
    { c with health := { c.health with untested := true } }
  (s1.post .coreSuspect n 65536 [n]).requestTest n

/-- What is still to be done when traps and freezes follow one another (10 R255). -/
inductive Job where
  | trap (core res slot ply : Nat) (t : Trap)
  | freeze (core res slot : Nat) (cause kind trapCause : Nat) (pc : Addr)

/-- The effect of a freeze on the gang latch of the slot's group (10 R255): every member that has
arrived raises ILL with the gang-abandoned cause, and the latch clears. -/
def State.gangAbandon (s : State) (n r slot : Nat) : State × List Job :=
  let g := slot / 4
  match kget (s.res n r).latches g with
  | none => (s, [])
  | some rec =>
    if rec.gang.getLsbD (slot % 4) then
      let s1 := s.modRes n r fun x => { x with latches := kerase x.latches g }
      let s2 := rec.arrived.foldl (fun s a => s.modFibre n r a.slot fun f =>
        f.setPly a.ply { (f.ply a.ply) with atLatch := false }) s1
      (s2, (rec.arrived.filter fun a => a.slot != slot).map fun a => .trap n r a.slot a.ply (Trap.plain .ill 5))
    else (s, [])

/-- The fibre enters the team's handler (08 R207): the frame is written, the ply is marked, MODE is
reset, the pc goes to the handler; the replay that the trap ends has no more use for its fills (17 R352). -/
def State.enterHandler (s : State) (n r slot ply : Nat) (t : Team) (f : Fibre) (tr : Trap) : State :=
  let p := f.ply ply
  let s1 := s.store (span (s.framePa n r slot ply t.hdr.scratch) 128) (frameBytes tr ply p f.spec.mode f.spec.fmt)
  s1.modFibre n r slot fun f =>
    { ((f.uncount ply).setPly ply
        { p with pc := t.handler, loop := none, inHandler := true, stall := none, atLatch := false }).served ply with
      spec := { f.spec with mode := modeReset } }

/-- Why a trap kills rather than enters the handler (17 R355 to R357), as a kill cause. -/
def killCause (t : Team) (p : Ply) (tr : Trap) : Option Nat :=
  match tr.kind with
  | .poison => some 3
  | .shadow => some 4
  | _ =>
    if t.handler = 0 then some 0
    else if p.inHandler then some 1
    else if t.hdr.scratch < 8192 then some 7
    else none

/-- The record that a fibre of a sampled team adds when it becomes FROZEN (18 R381). -/
def State.killRecord (s : State) (n r fibre cause : Nat) : State :=
  s.modTeam n r fun t =>
    { t with det := t.det.map fun d =>
        if d.sampled then
          { d with check := d.check ++ [{ fibre := fibre, va := 0, code := 0, lane := 0, size := 0, data := bytesOfNat 4 cause }] }
        else d }

/-- Do one job. -/
def Job.run (s : State) : Job → State × List Job
  | .trap n r slot ply tr =>
    match s.team n r, s.fibre n r slot with
    | some t, some f =>
      if f.status = .frozen then (s, [])
      else
        match killCause t (f.ply ply) tr with
        | some c =>
          (if tr.kind = .shadow then s.shadowFails n else s, [.freeze n r slot c tr.kind.code tr.cause (f.ply ply).pc])
        | none => (s.enterHandler n r slot ply t f tr, [])
    | _, _ => (s, [])
  | .freeze n r slot cause kind tc pc =>
    match s.team n r, s.fibre n r slot with
    | some t, some f =>
      if f.status = .frozen then (s, [])
      else
        let s1 := s.setFibre n r slot
          { f with
            status := .frozen, wait := none
            sched := { f.sched with nopre := none, softPending := false, fills := [], killed := some cause } }
        let s2 := s1.modRes n r fun x => { x with faults := kerase x.faults slot }
        let s3 := s2.post .fibreFrozen n t.ctx [n, slot, r, cause, kind, tc, pc.toNat]
        let s4 := (s3.barFreeze n r).fbarSettle n r (spindleKey slot)
        (s4.killRecord n r f.num cause).gangAbandon n r slot
    | _, _ => (s, [])

/-- Do jobs until none is left; `fuel` bounds their number. -/
def settle : Nat → List Job → State → State
  | 0, _, s => s
  | _, [], s => s
  | fuel + 1, j :: js, s => let (s', more) := j.run s; settle fuel (js ++ more) s'

/-- Enough for every fibre and every latch of a team. -/
def settleFuel : Nat := 1024

/-- A ply raises a trap. -/
def State.trapAt (s : State) (n r slot ply : Nat) (t : Trap) : State :=
  settle settleFuel [.trap n r slot ply t] s

/-- A fibre becomes FROZEN with a kill cause (17 R356). -/
def State.freezeAt (s : State) (n r slot cause kind tc : Nat) (pc : Addr) : State :=
  settle settleFuel [.freeze n r slot cause kind tc pc] s

/-- The issuing ply raises a trap. -/
def State.takeTrap (s : State) (v : View) (t : Trap) : State :=
  s.trapAt v.who.core v.who.res v.who.slot v.who.ply t

/-! ### Returning from a handler (08 R209, 17 R358) -/

/-- A frame as `TRET` reads it (17 R358). -/
structure Frame where
  looping : Bool
  pc : Addr
  exec : Mask
  link : Addr
  mode : Word
  fmt : Word
  pass : Nat
  count : Nat
  loff : Int
  laddr : Addr
  deriving DecidableEq, Repr

/-- The frame of 128 bytes. -/
def frameOf (bs : List Byte) : Frame :=
  { looping := (leAt bs 2 1).testBit 1, pc := BitVec.ofNat 64 (leAt bs 8 8), exec := BitVec.ofNat 64 (leAt bs 16 8)
    link := BitVec.ofNat 64 (leAt bs 24 8), mode := BitVec.ofNat 32 (leAt bs 32 4), fmt := BitVec.ofNat 32 (leAt bs 36 4)
    pass := leAt bs 56 4, count := leAt bs 60 4, loff := toSigned 32 (leAt bs 64 4)
    laddr := BitVec.ofNat 64 (leAt bs 72 8) }

/-- The fields of a frame that are legal whatever its loop is (17 R358; the pc is checked as a target). -/
def Frame.legal (fr : Frame) : Bool :=
  modeLegal fr.mode && fmtLegal fr.fmt && fr.link.extractLsb' 0 2 == 0 && fr.link.extractLsb' 56 8 == 0
    && (!fr.looping || decide (fr.pass < fr.count))

/-- The loop state that a frame gives a captured body with its step word; none when the pc lies outside it (17 R358). -/
def Frame.loop (fr : Frame) (body : List Word) (step : Word) : Option LoopState :=
  let off := fr.pc.toNat - (fr.laddr.toNat + 8)
  if fr.laddr.toNat + 8 ≤ fr.pc.toNat ∧ off / 4 < body.length then
    some { laddr := fr.laddr, body := body, step := step, pass := fr.pass, count := fr.count, idx := off / 4
           loff := fr.loff }
  else none

/-- The fibre leaves a ply's handler: EXEC AND the ply mask, LINK, MODE, FMT and the loop come back, the
in-handler mark clears, and the ply goes on at the trapping instruction or after it, which is after the step word when
it is a `LOOP` (06 R134, 08 R209, 17 R358). -/
def Fibre.leaveHandler (f : Fibre) (ply : Nat) (fr : Frame) (loop : Option LoopState) (after isLoop : Bool) : Fibre :=
  let p := f.ply ply
  let q : Ply :=
    { p with pc := if after && isLoop then fr.pc + 4 else fr.pc, exec := fr.exec &&& p.mask, link := fr.link, loop := loop, inHandler := false, stall := none }
  { (f.setPly ply (if after then q.advance else q)).count ply with spec := { f.spec with mode := fr.mode, fmt := fr.fmt } }

/-! ### Parking (17 R350) -/

/-- Whether the fault kind can be resolved (17 R349). -/
def FaultKind.resolvable : FaultKind → Bool
  | .np => true
  | .perm => true
  | _ => false

/-- The fibre parks at a fault: the fault buffer takes it, and the service, or the fibre is killed
when the fault cannot be resolved (17 R350). -/
def State.park (s : State) (v : View) (va : Nat) (cls : AccClass) (kind : FaultKind) : State :=
  if kind.resolvable then
    let page := va / 65536 * 65536
    let s1 := s.onFibre v fun f => { f with status := .parked, sched := { f.sched with since := s.clock } }
    let s2 := s1.modRes v.who.core v.who.res fun x =>
      { x with faults := kset x.faults v.who.slot { ply := v.who.ply, va := va, cls := cls, kind := kind } }
    let who := (v.team.launch, v.team.num, v.fib.num)
    match s2.control.faults.find? fun p => p.2.ctx == v.team.ctx && p.2.va == page && p.2.kind == kind with
    | some p =>
      { s2 with control := { s2.control with
          faults := kset s2.control.faults p.1 { p.2 with fibres := p.2.fibres ++ [who] } } }
    | none =>
      { s2 with control := { s2.control with
          faults := kset s2.control.faults s2.control.nextFault
            { ctx := v.team.ctx, va := page, kind := kind, cls := cls, fibres := [who], posted := false }
          nextFault := s2.control.nextFault + 1 } }
  else
    s.freezeAt v.who.core v.who.res v.who.slot 6 0xFF 0xFF v.ply.pc

/-- The ply stalls (02 R26). -/
def State.stall (s : State) (v : View) (y : Bool) : State := s.onPly v fun p => { p with stall := some y }

/-- The ply stalls at a miss, and a walk starts unless the ply has one already (17 R347). -/
def State.startWalk (s : State) (v : View) (y : Bool) (va : Nat) (cls : AccClass) : State :=
  let s1 := s.stall v y
  s1.modCore v.who.core fun c =>
    if c.walks.any fun p => p.2.slot == v.who.slot && p.2.res == v.who.res && p.2.ply == v.who.ply then c
    else
      { c with
        walks := kset c.walks ((c.walks.map (·.1)).foldl (fun m k => max m (k + 1)) 0)
          { res := v.who.res, slot := v.who.slot, ply := v.who.ply, ctx := v.team.ctx, va := va, cls := cls } }

/-- What an issue that stops does (02 R26, 17 R347, R350, R355). -/
def State.onStop (s : State) (v : View) (y : Bool) : Stop → State
  | .trap t => s.takeTrap v t
  | .stall => s.stall v y
  | .halt => (s.stall v y).onFibre v fun f => { f with sched := { f.sched with left := some 0 } }
  | .miss va cls => s.startWalk v y va cls
  | .fault va cls kind => s.park v va cls kind

/-- Issue an instruction for the current ply: its own effect, or what its stop does. -/
def issue (y : Bool) (s : State) (body : View → Except Stop State) : Host.Outcome State Fault Refusal :=
  match s.view with
  | none => .fault .noIssuer
  | some v =>
    match body v with
    | .ok s' => .next s'
    | .error e => .next (s.onStop v y e)

/-- An event of the machine: its effect when its conditions hold, and nothing when they do not. -/
def event (s : State) (effect : Option State) : Host.Outcome State Fault Refusal := .next (effect.getD s)

/-! ### A fibre at launch (03 R55) -/

/-- The registers of a fibre at launch. -/
def launchRegs (h : Header) : Regs :=
  { v := (List.range (h.nu + h.na + h.ng)).map fun i => Reg.dead (h.tag i) h.width
    o := List.replicate 16 (Reg.dead 2 h.width)
    la := List.replicate h.width 0, lm := List.replicate h.width 0, laPoison := 0, lmPoison := 0
    preds := List.replicate 8 0
    tiles := List.replicate 16 { live := false, cells := [], poison := [] } }

/-- The special registers of a fibre at launch (03 R71 to R74). -/
def launchSpecial : Special :=
  { mode := modeReset, fmt := fmtReset, gang := 0, rcnt := 0
    ctr := { ld := 0, st := 0, far := 0, eng := 0, bank := 0, sel := 0 }, table := none, bankCh := none }

/-- A fibre's bookkeeping at launch. -/
def launchSched : FSched :=
  { lastPly := 1, nopre := none, softPending := false, retired := 0, left := none, tally := [], fills := [], killed := none
    since := 0 }

/-- A fibre as a launch or a spawn bin starts it: ply 0 holds its lanes, ply 1 none (02 R31, 03 R55). -/
def launchFibre (h : Header) (num : Nat) (pc : Addr) (lanes : Mask) : Fibre :=
  { num := num, status := .ready, wait := none, lanes := lanes
    p0 := { Ply.empty with pc := pc, exec := lanes, mask := lanes }, p1 := Ply.empty, merge := none
    regs := launchRegs h, spec := launchSpecial, sched := launchSched }

end Sys2Proof.Machine
end

