-- ==== Sys2Proof/Machine/Crypto.lean ====
section
/-! DEFINITION. The digests and the signature check that the manual names by their standards: SHA-256, the
CRC-64 of ECMA-182, and ECDSA over the curve P-256 (11 R298, 18 R381, 20 R402, R403). -/

namespace Sys2Proof.Machine

open Sys2Proof

/-! ### SHA-256 -/

/-- The round constants. -/
def shaK : List Word :=
  ([0x428a2f98, 0x71374491, 0xb5c0fbcf, 0xe9b5dba5, 0x3956c25b, 0x59f111f1, 0x923f82a4, 0xab1c5ed5] : List Word)
    ++ [0xd807aa98, 0x12835b01, 0x243185be, 0x550c7dc3, 0x72be5d74, 0x80deb1fe, 0x9bdc06a7, 0xc19bf174]
    ++ [0xe49b69c1, 0xefbe4786, 0x0fc19dc6, 0x240ca1cc, 0x2de92c6f, 0x4a7484aa, 0x5cb0a9dc, 0x76f988da]
    ++ [0x983e5152, 0xa831c66d, 0xb00327c8, 0xbf597fc7, 0xc6e00bf3, 0xd5a79147, 0x06ca6351, 0x14292967]
    ++ [0x27b70a85, 0x2e1b2138, 0x4d2c6dfc, 0x53380d13, 0x650a7354, 0x766a0abb, 0x81c2c92e, 0x92722c85]
    ++ [0xa2bfe8a1, 0xa81a664b, 0xc24b8b70, 0xc76c51a3, 0xd192e819, 0xd6990624, 0xf40e3585, 0x106aa070]
    ++ [0x19a4c116, 0x1e376c08, 0x2748774c, 0x34b0bcb5, 0x391c0cb3, 0x4ed8aa4a, 0x5b9cca4f, 0x682e6ff3]
    ++ [0x748f82ee, 0x78a5636f, 0x84c87814, 0x8cc70208, 0x90befffa, 0xa4506ceb, 0xbef9a3f7, 0xc67178f2]

/-- The initial hash. -/
def shaInit : List Word :=
  [0x6a09e667, 0xbb67ae85, 0x3c6ef372, 0xa54ff53a, 0x510e527f, 0x9b05688c, 0x1f83d9ab, 0x5be0cd19]

/-- The big-endian number of some bytes. -/
def beNat (bs : List Byte) : Nat := bs.foldl (fun n b => 256 * n + b.toNat) 0

/-- `n` big-endian bytes of a number. -/
def beBytes (n x : Nat) : List Byte := (bytesOfNat n x).reverse

/-- A message padded to whole blocks. -/
def shaPad (m : List Byte) : List Byte :=
  m ++ [0x80] ++ List.replicate ((119 - m.length % 64) % 64) 0 ++ beBytes 8 (8 * m.length)

/-- The next word of the schedule, the latest sixteen given newest first. -/
def shaNext (w : List Word) : Word :=
  let a := w.getD 14 0
  let b := w.getD 1 0
  let s0 := a.rotateRight 7 ^^^ a.rotateRight 18 ^^^ (a >>> 3)
  let s1 := b.rotateRight 17 ^^^ b.rotateRight 19 ^^^ (b >>> 10)
  w.getD 15 0 + s0 + w.getD 6 0 + s1

/-- One round. -/
def shaRound (h : List Word) (k w : Word) : List Word :=
  match h with
  | [a, b, c, d, e, f, g, x] =>
    let s1 := e.rotateRight 6 ^^^ e.rotateRight 11 ^^^ e.rotateRight 25
    let ch := (e &&& f) ^^^ (~~~e &&& g)
    let t1 := x + s1 + ch + k + w
    let s0 := a.rotateRight 2 ^^^ a.rotateRight 13 ^^^ a.rotateRight 22
    let mj := (a &&& b) ^^^ (a &&& c) ^^^ (b &&& c)
    [t1 + (s0 + mj), a, b, c, d + t1, e, f, g]
  | _ => h

/-- The rounds of a block: the constants left, the next sixteen schedule words newest first, the hash. -/
def shaRounds : List Word → List Word → List Word → List Word
  | [], _, h => h
  | k :: ks, w, h => shaRounds ks (shaNext w :: w.take 15) (shaRound h k (w.getD 15 0))

/-- The hash after a block of 64 bytes. -/
def shaBlock (h : List Word) (b : List Byte) : List Word :=
  let w := ((List.range 16).map fun i => BitVec.ofNat 32 (beNat (sliceBytes b (4 * i) 4))).reverse
  List.zipWith (· + ·) h (shaRounds shaK w h)

/-- The hash after whole blocks; `n` of them. -/
def shaBlocks : Nat → List Byte → List Word → List Word
  | 0, _, h => h
  | n + 1, bs, h => shaBlocks n (bs.drop 64) (shaBlock h (bs.take 64))

/-- SHA-256. -/
def sha256 (m : List Byte) : BitVec 256 :=
  let p := shaPad m
  BitVec.ofNat 256 ((shaBlocks (p.length / 64) p shaInit).foldl (fun n w => 2 ^ 32 * n + w.toNat) 0)

/-! ### CRC-64 of ECMA-182 -/

/-- One byte of the CRC: initial value 0, not reflected. -/
def crc64Byte (c : BitVec 64) (b : Byte) : BitVec 64 :=
  (List.range 8).foldl (fun c _ => if c.getLsbD 63 then (c <<< 1) ^^^ 0x42F0E1EBA9EA3693 else c <<< 1)
    (c ^^^ (b.setWidth 64 <<< 56))

/-- The CRC of bytes added to a digest. -/
def crc64 (c : BitVec 64) (bs : List Byte) : BitVec 64 := bs.foldl crc64Byte c

/-! ### ECDSA over P-256 -/

/-- The field, the order, and the constant b of the curve y² = x³ − 3x + b. -/
def p256 : Nat := 2 ^ 256 - 2 ^ 224 + 2 ^ 192 + 2 ^ 96 - 1
def n256 : Nat := 0xFFFFFFFF00000000FFFFFFFFFFFFFFFFBCE6FAADA7179E84F3B9CAC2FC632551
def b256 : Nat := 0x5AC635D8AA3A93E7B3EBBD55769886BC651D06B0CC53B0F63BCE3C3E27D2604B

/-- A point; none is the point at infinity. -/
abbrev Point := Option (Nat × Nat)

/-- The base point. -/
def g256 : Point :=
  some (0x6B17D1F2E12C4247F8BCE6E563A440F277037D812DEB33A0F4A13945D898C296,
    0x4FE342E2FE1A7F9B8EE7EB4A7C0F9E162BCE33576B315ECECBB6406837BF51F5)

/-- x^k modulo m, from the low bit of k up; `fuel` bits of it. -/
def powMod (m : Nat) : Nat → Nat → Nat → Nat → Nat
  | 0, _, _, acc => acc
  | fuel + 1, x, k, acc => powMod m fuel (x * x % m) (k / 2) (if k % 2 = 1 then acc * x % m else acc)

/-- The inverse modulo a prime. -/
def invMod (m x : Nat) : Nat := powMod m 256 (x % m) (m - 2) 1

/-- The sum of two points. -/
def pointAdd (a b : Point) : Point :=
  match a, b with
  | none, q => q
  | q, none => q
  | some (x1, y1), some (x2, y2) =>
    if x1 = x2 ∧ (y1 + y2) % p256 = 0 then none
    else
      let l := if x1 = x2 then (3 * x1 * x1 + (p256 - 3)) * invMod p256 (2 * y1) % p256
               else (y2 + p256 - y1) * invMod p256 (x2 + p256 - x1) % p256
      let x := (l * l + 2 * p256 - x1 - x2) % p256
      some (x, (l * (x1 + p256 - x) + p256 - y1) % p256)

/-- k times a point, from the low bit up. -/
def pointMul : Nat → Nat → Point → Point → Point
  | 0, _, _, acc => acc
  | fuel + 1, k, q, acc => pointMul fuel (k / 2) (pointAdd q q) (if k % 2 = 1 then pointAdd acc q else acc)

/-- Whether a point lies on the curve. -/
def onCurve (x y : Nat) : Bool :=
  decide (x < p256) && decide (y < p256) && (y * y) % p256 == (x * x * x + (p256 - 3) * x + b256) % p256

/-- Whether (r, s) is a signature of a digest under a public key. -/
def ecdsaOk (x y digest r s : Nat) : Bool :=
  onCurve x y && decide (0 < r) && decide (r < n256) && decide (0 < s) && decide (s < n256) &&
    (let w := invMod n256 s
     match pointAdd (pointMul 256 (digest * w % n256) g256 none) (pointMul 256 (r * w % n256) (some (x, y)) none) with
     | some (u, _) => u % n256 == r
     | none => false)

/-- The signature of a digest by a private key, with the number that it draws; none where the standard draws again. -/
def ecdsaSign (key digest k : Nat) : Option (Nat × Nat) :=
  match pointMul 256 k g256 none with
  | none => none
  | some (x, _) =>
    let r := x % n256
    let s := invMod n256 k * (digest + r * key) % n256
    if r = 0 ∨ s = 0 then none else some (r, s)

/-- The signature of the module's identity key over a digest: ECDSA over P-256, r before s (20 R403; the key and the numbers drawn
are free, log 13). -/
def identitySign (digest : BitVec 256) : BitVec 512 :=
  let key := 1 + Config.identityKey % (n256 - 1)
  let (r, s) := ((List.range 4).findSome? fun i =>
    ecdsaSign key digest.toNat (1 + Config.signNonce digest i % (n256 - 1))).getD (0, 0)
  BitVec.ofNat 256 r ++ BitVec.ofNat 256 s

end Sys2Proof.Machine
end

