-- ==== Sys2Proof/Machine/Float.lean ====
section
/-! DEFINITION. Float values, exact arithmetic and rounding (04 R81 to R87, 07 R179 to R185).

A finite value is held exactly as ± m × 2^e.  Every operation computes its exact result, or, where that is
irrational, its first bits and the fact that more follow, and rounds once. -/

namespace Sys2Proof.Machine

/-- The float formats (04 R81). -/
inductive Fmt where
  | f16 | bf16 | f32 | f64
  deriving DecidableEq, Repr

/-- Fraction bits. -/
def Fmt.frac : Fmt → Nat
  | .f16 => 10 | .bf16 => 7 | .f32 => 23 | .f64 => 52
/-- Exponent bits. -/
def Fmt.ebits : Fmt → Nat
  | .f16 => 5 | .bf16 => 8 | .f32 => 8 | .f64 => 11
/-- Bits of a value. -/
def Fmt.width (f : Fmt) : Nat := 1 + f.ebits + f.frac
/-- The exponent bias. -/
def Fmt.bias (f : Fmt) : Nat := 2 ^ (f.ebits - 1) - 1
/-- The exponent of the unit in the last place of the smallest numbers. -/
def Fmt.qmin (f : Fmt) : Int := 1 - (f.bias : Int) - (f.frac : Int)

/-- A float value. -/
inductive FVal where
  | nan (signalling : Bool)
  | inf (neg : Bool)
  | fin (neg : Bool) (m : Nat) (e : Int)
  deriving DecidableEq, Repr

/-- The IEEE exceptions, in the order of MODE [20:16] (03 R71). -/
abbrev Exc := BitVec 5
def excInv : Exc := 1
def excDz : Exc := 2
def excOvf : Exc := 4
def excUnf : Exc := 8
def excInx : Exc := 16

/-- A rounded result with its exceptions. -/
abbrev FRes := DWord × Exc

/-- The value of the bits of a format. -/
def decodeF (f : Fmt) (x : DWord) : FVal :=
  let n := x.toNat
  let neg := n.testBit (f.width - 1)
  let ex := n / 2 ^ f.frac % 2 ^ f.ebits
  let fr := n % 2 ^ f.frac
  if ex = 2 ^ f.ebits - 1 then
    if fr = 0 then .inf neg else .nan (!fr.testBit (f.frac - 1))
  else if ex = 0 then .fin neg fr f.qmin
  else .fin neg (fr + 2 ^ f.frac) (f.qmin + ((ex : Int) - 1))

/-- The canonical NaN (04 R81). -/
def nanBits (f : Fmt) : DWord := BitVec.ofNat 64 ((2 ^ f.ebits - 1) * 2 ^ f.frac + 2 ^ (f.frac - 1))
/-- The sign bit. -/
def signBits (f : Fmt) (neg : Bool) : Nat := if neg then 2 ^ (f.width - 1) else 0
/-- An infinity. -/
def infBits (f : Fmt) (neg : Bool) : DWord := BitVec.ofNat 64 (signBits f neg + (2 ^ f.ebits - 1) * 2 ^ f.frac)
/-- A zero. -/
def zeroBits (f : Fmt) (neg : Bool) : DWord := BitVec.ofNat 64 (signBits f neg)
/-- The largest finite value. -/
def maxBits (f : Fmt) (neg : Bool) : DWord := BitVec.ofNat 64 (signBits f neg + (2 ^ f.ebits - 1) * 2 ^ f.frac - 1)

/-- The rounding codes of MODE.RND (04 R84). -/
inductive Rnd where
  | rne | rz | ru | rd | rna
  deriving DecidableEq, Repr

/-- The rounding of a MODE.RND code. -/
def Rnd.ofCode : Nat → Rnd
  | 1 => .rz | 2 => .ru | 3 => .rd | 4 => .rna | _ => .rne

/-- The number of bits of a natural number. -/
def bitLen (n : Nat) : Nat := if n = 0 then 0 else n.log2 + 1

/-- `n × 2^e`, truncated, over 2^q; the remainder is what was cut, over 2^sh. -/
structure Cut where
  m : Nat
  rem : Nat
  sh : Nat

/-- Cut a magnitude at the exponent `q`. -/
def cutAt (n : Nat) (e q : Int) : Cut :=
  if q ≤ e then { m := n * 2 ^ (e - q).toNat, rem := 0, sh := 0 }
  else { m := n / 2 ^ (q - e).toNat, rem := n % 2 ^ (q - e).toNat, sh := (q - e).toNat }

/-- Whether a cut magnitude goes up, `sticky` saying that it is more than its bits (04 R84). -/
def Cut.up (c : Cut) (r : Rnd) (neg sticky : Bool) : Bool :=
  let half := if c.sh = 0 then Ordering.lt else compare (2 * c.rem) (2 ^ c.sh)
  let inexact := decide (c.rem ≠ 0) || sticky
  let above := half == .gt || (half == .eq && sticky)
  let tie := half == .eq && !sticky
  match r with
  | .rne => above || (tie && c.m % 2 == 1)
  | .rz => false
  | .ru => inexact && !neg
  | .rd => inexact && neg
  | .rna => above || tie

/-- The bits of ± m × 2^q, `q` the exponent at which `m` fits the significand; none when it is too large. -/
def packF (f : Fmt) (neg : Bool) (m : Nat) (q : Int) : Option DWord :=
  let (m, q) := if m = 2 ^ (f.frac + 1) then (2 ^ f.frac, q + 1) else (m, q)
  if m < 2 ^ f.frac then some (BitVec.ofNat 64 (signBits f neg + m))
  else
    let ex := (q - f.qmin + 1).toNat
    if ex < 2 ^ f.ebits - 1 then some (BitVec.ofNat 64 (signBits f neg + ex * 2 ^ f.frac + (m - 2 ^ f.frac)))
    else none

/-- What an overflow delivers (04 R84). -/
def overflowBits (f : Fmt) (r : Rnd) (neg : Bool) : DWord :=
  match r with
  | .rne | .rna => infBits f neg
  | .rz => maxBits f neg
  | .ru => if neg then maxBits f neg else infBits f neg
  | .rd => if neg then infBits f neg else maxBits f neg

/-- Round ± (n + something below 1 when `sticky`) × 2^e, going up where `up` says, with overflow, underflow
and inexact (04 R83, R84).  A sticky `n` has more bits than the significand. -/
def roundBy (f : Fmt) (up : Cut → Bool) (ovf : DWord) (neg : Bool) (n : Nat) (e : Int) (sticky : Bool) : FRes :=
  if n = 0 ∧ ¬ sticky then (zeroBits f neg, 0)
  else
    let qu := e + (bitLen n : Int) - ((f.frac : Int) + 1)
    let q := max qu f.qmin
    let c := cutAt n e q
    let inx := decide (c.rem ≠ 0) || sticky
    match packF f neg (c.m + if up c then 1 else 0) q with
    | none => (ovf, excOvf ||| excInx)
    | some b =>
      let cu := cutAt n e qu
      let tiny := decide (qu < f.qmin) &&
        decide (cu.m + (if up cu then 1 else 0) < 2 ^ (f.frac + (f.qmin - qu).toNat))
      (b, (if inx then excInx else 0) ||| (if inx && tiny then excUnf else 0))

/-- Round under a mode of 04 R84. -/
def roundF (f : Fmt) (r : Rnd) (neg : Bool) (n : Nat) (e : Int) (sticky : Bool) : FRes :=
  roundBy f (fun c => c.up r neg sticky) (overflowBits f r neg) neg n e sticky

/-- Up when the draw falls below the fraction that was cut (04 R87). -/
def Cut.drawUp (c : Cut) (u : Nat) : Bool := decide (u * 2 ^ c.sh < c.rem * 2 ^ 32)

/-- Invalid: the canonical NaN (04 R82, R83). -/
def invalidF (f : Fmt) : FRes := (nanBits f, excInv)

/-- A NaN result of NaN operands (04 R82). -/
def nanF (f : Fmt) (signalling : Bool) : FRes := (nanBits f, if signalling then excInv else 0)

/-- Whether a value is a signalling NaN. -/
def FVal.snan : FVal → Bool
  | .nan s => s
  | _ => false

/-- Whether a value is a NaN. -/
def FVal.isNan : FVal → Bool
  | .nan _ => true
  | _ => false

/-- The value with its sign inverted. -/
def FVal.negate : FVal → FVal
  | .nan s => .nan s
  | .inf n => .inf (!n)
  | .fin n m e => .fin (!n) m e

/-- A signed number m × 2^e as an integer over 2^q, `q ≤ e`. -/
def scaled (neg : Bool) (m : Nat) (e q : Int) : Int :=
  let x : Int := (m * 2 ^ (e - q).toNat : Nat)
  if neg then -x else x

/-- The exact sum of two finite values, with the sign that an exact zero takes (04 R84). -/
def sumFin (r : Rnd) (n1 : Bool) (m1 : Nat) (e1 : Int) (n2 : Bool) (m2 : Nat) (e2 : Int) : Bool × Nat × Int :=
  let q := min e1 e2
  let x := scaled n1 m1 e1 q + scaled n2 m2 e2 q
  if x = 0 then (if n1 = n2 then n1 else r == .rd, 0, q)
  else (decide (x < 0), x.natAbs, q)

/-- a + b, rounded once (07 R180). -/
def addF (f : Fmt) (r : Rnd) (a b : FVal) : FRes :=
  match a, b with
  | .nan s, y => nanF f (s || y.snan)
  | _, .nan s => nanF f s
  | .inf x, .inf y => if x = y then (infBits f x, 0) else invalidF f
  | .inf x, .fin .. => (infBits f x, 0)
  | .fin .., .inf y => (infBits f y, 0)
  | .fin n1 m1 e1, .fin n2 m2 e2 =>
    let (n, m, e) := sumFin r n1 m1 e1 n2 m2 e2
    roundF f r n m e false

/-- a × b, rounded once (07 R180). -/
def mulF (f : Fmt) (r : Rnd) (a b : FVal) : FRes :=
  match a, b with
  | .nan s, y => nanF f (s || y.snan)
  | _, .nan s => nanF f s
  | .inf x, .inf y => (infBits f (x != y), 0)
  | .inf x, .fin y m _ => if m = 0 then invalidF f else (infBits f (x != y), 0)
  | .fin x m _, .inf y => if m = 0 then invalidF f else (infBits f (x != y), 0)
  | .fin n1 m1 e1, .fin n2 m2 e2 => roundF f r (n1 != n2) (m1 * m2) (e1 + e2) false

/-- d + a × b, rounded once (07 R180). -/
def fmaF (f : Fmt) (r : Rnd) (d a b : FVal) : FRes :=
  let zeroInf := match a, b with
    | .inf _, .fin _ 0 _ => true
    | .fin _ 0 _, .inf _ => true
    | _, _ => false
  if zeroInf then invalidF f
  else if a.isNan || b.isNan || d.isNan then nanF f (a.snan || b.snan || d.snan)
  else
    match a, b with
    | .fin n1 m1 e1, .fin n2 m2 e2 =>
      match d with
      | .fin n3 m3 e3 =>
        let (n, m, e) := sumFin r n3 m3 e3 (n1 != n2) (m1 * m2) (e1 + e2)
        roundF f r n m e false
      | .inf z => (infBits f z, 0)
      | .nan _ => invalidF f
    | x, y =>
      let neg := (match x with | .inf n => n | .fin n _ _ => n | .nan _ => false)
        != (match y with | .inf n => n | .fin n _ _ => n | .nan _ => false)
      match d with
      | .inf z => if z = neg then (infBits f z, 0) else invalidF f
      | _ => (infBits f neg, 0)

/-- a / b, rounded once (07 R180). -/
def divF (f : Fmt) (r : Rnd) (a b : FVal) : FRes :=
  match a, b with
  | .nan s, y => nanF f (s || y.snan)
  | _, .nan s => nanF f s
  | .inf _, .inf _ => invalidF f
  | .inf x, .fin y _ _ => (infBits f (x != y), 0)
  | .fin x _ _, .inf y => (zeroBits f (x != y), 0)
  | .fin n1 m1 e1, .fin n2 m2 e2 =>
    if m2 = 0 then
      if m1 = 0 then invalidF f else (infBits f (n1 != n2), excDz)
    else if m1 = 0 then (zeroBits f (n1 != n2), 0)
    else
      let k := f.frac + 4 + bitLen m2
      let q := m1 * 2 ^ k / m2
      roundF f r (n1 != n2) q (e1 - e2 - (k : Int)) (decide (m1 * 2 ^ k % m2 ≠ 0))

/-- The integer square root, bit by bit from bit `i − 1`. -/
def isqrtGo (n : Nat) : Nat → Nat → Nat
  | 0, r => r
  | i + 1, r => isqrtGo n i (if (r + 2 ^ i) * (r + 2 ^ i) ≤ n then r + 2 ^ i else r)

/-- ⌊√n⌋. -/
def isqrt (n : Nat) : Nat := isqrtGo n (bitLen n / 2 + 1) 0

/-- √a (07 R183, R184). -/
def sqrtF (f : Fmt) (r : Rnd) (a : FVal) : FRes :=
  match a with
  | .nan s => nanF f s
  | .inf n => if n then invalidF f else (infBits f false, 0)
  | .fin n m e =>
    if m = 0 then (zeroBits f n, 0)
    else if n then invalidF f
    else
      let e0 := if e % 2 = 0 then e else e - 1
      let m0 := if e % 2 = 0 then m else 2 * m
      let k := f.frac + 4
      let x := m0 * 2 ^ (2 * k)
      let q := isqrt x
      roundF f r false q (e0 / 2 - (k : Int)) (decide (q * q ≠ x))

/-- 1 / a (07 R183, R184). -/
def rcpF (f : Fmt) (r : Rnd) (a : FVal) : FRes := divF f r (.fin false 1 0) a

/-- 1 / √a, rounded RNE (07 R183, R184). -/
def rsqF (f : Fmt) (a : FVal) : FRes :=
  match a with
  | .nan s => nanF f s
  | .inf n => if n then invalidF f else (zeroBits f false, 0)
  | .fin n m e =>
    if m = 0 then (infBits f n, excDz)
    else if n then invalidF f
    else
      let e0 := if e % 2 = 0 then e else e - 1
      let m0 := if e % 2 = 0 then m else 2 * m
      let k := f.frac + 4 + bitLen m0
      let q := isqrt (2 ^ (2 * k) / m0)
      roundF f .rne false q (-(e0 / 2) - (k : Int)) (decide (q * q * m0 ≠ 2 ^ (2 * k)))

/-! ### Functions with irrational values (07 R183): fixed point of 400 bits, then one rounding -/

/-- Fraction bits of the fixed point. -/
def fixBits : Nat := 400

/-- Σ z^(2k+1) / (2k+1), the terms from `k` on, `p` holding z^(2k+1). -/
def atanhGo (z2 : Nat) : Nat → Nat → Nat → Nat → Nat
  | 0, _, _, acc => acc
  | n + 1, k, p, acc => atanhGo z2 n (k + 1) (p * z2 / 2 ^ fixBits) (acc + p / (2 * k + 1))

/-- ln of num / den, between 1 and 2. -/
def fixLn (num den : Nat) : Nat :=
  let z := (num - den) * 2 ^ fixBits / (num + den)
  2 * atanhGo (z * z / 2 ^ fixBits) 140 0 z 0

/-- ln 2. -/
def fixLn2 : Nat := fixLn 2 1

/-- Σ y^k / k!, `t` holding y^k / k!. -/
def expGo (y : Nat) : Nat → Nat → Nat → Nat → Nat
  | 0, _, _, acc => acc
  | n + 1, k, t, acc => expGo y n (k + 1) (t * y / 2 ^ fixBits / (k + 1)) (acc + t)

/-- 2^(x / 2^fixBits) for x below 2^fixBits. -/
def fixExp2 (x : Nat) : Nat := expGo (x * fixLn2 / 2 ^ fixBits) 110 0 (2 ^ fixBits) 0

/-- Σ ± 1 / (n^(2k+1) (2k+1)): arctan of 1 / n. -/
def atanInvGo (n2 : Nat) : Nat → Nat → Nat → Int → Int
  | 0, _, _, acc => acc
  | m + 1, k, p, acc =>
    atanInvGo n2 m (k + 1) (p / n2) (if k % 2 = 0 then acc + (p / (2 * k + 1) : Nat) else acc - (p / (2 * k + 1) : Nat))

/-- π, by Machin's formula. -/
def fixPi : Nat :=
  let one := 2 ^ fixBits
  (16 * atanInvGo 25 100 0 (one / 5) 0 - 4 * atanInvGo 57121 40 0 (one / 239) 0).toNat

/-- Σ ± y^(2k+1) / (2k+1)!, `t` holding y^(2k+1) / (2k+1)!. -/
def sinGo (y2 : Nat) : Nat → Nat → Nat → Int → Int
  | 0, _, _, acc => acc
  | n + 1, k, t, acc =>
    sinGo y2 n (k + 1) (t * y2 / 2 ^ fixBits / ((2 * k + 2) * (2 * k + 3))) (if k % 2 = 0 then acc + (t : Int) else acc - (t : Int))

/-- sin(π t / 2^fixBits) for t up to a half. -/
def fixSinPi (t : Nat) : Nat :=
  let y := t * fixPi / 2 ^ fixBits
  (sinGo (y * y / 2 ^ fixBits) 60 0 y 0).toNat

/-- m × 2^e over 2^fixBits, exact for every float of 32 bits or fewer. -/
def toFix (m : Nat) (e : Int) : Nat := m * 2 ^ (e + (fixBits : Int)).toNat

/-- 2^x as n × 2^e, with whether more bits follow, for x = ± m × 2^k. -/
def exp2Exact (neg : Bool) (m : Nat) (k : Int) : Nat × Int × Bool :=
  if m ≠ 0 ∧ bitLen m + k > 20 then
    -- beyond every format either way
    if neg then (2 ^ 80, -2000000, true) else (1, 2000000, false)
  else
    let x : Int := if neg then -(toFix m k : Int) else toFix m k
    let n := x / (2 ^ fixBits : Nat)
    let fr := (x % (2 ^ fixBits : Nat)).toNat
    if fr = 0 then (1, n, false) else (fixExp2 fr, n - (fixBits : Int), true)

/-- 2^a, rounded RNE (07 R183, R184). -/
def exp2F (f : Fmt) (a : FVal) : FRes :=
  match a with
  | .nan s => nanF f s
  | .inf n => if n then (zeroBits f false, 0) else (infBits f false, 0)
  | .fin neg m e =>
    let (n, q, st) := exp2Exact neg m e
    roundF f .rne false n q st

/-- log2 a, rounded RNE (07 R183, R184). -/
def log2F (f : Fmt) (a : FVal) : FRes :=
  match a with
  | .nan s => nanF f s
  | .inf n => if n then invalidF f else (infBits f false, 0)
  | .fin n m e =>
    if m = 0 then (infBits f true, excDz)
    else if n then invalidF f
    else
      let l := m.log2
      let whole : Int := e + (l : Int)
      if m = 2 ^ l then roundF f .rne (decide (whole < 0)) whole.natAbs 0 false
      else
        let part := fixLn m (2 ^ l) * 2 ^ fixBits / fixLn2
        let x : Int := whole * (2 ^ fixBits : Nat) + (part : Int)
        -- x is cut toward minus infinity; a negative magnitude is one more than the cut
        if 0 ≤ x then roundF f .rne false x.toNat (-(fixBits : Int)) true
        else roundF f .rne true ((-x).toNat - 1) (-(fixBits : Int)) true

/-- sin(π t), t a fixed-point number up to a half, exact at 0 and a half. -/
def sinHalf (f : Fmt) (neg : Bool) (t : Nat) : FRes :=
  if t = 2 ^ (fixBits - 1) then roundF f .rne neg 1 0 false
  else roundF f .rne neg (fixSinPi t) (-(fixBits : Int)) true

/-- sin(π a), rounded RNE (07 R183, R184). -/
def sinpF (f : Fmt) (a : FVal) : FRes :=
  match a with
  | .nan s => nanF f s
  | .inf _ => invalidF f
  | .fin neg m e =>
    let one := 2 ^ fixBits
    let t := toFix m e % (2 * one)
    if t % one = 0 then (zeroBits f neg, 0)
    else
      let (neg, t) := if t > one then (!neg, t - one) else (neg, t)
      sinHalf f neg (if 2 * t > one then one - t else t)

/-- cos(π a), rounded RNE (07 R183, R184). -/
def cospF (f : Fmt) (a : FVal) : FRes :=
  match a with
  | .nan s => nanF f s
  | .inf _ => invalidF f
  | .fin _ m e =>
    let one := 2 ^ fixBits
    let t0 := toFix m e % (2 * one)
    let t := if t0 > one then 2 * one - t0 else t0
    if 2 * t = one then (zeroBits f false, 0)
    else if 2 * t < one then sinHalf f false (one / 2 - t)
    else sinHalf f true (t - one / 2)

/-- An integer nearest to a magnitude under a rounding, and whether it differs (07 R183, R187). -/
def toIntF (r : Rnd) (neg : Bool) (m : Nat) (e : Int) : Int × Bool :=
  let c := cutAt m e 0
  let x := c.m + if c.up r neg false then 1 else 0
  (if neg then -(x : Int) else (x : Int), decide (c.rem ≠ 0))

/-- Round to an integral float value; `quiet` raises no inexact (07 R183, R184). -/
def integralF (f : Fmt) (r : Rnd) (quiet : Bool) (a : FVal) : FRes :=
  match a with
  | .nan s => nanF f s
  | .inf n => (infBits f n, 0)
  | .fin neg m e =>
    if 0 ≤ e then roundF f .rne neg m e false
    else
      let (x, inx) := toIntF r neg m e
      let (b, _) := roundF f .rne neg x.natAbs 0 false
      (b, if inx && !quiet then excInx else 0)

/-- Order of two numbers that are not NaN. -/
def FVal.lt : FVal → FVal → Bool
  | .nan _, _ => false
  | _, .nan _ => false
  | .inf a, .inf b => a && !b
  | .inf a, .fin .. => a
  | .fin .., .inf b => !b
  | .fin n1 m1 e1, .fin n2 m2 e2 =>
    let q := min e1 e2
    decide (scaled n1 m1 e1 q < scaled n2 m2 e2 q)

/-- The bits of a value of the format, a NaN becoming canonical. -/
def encodeF (f : Fmt) : FVal → DWord
  | .nan _ => nanBits f
  | .inf n => infBits f n
  | .fin n m e => (roundF f .rne n m e false).1

/-- The sign of a value. -/
def FVal.neg : FVal → Bool
  | .nan _ => false
  | .inf n => n
  | .fin n _ _ => n

/-- FMIN, or FMAX when `mx` (07 R181): the smaller or larger, −0 below +0, NaN passed over. -/
def minMaxF (f : Fmt) (mx : Bool) (a b : FVal) : FRes :=
  let x := if a.snan || b.snan then excInv else 0
  if a.isNan && b.isNan then (nanBits f, x)
  else if a.isNan then (encodeF f b, x)
  else if b.isNan then (encodeF f a, x)
  else
    let aFirst := a.lt b || (!(b.lt a) && a.neg)
    (encodeF f (if aFirst != mx then a else b), x)

/-- The class mask of FCLASS (07 R185). -/
def classF (f : Fmt) (a : FVal) : Nat :=
  match a with
  | .nan s => if s then 2 ^ 8 else 2 ^ 9
  | .inf n => if n then 2 ^ 0 else 2 ^ 7
  | .fin n m _ =>
    if m = 0 then (if n then 2 ^ 3 else 2 ^ 4)
    else if m < 2 ^ f.frac then (if n then 2 ^ 2 else 2 ^ 5)
    else (if n then 2 ^ 1 else 2 ^ 6)

/-- An integer as an exact float value. -/
def intF (x : Int) : FVal := .fin (decide (x < 0)) x.natAbs 0

end Sys2Proof.Machine
end

