-- ==== Sys2Proof/Machine/Registers.lean ====
section
/-! DEFINITION. The device registers: what a read returns and what a write does (00 R6, R7; 15 R325;
16 R326; 17 R368; 18 R379; 19 R384, R392, R396; 20 R401, R404). -/

namespace Sys2Proof.Machine

open Sys2Proof

/-! ### Fields -/

/-- The context of an event that belongs to none. -/
def noContext : Nat := 65536

/-- The event source of management core 0, which posts every event of the control die: the manual does not say which
management core posts which (19 R396; DESIGN CHOICE, log 91). -/
def controlSource : Nat := 704

/-- A write of bytes to an aligned 8-byte register place: the bits written, and their values. -/
structure RegWrite where
  mask : DWord
  value : DWord
  deriving DecidableEq, Repr

/-- The write of a whole number of bytes at a byte offset of the place. -/
def RegWrite.of (off n : Nat) (x : Nat) : RegWrite :=
  { mask := BitVec.ofNat 64 ((2 ^ (8 * n) - 1) * 2 ^ (8 * off)), value := BitVec.ofNat 64 (x * 2 ^ (8 * off)) }

/-- Bits [lo+n−1:lo] as they stand after the write. -/
def RegWrite.field (w : RegWrite) (old : DWord) (lo n : Nat) : Nat :=
  ((((w.value &&& w.mask) ||| (old &&& ~~~w.mask)) >>> lo).toNat) % 2 ^ n

/-- Whether the write covers a bit. -/
def RegWrite.covers (w : RegWrite) (i : Nat) : Bool := w.mask.getLsbD i

/-- Whether the write writes 1 to a bit. -/
def RegWrite.one (w : RegWrite) (i : Nat) : Bool := w.mask.getLsbD i && w.value.getLsbD i

/-- A reserved value was written: the write is ignored as a whole, with a register-error event (00 R7). -/
def State.registerError (s : State) (source offset : Nat) : State := s.post .registerError source noContext [offset]

/-! ### A core's block (15 R325, 17 R368) -/

/-- A bit as a number. -/
def bitNat (b : Bool) : Nat := if b then 1 else 0

/-- The shared sets of a core that goes from dual to single residency: the first residency's, or where it has none the
second's (15 R315; log 97). -/
def Core.merge (c : Core) : Core :=
  if c.r0.fences = [] ∧ c.r0.deps = [] ∧ c.r0.qslots = [] then c
  else { c with r1 := { c.r1 with fences := [], deps := [], qslots := [] } }

/-- OCC. -/
def State.occ (s : State) (n : Nat) : Nat := bitNat (s.team n 0).isSome + 2 * bitNat (s.team n 1).isSome

/-- The registers of a core's block; none where the map has no register. -/
def State.readCoreReg (s : State) (n off : Nat) : Option DWord :=
  let c := s.core n
  let h := c.health
  match off with
  | 0x000 => some (BitVec.ofNat 64
      (bitNat c.dual + 2 * c.issuing + 8 * bitNat c.draining + 256 * s.occ n + 65536 * c.swcnt.toNat))
  | 0x008 => some (BitVec.ofNat 64 c.quant)
  | 0x010 => some (((s.team n 0).map (·.handler)).getD 0)
  | 0x018 => some (((s.team n 1).map (·.handler)).getD 0)
  | 0x020 => some (BitVec.ofNat 64 (bitNat h.suspect + 2 * bitNat h.mfence + 4 * bitNat h.offline + 65536 * h.shretry))
  | 0x028 => some (BitVec.ofNat 64 (2 * bitNat h.busy + 4 * h.result))
  | _ => none

/-- A request to switch residencies: issue stops and DRAIN begins; ignored in single residency and in
DRAIN (15 R316, R325). -/
def Core.requestSwitch (c : Core) : Core := if c.dual && !c.draining then { c with draining := true } else c

/-- A write of the residency register (15 R325): a change of DUAL while a team is placed is ignored as a
whole with a register-error event; SWREQ requests a switch. -/
def State.writeResidency (s : State) (n : Nat) (w : RegWrite) : State :=
  let c := s.core n
  let dual := w.field (BitVec.ofNat 64 (bitNat c.dual)) 0 1 == 1
  if dual != c.dual && (s.occ n != 0 || c.turns != []) then s.registerError n 0
  else
    s.modCore n fun c =>
      let c1 := if dual = c.dual then c
        else { (if dual then c else c.merge) with dual := dual, issuing := 0, draining := false }
      if w.one 2 then c1.requestSwitch else c1

/-- A write of QUANT (15 R325). -/
def State.writeQuant (s : State) (n : Nat) (w : RegWrite) : State :=
  let q := w.field (BitVec.ofNat 64 (s.core n).quant) 0 25
  if 250000 ≤ q ∧ q ≤ 25000000 then s.modCore n fun c => { c with quant := q } else s.registerError n 8

/-- A write to a core's block. -/
def State.writeCoreReg (s : State) (n off : Nat) (w : RegWrite) : State :=
  match off with
  | 0x000 => s.writeResidency n w
  | 0x008 => s.writeQuant n w
  | 0x020 =>
    if w.one 0 then s.modCore n fun c => { c with health := { c.health with suspect := false } } else s
  | 0x028 => if w.one 0 then s.requestTest n else s
  | _ => s

/-! ### Die 8 (18 R379, 19 R384, 20 R401, R404) -/

/-- BOOTSTAT. -/
def Boot.stat (b : Boot) : Nat := b.stage + 16 * b.slot + 32 * bitNat b.recov

/-- The check registers of a slot. -/
def State.checks (s : State) (n : Nat) : CheckRegs := kgetD s.control.checks n CheckRegs.reset

/-- A port. -/
def State.port (s : State) (p : Nat) : Port := kgetD s.fabric.ports p Port.reset

/-- The registers of die 8 by aligned offset. -/
def State.readControlReg (s : State) (off : Nat) : Option DWord :=
  let c := s.control
  if off = 0 then some (BitVec.ofNat 64 c.boot.stat)
  else if off = 8 then some (c.boot.svn.setWidth 64)
  else if off = 0x10 then some (BitVec.ofNat 64 c.power.plimit)
  else if off = 0x18 then
    some (BitVec.ofNat 64 (c.power.pnow + 65536 * c.power.tmax + 2 ^ 24 * bitNat c.power.throt))
  else if 0x40000 ≤ off ∧ off < 0x44000 then
    let k := s.checks ((off - 0x40000) / 64)
    match off % 64 with
    | 0x00 => some (BitVec.ofNat 64 (bitNat k.chken))
    | 0x08 => some k.seed
    | 0x10 => some (BitVec.ofNat 64 k.sampled)
    | 0x18 => some (BitVec.ofNat 64 k.mismatch)
    | 0x20 => some (BitVec.ofNat 64 k.skipped)
    | _ => none
  else if off = 0x80000 then some (BitVec.ofNat 64 (s.fabric.rtip + 65536 * s.fabric.rtis))
  else if 0x80100 ≤ off ∧ off < 0x80100 + 12 * 16 ∧ off % 16 = 0 then
    let p := s.port ((off - 0x80100) / 16)
    some (BitVec.ofNat 64 (bitNat p.enable + 2 * bitNat p.up + 65536 * p.latu))
  else none

/-- Set the check registers of a slot. -/
def State.setChecks (s : State) (n : Nat) (k : CheckRegs) : State :=
  { s with control := { s.control with checks := kset s.control.checks n k } }

/-- Set a port. -/
def State.setPort (s : State) (p : Nat) (x : Port) : State :=
  { s with fabric := { s.fabric with ports := kset s.fabric.ports p x } }

/-- A write to a register of die 8. -/
def State.writeControlReg (s : State) (off : Nat) (w : RegWrite) : State :=
  let old := (s.readControlReg off).getD 0
  if off = 0x10 then
    let x := w.field old 0 13
    if 1000 ≤ x ∧ x ≤ 4400 then { s with control := { s.control with power := { s.control.power with plimit := x } } }
    else s.registerError controlSource off
  else if 0x40000 ≤ off ∧ off < 0x44000 then
    let n := (off - 0x40000) / 64
    let k := s.checks n
    match off % 64 with
    | 0x00 => s.setChecks n { k with chken := w.field old 0 1 == 1 }
    | 0x08 => s.setChecks n { k with seed := BitVec.ofNat 64 (w.field old 0 64) }
    | _ => s
  else if off = 0x80000 then
    let p := w.field old 0 16
    let q := w.field old 16 16
    if 1 ≤ p ∧ p ≤ 1000 ∧ 1 ≤ q ∧ q ≤ 1000 then { s with fabric := { s.fabric with rtip := p, rtis := q } }
    else s.registerError controlSource off
  else if 0x80100 ≤ off ∧ off < 0x80100 + 12 * 16 ∧ off % 16 = 0 then
    let p := (off - 0x80100) / 16
    let l := w.field old 16 16
    if l = 0 then s.registerError controlSource off
    else s.setPort p { s.port p with enable := w.field old 0 1 == 1, latu := l }
  else s

/-! ### KIND 3 as one space (05 R102, 15 R325) -/

/-- The core and the offset in its block of an aligned KIND 3 offset of a compute die. -/
def coreBlock (die off : Nat) : Option (Nat × Nat) :=
  if 0x10000 ≤ off ∧ off < 0x10000 + 80 * 0x1000 then some (die * 80 + (off - 0x10000) / 0x1000, off % 0x1000) else none

/-- The aligned register of KIND 3 at a die's offset. -/
def State.readKind3 (s : State) (die off : Nat) : Option DWord :=
  if die = 8 then s.readControlReg off
  else match coreBlock die off with
    | some (n, o) => s.readCoreReg n o
    | none => none

/-- A write to the aligned register of KIND 3 at a die's offset. -/
def State.writeKind3 (s : State) (die off : Nat) (w : RegWrite) : State :=
  if die = 8 then s.writeControlReg off w
  else match coreBlock die off with
    | some (n, o) => s.writeCoreReg n o w
    | none => s

/-- One byte of KIND 3; where no register is described it is open (log 10). -/
def State.readKind3Byte (s : State) (pa : Nat) : Byte :=
  let off := offOf pa
  let x := (s.readKind3 (dieOf pa) (off / 8 * 8)).getD (Config.openRegister (pa / 8 * 8) s.free)
  x.extractLsb' (off % 8 * 8) 8

/-- A write of consecutive bytes to KIND 3, each aligned place that they touch taking its part as one write. -/
def State.writeKind3Bytes (s : State) (pa : Nat) (bs : List Byte) : State :=
  let n := bs.length
  let x := leNat bs
  let off := offOf pa
  let first := min n (8 - off % 8)
  let s1 := s.writeKind3 (dieOf pa) (off / 8 * 8) (RegWrite.of (off % 8) first (x % 2 ^ (8 * first)))
  if first < n then
    s1.writeKind3 (dieOf pa) (off / 8 * 8 + 8) (RegWrite.of 0 (n - first) (x / 2 ^ (8 * first)))
  else s1

/-! ### BAR0 (19 R392, R393, R396) -/

/-- A function. -/
def State.fn (s : State) (f : Nat) : HostFn := kgetD s.control.fns f HostFn.reset

/-- Replace a function. -/
def State.setFn (s : State) (f : Nat) (x : HostFn) : State :=
  { s with control := { s.control with fns := kset s.control.fns f x } }

/-- A capability word: 0 before STAGE 4 (19 R392). -/
def State.cap (s : State) (i : Nat) : Word :=
  if s.control.boot.stage ≠ 4 then 0
  else if i = 0 then
    BitVec.ofNat 32 ((List.range 5).foldl (fun x b => x + (if Config.capFeature b then 2 ^ b else 0)) 0)
  else Config.capWord i

/-- The 4-byte register of BAR0 at an offset, if a map describes one (19 R392, R393, R396). -/
def State.readBar0 (s : State) (f off : Nat) : Option Word :=
  let x := s.fn f
  if off < 0x10 then some (s.cap (off / 4))
  else if off < 0x20 then some (kgetD x.acc ((off - 0x10) / 4) 0)
  else if off = 0x20 then some (BitVec.ofNat 32 (2 * bitNat x.goed))
  else if off = 0x30 then some (BitVec.ofNat 32 s.control.boot.stat)
  else if 0x100 ≤ off ∧ off < 0x140 then some (BitVec.ofNat 32 (leAt x.slot (off - 0x100) 4))
  else if off = 0x200 then some (x.ringBase.setWidth 32)
  else if off = 0x204 then some (x.ringBase.extractLsb' 32 32)
  else if off = 0x208 then some (BitVec.ofNat 32 x.ringEntries)
  else if off = 0x210 then some (BitVec.ofNat 32 x.cons)
  else if off = 0x218 then some (BitVec.ofNat 32 x.lost)
  else if off = 0x220 then some (BitVec.ofNat 32 x.prod)
  else none

/-- A write to an acceptance word: ignored before STAGE 4 and after GOED; a bit clear in CAP is a reserved
value (19 R392). -/
def State.writeAcc (s : State) (f i : Nat) (x : Word) : State :=
  let h := s.fn f
  if s.control.boot.stage ≠ 4 ∨ h.goed then s
  else if x &&& ~~~(s.cap i) ≠ 0 then s.registerError controlSource (0x10 + 4 * i)
  else s.setFn f { h with acc := kset h.acc i x }

/-- A write of GO: taken once STAGE is 4 (19 R392). -/
def State.writeGo (s : State) (f : Nat) (x : Word) : State :=
  let h := s.fn f
  if x.getLsbD 0 ∧ s.control.boot.stage = 4 then s.setFn f { h with goed := true } else s

/-- A write of the ring base or of the entries: PROD and CONS reset (19 R396).  A base that is not 32-byte
aligned and a number of entries outside the stated ones are taken as reserved values (DEDUCED, log 16). -/
def State.configureRing (s : State) (f : Nat) (base : Addr) (entries : Nat) (off : Nat) : State :=
  let h := s.fn f
  let okEntries := (List.range 11).any fun k => entries == 2 ^ (k + 6)
  if base.extractLsb' 0 5 ≠ 0 ∨ (off = 0x208 ∧ !okEntries) then s.registerError controlSource off
  else s.setFn f { h with ringBase := base, ringEntries := entries, cons := 0, prod := 0, ring := [] }

/-- Field `k` of a command record whose fields the manual gives no places for: they start at byte 8 (19 R393; free, log
90). -/
def openField (r : List Byte) (code k : Nat) : Nat :=
  let (off, n) := Config.commandField code k
  leAt r (8 + off % 56) n

/-- The record of a command slot as a management command (19 R393).  The manual gives the places of the fields of commands
5, 11, 13 and 14 (17 R351; 16 R326; 19 R394, R395); those of the others are open, and images and peer entries, which do not
fit a record, lie in host memory.  A record in which a byte is not zero that should be is taken as if it were: no rule says
what becomes of it (DESIGN CHOICE, log 90). -/
def parseCommand (host : Memory) (r : List Byte) (fn : Nat) : Option Command :=
  let at_ := leAt r
  let code := at_ 0 2
  let f := openField r code
  let image (k : Nat) : List Byte := readAll host (span (f k) (f (k + 1)))
  match code with
  | 1 => some (.createContext
      { fn := fn, ctx := f 0, mode := f 1, device := f 2, privileged := f 3 != 0, root := f 4 })
  | 2 => some (.destroyContext (f 0))
  | 3 => some (.map (f 0) (f 1) (f 2) (BitVec.ofNat 64 (f 3)))
  | 4 => some (.unmap (f 0) (f 1))
  | 5 => some (.demand (at_ 8 2) (at_ 16 8) (at_ 24 4) (BitVec.ofNat 8 (at_ 28 1)) (at_ 32 8) (at_ 40 4))
  | 6 => some (.faultRetry (f 0) (f 1))
  | 7 => some (.faultAbort (f 0) (f 1))
  | 8 => some (.createGraph (f 0) (f 1) (image 2))
  | 9 => some (.editGraph (f 0) (f 1) (image 2))
  | 10 => some (.writePeer (f 0) (readAll host (span (f 1) 64)))
  | 11 => some (.assignQueue (at_ 8 2) (at_ 10 1) (at_ 12 2))
  | 12 => some (.resync (f 0))
  | 13 => some (.cancelLaunch (at_ 8 2) (at_ 12 4) (at_ 16 1))
  | 14 => some (.firmwareDownload (at_ 8 8) (at_ 16 4) (at_ 20 1))
  | _ => none

/-- A response: status and second word at the response address, and MSI-X vector 0 (19 R393). -/
def State.respond (s : State) (fn address status second : Nat) : State :=
  let h := s.fn fn
  let s1 := s.setFn fn { h with msix := if h.msix.contains 0 then h.msix else h.msix ++ [0] }
  { s1 with
    hostMem := writeAll s1.hostMem (span address 64) (bytesOfNat 4 status ++ bytesOfNat 4 second ++ bytesOfNat 56 0)
    control := { s1.control with
      responses := s1.control.responses ++ [{ fn := fn, address := address, status := status, second := second }] } }

/-- A command that the host starts: busy (status 2) while one of the same function runs (19 R393). -/
def State.startCommand (s : State) (c : PendingCmd) : State :=
  if s.control.cmd.any (fun p => p.fn == c.fn) || s.control.invs.any (fun i => i.2.fn == c.fn && i.2.left != 0) then
    s.respond c.fn c.resp 2 0
  else { s with control := { s.control with cmd := s.control.cmd ++ [c] } }

/-- A write of 4 or 8 bytes to BAR0. -/
def State.writeBar0 (s : State) (f off : Nat) (x : DWord) : State :=
  let h := s.fn f
  let w : Word := x.setWidth 32
  if off < 0x10 then s
  else if off < 0x20 then s.writeAcc f ((off - 0x10) / 4) w
  else if off = 0x20 then s.writeGo f w
  else if 0x100 ≤ off ∧ off < 0x140 then
    let slot := if h.slot = [] then List.replicate 64 0 else h.slot
    s.setFn f { h with
      slot := (List.range 64).map fun i =>
        if off - 0x100 ≤ i ∧ i < off - 0x100 + 4 then x.extractLsb' (8 * (i - (off - 0x100))) 8 else slot.getD i 0 }
  else if off = 0x140 then
    match parseCommand s.hostMem h.slot f with
    | some c => s.startCommand { fn := f, resp := x.toNat, cmd := c }
    | none => s.respond f x.toNat 1 0
  else if off = 0x200 then s.configureRing f x h.ringEntries 0x200
  else if off = 0x208 then s.configureRing f h.ringBase w.toNat 0x208
  else if off = 0x210 then s.setFn f { h with cons := w.toNat }
  else s

/-! ### Queue windows (16 R326, R327) -/

/-- A queue. -/
def State.queue (s : State) (q : Nat) : Queue := kgetD s.control.queues q Queue.reset

/-- Replace a queue. -/
def State.setQueue (s : State) (q : Nat) (x : Queue) : State :=
  { s with control := { s.control with queues := kset s.control.queues q x } }

/-- The register of a queue window at an offset, if the map describes one; what is written only reads 0 (00 R6, 16 R326). -/
def State.readQueueReg (s : State) (q off : Nat) : Option DWord :=
  let x := s.queue q
  if off = 0x000 then some (BitVec.ofNat 64 (bitNat (x.enable && x.owner.isSome)))
  else if off = 0x008 then some 0
  else if off = 0x010 then some (x.arvcnt.setWidth 64)
  else if off = 0x018 then some (x.consumed.setWidth 64)
  else if off = 0x020 then some x.mirror
  else if 0x100000 ≤ off ∧ off < 0x200000 then some 0
  else none

/-- A write of ENABLE: a queue without an assignment has no window (16 R326). -/
def State.writeEnable (s : State) (q : Nat) (x : Word) : State :=
  if (s.queue q).owner.isSome then s.setQueue q { s.queue q with enable := x.getLsbD 0 } else s

/-- A write of ARVADD (16 R326). -/
def State.writeArvadd (s : State) (q : Nat) (x : Word) : State :=
  let y := s.queue q
  let n : Word := x.extractLsb' 0 13 |>.setWidth 32
  if y.owner.isNone then s
  else if n = 0 ∨ n.toNat > 4096 ∨ (y.arvcnt - y.consumed).toNat + n.toNat > 4096 then
    s.registerError controlSource 8
  else s.setQueue q { y with arvcnt := y.arvcnt + n }

/-- A write of MIRROR (16 R326). -/
def State.writeMirror (s : State) (q : Nat) (x : DWord) : State :=
  if (s.queue q).owner.isNone then s
  else if x.extractLsb' 0 3 ≠ 0 then s.registerError controlSource 0x20
  else s.setQueue q { s.queue q with mirror := x }

/-- A write to a register of a queue window. -/
def State.writeQueueReg (s : State) (q off : Nat) (x : DWord) : State :=
  if off = 0 then s.writeEnable q (x.setWidth 32)
  else if off = 8 then s.writeArvadd q (x.setWidth 32)
  else if off = 0x20 then s.writeMirror q x
  else s

/-- The queue whose window an offset of a function's BAR2 lies in, its context, and the offset in the window: 2 MiB for each
queue assigned to the function, in queue order (19 R391). -/
def State.windowQueue (s : State) (fn offset : Nat) : Option (Nat × Nat × Nat) :=
  let mine := s.control.queues.filterMap fun p =>
    match p.2.owner with
    | some (f, ctx) => if f = fn then some (p.1, ctx) else none
    | none => none
  (mine[offset / 0x200000]?).map fun x => (x.1, x.2, offset % 0x200000)

/-- The register of a function's BAR2 at an offset, if a window of it lies there and has one. -/
def State.readBar2 (s : State) (fn offset : Nat) : Option DWord :=
  (s.windowQueue fn offset).bind fun x => s.readQueueReg x.1 x.2.2

/-! ### Reading any register -/

/-- A number of its own for each register space, in which offsets stay below 2^44. -/
def registerPlace : RegSpace → Nat
  | .die d => paOf d 3 0
  | .control => paOf 8 3 0
  | .bar0 f => 2 ^ 52 + f * 2 ^ 44
  | .queue q => 2 ^ 53 + q * 2 ^ 44

/-- What a read of a device register returns, by its space (00 R6); where no map describes a register, a free value (log 10). -/
def State.readRegister (s : State) (p : RegSpace) (off : Nat) : DWord :=
  (match p with
    | .die d => s.readKind3 d off
    | .control => s.readControlReg off
    | .bar0 f => (s.readBar0 f off).map fun (w : Word) => w.setWidth 64
    | .queue q => s.readQueueReg q off).getD (Config.openRegister (registerPlace p + off) s.free)

/-! ### The register events -/

/-- DUAL_WRITE (15 R325). -/
def execDualWrite (core : Nat) (value : BitVec 32) (s : State) : Host.Outcome State Fault Refusal :=
  event s (some (s.writeResidency core (RegWrite.of 0 4 value.toNat)))

/-- SWREQ (15 R316, R325). -/
def execSwreq (core : Nat) (value : BitVec 32) (s : State) : Host.Outcome State Fault Refusal :=
  event s (some (s.writeCoreReg core 0x000 (RegWrite.of 0 4 value.toNat)))

/-- QUANT_WRITE (15 R325). -/
def execQuantWrite (core : Nat) (value : BitVec 32) (s : State) : Host.Outcome State Fault Refusal :=
  event s (some (s.writeQuant core (RegWrite.of 0 4 value.toNat)))

/-- TEST_RUN (17 R368). -/
def execTestRun (core : Nat) (value : BitVec 32) (s : State) : Host.Outcome State Fault Refusal :=
  event s (some (s.writeCoreReg core 0x028 (RegWrite.of 0 4 value.toNat)))

/-- REGISTER_WRITE (00 R7): a write of 8 bytes to a register of any space. -/
def execRegisterWrite (space : RegSpace) (offset : Nat) (value : BitVec 64) (s : State) :
    Host.Outcome State Fault Refusal :=
  event s (some (match space with
    | .die d => s.writeKind3 d (offset / 8 * 8) (RegWrite.of 0 8 value.toNat)
    | .control => s.writeKind3 8 (offset / 8 * 8) (RegWrite.of 0 8 value.toNat)
    | .bar0 f => s.writeBar0 f offset value
    | .queue q => s.writeQueueReg q offset value))

/-- QUEUE_ENABLE_WRITE (16 R326). -/
def execQueueEnableWrite (queue : Nat) (value : BitVec 32) (s : State) : Host.Outcome State Fault Refusal :=
  event s (some (s.writeEnable queue value))

/-- ARVADD (16 R326). -/
def execArvadd (queue : Nat) (value : BitVec 32) (s : State) : Host.Outcome State Fault Refusal :=
  event s (some (s.writeArvadd queue value))

/-- GO (19 R392). -/
def execGo (fn : Nat) (value : BitVec 32) (s : State) : Host.Outcome State Fault Refusal :=
  event s (some (s.writeGo fn value))

/-- EVENT_RING_CONFIGURE (19 R396): the base at 0x200, the entries at 0x208. -/
def execEventRingConfigure (fn offset : Nat) (value : BitVec 64) (s : State) : Host.Outcome State Fault Refusal :=
  event s (if offset = 0x200 ∨ offset = 0x208 then some (s.writeBar0 fn offset value) else none)

end Sys2Proof.Machine
end

