-- ==== Sys2Proof/Machine/Regions.lean ====
section
/-! DEFINITION. Writes at their place of execution: plain stores, read-modify-writes, and the regions of the
home agents (05 R113 to R118, 09 R225 to R232, 04 R93, R94, 17 R363). -/

namespace Sys2Proof.Machine

open Sys2Proof

/-! ### Home agents and regions -/

/-- The home agent of a stack. -/
def State.agent (s : State) (st : Nat) : Home := kgetD s.homes st Home.reset

/-- Change a home agent. -/
def State.modAgent (s : State) (st : Nat) (f : Home → Home) : State := { s with homes := kset s.homes st (f (s.agent st)) }

/-- The event source of a stack (05 R107, 19 R396). -/
def stackSource (st : Nat) : Nat := 672 + st

/-- The stack offset that an address has in the decoding of a region's pages (05 R103, R113). -/
def regionOff (cl : Bool) (pa : Nat) : Nat := if cl then interToCl (offOf pa) else offOf pa

/-- The address of byte `k` from a region's base. -/
def regionByte (cl : Bool) (base k : Nat) : Nat := if cl then paOf (dieOf base) 0 (clToInter (regionOff cl base + k)) else base + k

/-- Where an address lies in a region: its byte counted from the base. -/
def Region.index (r : Region) (pa : Nat) : Nat := regionOff r.cl pa - regionOff r.cl r.base

/-- Whether a region holds an address. -/
def Region.holds (r : Region) (pa : Nat) : Bool :=
  dieOf pa == dieOf r.base && decide (regionOff r.cl r.base ≤ regionOff r.cl pa) && decide (r.index pa < r.size)

/-- The OPEN or CLOSING region that holds an address, with the stack of its home (05 R113). -/
def State.regionAt (s : State) (pa : Nat) : Option (Nat × Region) :=
  if kindOf pa ≠ 0 then none
  else [2 * dieOf pa, 2 * dieOf pa + 1].findSome? fun st =>
    ((s.agent st).regions.find? fun r => r.holds pa).map fun r => (st, r)

/-- The home that performs an operation on an address: its region's, or its stack's (05 R115). -/
def State.homeOf (s : State) (pa : Nat) : Nat :=
  match s.regionAt pa with
  | some (st, _) => st
  | none => stackOf pa

/-- Change a region. -/
def State.modRegion (s : State) (st base : Nat) (f : Region → Region) : State :=
  s.modAgent st fun h => { h with regions := h.regions.map fun r => if r.base = base then f r else r }

/-- Raise a saturating word of a header (05 R114). -/
def State.raiseWord (s : State) (a n : Nat) : State :=
  s.store (span a 4) (bytesOfNat 4 (min (readNat s.mem a 4 + n) 0xFFFFFFFF))

/-- Add to COUNT (05 R114, R115). -/
def State.raiseCount (s : State) (r : Region) (n : Nat) : State :=
  s.store (span r.base 4) (bytesOfNat 4 ((readNat s.mem r.base 4 + n) % 2 ^ 32))

/-- A write that a region discards: DROP, and an event to the owner (05 R117). -/
def State.discardWrite (s : State) (st : Nat) (r : Region) : State :=
  (s.raiseWord (r.base + 12) 1).post .regionAccess (stackSource st) r.owner [r.base]

/-- An operation that finds no open region of its kind is discarded: DROP of a region that holds its target rises, be it CLOSING
or OPEN (05 R114), and the sender's context has an event (05 R117, R118). -/
def State.targetClosed (s : State) (pa ctx tag : Nat) : State :=
  let s1 := match s.regionAt pa with
    | some (_, r) => s.raiseWord (r.base + 12) 1
    | none => s
  s1.post .targetClosed (stackSource (s.homeOf pa)) ctx [tag, pa]

/-! ### Plain stores -/

/-- The region that one of some addresses lies in. -/
def State.regionTouched (s : State) (pas : List Nat) : Option (Nat × Region) := pas.findSome? s.regionAt

/-- Whether addresses lie in TARGET of a region. -/
def Region.targets (r : Region) (pas : List Nat) : Bool :=
  pas.all fun a => decide (4 ≤ r.index a) && decide (r.index a < 8)

/-- A write of bytes, those at the addresses `bad` being poisoned: discarded in a region, but for a plain store to TARGET
(05 R117); to the device registers in KIND 3; to memory elsewhere. -/
def State.writeWith (s : State) (plain : Bool) (pas : List Nat) (bs : List Byte) (bad : List Nat) : State :=
  match s.regionTouched pas with
  | some (st, r) => if plain && r.targets pas then s.write pas bs bad else s.discardWrite st r
  | none => if kindOf (pas.headD 0) = 3 then s.writeKind3Bytes (pas.headD 0) bs else s.write pas bs bad

/-- A write of bytes that are not poisoned. -/
def State.writeBytes (s : State) (plain : Bool) (pas : List Nat) (bs : List Byte) : State := s.writeWith plain pas bs []

/-- A byte as a load reads it. -/
def State.loadByte (s : State) (pa : Nat) : Byte := if kindOf pa = 3 then s.readKind3Byte pa else readByte s.mem pa

/-! ### Read-modify-writes (09 R226 to R229) -/

/-- The new value of an operation (09 R227). -/
def Rmw.new (r : Rmw) (old b : DWord) : DWord :=
  let w := if r.wide then 64 else 32
  let o := old.toNat
  let x := b.toNat
  let sg (n : Nat) : Int := if r.unsigned then n else toSigned w n
  match r.code with
  | 0 => BitVec.ofNat 64 ((o + x) % 2 ^ w)
  | 1 => BitVec.ofNat 64 ((o + 2 ^ w - x) % 2 ^ w)
  | 2 => if sg o ≤ sg x then old else b
  | 3 => if sg x ≤ sg o then old else b
  | 4 => old &&& b
  | 5 => old ||| b
  | 6 => old ^^^ b
  | 7 => b
  | 8 => if x ≤ o then 0 else BitVec.ofNat 64 (o + 1)
  | 9 => (addF .f32 .rne (decodeF .f32 old) (decodeF .f32 b)).1
  | _ => old

/-- The event source of the unit that performs at an address. -/
def unitSource (pa : Nat) : Nat := if kindOf pa = 1 then scratchCore pa else stackSource (stackOf pa)

/-- One read-modify-write: the state after, the old value, and whether it is poisoned.  A poisoned atom is
left, with a memory-error event (17 R363), in a region too (DESIGN CHOICE, log 106); a region discards (05 R117), and the
old value is then memory's all the same (DESIGN CHOICE, log 87). -/
def State.rmwAt (s : State) (ctx : Nat) (r : Rmw) (pas : List Nat) (b : DWord) (cmp : DWord) : State × DWord × Bool :=
  let n := if r.wide then 8 else 4
  let old := BitVec.ofNat 64 (leNat (readAll s.mem pas))
  if s.poisoned pas then (s.post .memoryError (unitSource (pas.headD 0)) ctx [pas.headD 0], old, true)
  else match s.regionTouched pas with
    | some (st, reg) => (s.discardWrite st reg, old, false)
    | none =>
      let new := if r.cas then (if old = cmp then b else old) else r.new old b
      (s.store pas (bytesOfNat n new.toNat), old, false)

/-! ### Region operations (04 R94, 05 R115, R116; 09 R232) -/

/-- A wide cell after an addend (04 R94). -/
def cellAdd (cell : Nat) (e : Int) (x : DWord) : Nat :=
  let set (b : Nat) : Nat := if cell.testBit b then cell else cell + 2 ^ b
  match decodeF .f32 x with
  | .nan _ => set 127
  | .inf false => set 126
  | .inf true => set 125
  | .fin neg m k =>
    let n := (toIntF .rne neg m (k - e)).1
    if 2 ^ 95 ≤ n.natAbs then set 124
    else cell / 2 ^ 124 * 2 ^ 124 + ofInt 124 ((cell % 2 ^ 124 : Nat) + n)

/-- Writing granules of one packet: the state, the lowest conflicting offset and their number (05 R116). -/
def landGranules (tag st base : Nat) (poison : List Nat) (data : List Byte) (pa : Nat) :
    List Nat → State → Option Nat → Nat → State × Option Nat × Nat
  | [], s, low, n => (s, low, n)
  | g :: gs, s, low, n =>
    let reg := (s.agent st).regions.find? fun r => r.base == base
    let off := (reg.map fun r => r.index (pa + 4 * g)).getD 0
    let w := reg.bind fun r => kget r.written off
    match w with
    | none =>
      let s2 := s.write (span (pa + 4 * g) 4) (sliceBytes data (4 * g) 4) (if poison.contains g then [pa + 4 * g] else [])
      landGranules tag st base poison data pa gs
        (s2.modRegion st base fun r => { r with written := kset r.written off tag }) low n
    | some t =>
      if t = tag then landGranules tag st base poison data pa gs s low n
      else
        landGranules tag st base poison data pa gs
          ((s.raiseWord (base + 8) 1).modRegion st base fun r =>
            { r with conflict := if r.conflict.contains off then r.conflict else off :: r.conflict })
          (some (low.getD off)) (n + 1)

/-- The open landing region whose data area holds a packet's bytes. -/
def State.openData (s : State) (wide : Bool) (pa n : Nat) : Option (Nat × Region) :=
  match s.regionAt pa with
  | some (st, r) =>
    if r.state = RegionState.opened ∧ r.wide = wide ∧ 64 ≤ r.index pa ∧ r.index pa + n ≤ r.size then some (st, r) else none
  | none => none

/-- Landing data: granule writes, the conflict event, and with `count` COUNT (05 R115, R116).  The second
part says whether an open region took it. -/
def State.land (s : State) (ctx tag pa : Nat) (data : List Byte) (poison : List Nat) (count : Bool) : State × Bool :=
  let n := data.length / 4
  match s.openData false pa data.length with
  | none => (s.targetClosed pa ctx tag, false)
  | some (st, r) =>
    let (s1, low, k) := landGranules tag st r.base poison data pa (List.range n) s none 0
    let s2 := match low with
      | some o => s1.post .writeOnceConflict (stackSource st) r.owner [r.base, o, k]
      | none => s1
    (if count then s2.raiseCount r n else s2, true)

/-- ONCE, ARV and FADDW at the home (09 R232); a poisoned target is not operated on (17 R363). -/
def State.regionOp (s : State) (code ctx tag pa : Nat) (data : List Byte) : State × Bool :=
  let n := if code = 11 then data.length else if code = 12 then 4 else 16
  if s.poisoned (span pa n) then (s.post .memoryError (stackSource (s.homeOf pa)) ctx [pa], true)
  else match code with
  | 11 => s.land ctx tag pa data [] false
  | 12 =>
    match s.regionAt pa with
    | some (_, r) =>
      if r.state = RegionState.opened ∧ r.base = pa then (s.raiseCount r (leNat data), true) else (s.targetClosed pa ctx tag, false)
    | none => (s.targetClosed pa ctx tag, false)
  | _ =>
    match s.openData true pa 16 with
    | some (_, r) =>
      (s.store (span pa 16) (bytesOfNat 16 (cellAdd (readNat s.mem pa 16) r.e (BitVec.ofNat 64 (leNat data)))), true)
    | none => (s.targetClosed pa ctx tag, false)

/-! ### Registering and revoking (05 R113, R114, R118; 11 R284, R285) -/

/-- Whether two ranges meet. -/
def overlaps (a n b m : Nat) : Bool := decide (a < b + m) && decide (b < a + n)

/-- Whether a range of a die meets a region: where their decodings differ, some granule of it does. -/
def Region.meets (r : Region) (cl : Bool) (base size : Nat) : Bool :=
  if r.cl = cl then overlaps (regionOff cl base) size (regionOff r.cl r.base) r.size
  else (List.range (size / 64)).any fun i => r.holds (regionByte cl base (64 * i))

/-- Whether a home may take a region: alignment, size, overlap, number and total (05 R113). -/
def State.regionFits (s : State) (cl : Bool) (base size : Nat) (wide : Bool) : Bool :=
  let st := stackOf base
  let held := (s.agent st).regions
  let all := (s.agent (dieOf base * 2)).regions ++ (s.agent (dieOf base * 2 + 1)).regions
  base % 64 == 0 && size % 64 == 0 && decide (128 ≤ size) && decide (size ≤ 2 ^ 24) && kindOf base == 0
    && !(all.any fun r => r.meets cl base size) && decide (held.length < 256)
    && (wide || decide (((held.filter fun r => !r.wide).map fun r => r.size - 64).sum + (size - 64) ≤ 2 ^ 25))

/-- LREG's effect at the home: the header is initialised, the region OPEN (05 R114, R118). -/
def State.registerRegion (s : State) (cl : Bool) (base size : Nat) (wide : Bool) (e : Int) (target owner : Nat) : State :=
  let hdr := bytesOfNat 4 0 ++ bytesOfNat 4 target ++ bytesOfNat 8 0 ++ bytesOfNat 4 (ofInt 32 e)
    ++ bytesOfNat 4 (bitNat wide) ++ bytesOfNat 40 0
  let s1 := s.store (span base 64) hdr
  let s2 := if wide then s1.store ((List.range (size - 64)).map fun k => regionByte cl base (64 + k)) (List.replicate (size - 64) 0) else s1
  s2.modAgent (stackOf base) fun h =>
    { h with regions := { base := base, cl := cl, size := size, wide := wide, e := e, owner := owner, state := .opened
                          written := [], conflict := [] } :: h.regions }

/-- Every waiting `MON` on one of some addresses, by core, residency and slot. -/
def State.monitors (s : State) (on : Nat → Nat → Bool) : List (Nat × Nat × Nat) :=
  s.cores.flatMap fun c => [0, 1].flatMap fun r => ((c.2.res r).slots.filter fun p =>
    match p.2.wait with
    | some ⟨_, .mon pa va _ _⟩ => p.2.status == .waiting && on pa va
    | _ => false).map fun p => (c.1, r, p.1)

/-- Abandon waiting `MON`s with status 1, but for one that a write has ended before (08 R216, R217). -/
def State.abandonMons (s : State) (ms : List (Nat × Nat × Nat)) : State :=
  ms.foldl (fun s m => if (s.metAt m.1 m.2.1 m.2.2).isSome then s else s.resume m.1 m.2.1 m.2.2 1) s

/-- A team that has stepped aside as it would stand on its core: its fibres and their registers (18 R372). -/
def State.stand (s : State) (n : Nat) (x : Saved) : State :=
  let r := x.team.hdr.res
  let s1 := s.modCore n fun c => c.setRes r { x.even with team := some x.team }
  match x.odd with
  | some o => s1.modCore (n + 1) fun c => c.setRes r o
  | none => s1

/-- Abandon its waiting `MON`s. -/
def Saved.abandonMons (s : State) (n : Nat) (on : Nat → Nat → Bool) (x : Saved) : Saved :=
  let r := x.team.hdr.res
  let s1 : State := { s.stand n x with met := [] }
  let t := s1.abandonMons ((s1.monitors on).filter fun m => m.2.1 == r && (m.1 == n || (x.odd.isSome && m.1 == n + 1)))
  { x with even := { t.res n r with team := x.even.team }, odd := x.odd.map fun _ => t.res (n + 1) r }

/-- Abandon the waiting `MON`s on some words, of the teams of some cores and contexts: those that the cores host, and those that
have stepped aside there (08 R217, 18 R372). -/
def State.abandonWhere (s : State) (at_ : Nat → Nat → Bool) (on : Nat → Nat → Bool) : State :=
  let s1 := s.abandonMons ((s.monitors on).filter fun m => (s.team m.1 m.2.1).any fun t => at_ m.1 t.ctx)
  { s1 with
    cores := s1.cores.map fun p =>
      (p.1, { p.2 with turns := p.2.turns.map fun x => if at_ p.1 x.team.ctx then x.abandonMons s1 p.1 on else x }) }

/-- LREV's effect at the home: the region is CLOSING, and monitors on it are abandoned (05 R118, 08 R217). -/
def State.revokeRegion (s : State) (st : Nat) (r : Region) : State :=
  (s.modRegion st r.base fun x => { x with state := .closing s.clock }).abandonWhere (fun _ _ => true) fun pa _ => r.holds pa

/-- REGION_FREE (05 R118): 10,250,000 home cycles after the `LREV`. -/
def execRegionFree (stack base : Nat) (s : State) : Host.Outcome State Fault Refusal :=
  event s (if (s.agent stack).regions.any fun r => r.base == base && (match r.state with
      | .closing t => decide (t + Config.closingCycles ≤ s.clock)
      | .opened => false)
    then some (s.modAgent stack fun h => { h with regions := h.regions.filter fun r => r.base != base })
    else none)

end Sys2Proof.Machine
end

