-- ==== Sys2Proof/Machine/Operands.lean ====
section
/-! DEFINITION. Operand fields, the checks of 06 R151 up to DEADREG, reading operands, and writing results
(03 R56 to R70, 02 R50, 06 R135 to R151). -/

namespace Sys2Proof.Machine

open Sys2Proof

/-! ### Widths that MODE gives (07 R158) -/

/-- The integer width of a MODE (07 R158, 04 R78, R79). -/
def intWidth (m : Word) : Nat :=
  match modeType m with
  | 0 => 8 | 4 => 8 | 1 => 16 | 5 => 16 | 3 => 64 | 7 => 64 | _ => 32
/-- Whether integers are signed under a MODE (07 R158). -/
def intSigned (m : Word) : Bool := !(decide (4 ≤ modeType m) && decide (modeType m ≤ 7))
/-- Whether integer results clamp: never under b32 or a float type (04 R79, R80). -/
def intClamps (m : Word) : Bool := modeSat m && decide (modeType m ≤ 7)
/-- The float format of a MODE (07 R158). -/
def floatFmt (m : Word) : Option Fmt :=
  match modeType m with
  | 8 => some .f16 | 9 => some .bf16 | 10 => some .f32 | 11 => some .f64 | _ => none
/-- Registers of an integer operand. -/
def intRegs (m : Word) : Nat := if intWidth m = 64 then 2 else 1
/-- Registers of a moved value: two under i64, n64 and f64 (07 R158). -/
def valRegs (m : Word) : Nat := if modeType m = 3 ∨ modeType m = 7 ∨ modeType m = 11 then 2 else 1
/-- Registers of a float operand. -/
def fltRegs (m : Word) : Nat := if modeType m = 11 then 2 else 1

/-! ### Fields -/

/-- A source (03 R58). -/
inductive Src where
  | v (i : Nat)
  | o (i : Nat)
  | const (c : Int)
  | sv (i : Nat)
  | la
  | lm
  deriving DecidableEq, Repr

/-- The source that a field names; none where 03 R58 or R60 raises ILL. -/
def srcOf (f : BitVec 9) : Option Src :=
  let i := (f.extractLsb' 0 6).toNat
  match (f.extractLsb' 6 2).toNat with
  | 0 => some (.v i)
  | 1 => if i < 16 then some (.o i) else none
  | 2 =>
    if f.getLsbD 8 then none
    else if i < 16 then some (.const i)
    else if i < 32 then some (.const ((i : Int) - 32))
    else if i < 50 then some (.sv i)
    else none
  | _ => if f.getLsbD 8 then none else if i = 0 then some .la else if i = 1 then some .lm else none

/-- The last-use mark of a field (03 R58). -/
def lastUse (f : BitVec 9) : Bool := f.getLsbD 8

/-- Which step of a step word a field takes (02 R49). -/
inductive Pos where
  | d | a | b
  deriving DecidableEq, Repr

/-- The step of a field (02 R49). -/
def stepOf (w : Word) : Pos → Int
  | .d => (w.extractLsb' 29 3).toInt
  | .a => (w.extractLsb' 26 3).toInt
  | .b => (w.extractLsb' 23 3).toInt

/-- WSTART (02 R49). -/
def stepStart (w : Word) : Nat := (w.extractLsb' 16 7).toNat

/-- A main register index in a pass of a loop (02 R50). -/
def stepIndex (l : LoopState) (p : Pos) (i : Nat) : Nat :=
  let ws := stepStart l.step
  if i < ws then i
  else ws + ((((i - ws : Nat) : Int) + (l.pass : Int) * stepOf l.step p) % ((64 - ws : Nat) : Int)).toNat

/-- The index that the issuing ply reaches. -/
def View.index (v : View) (p : Pos) (i : Nat) : Nat :=
  match v.ply.loop with
  | some l => stepIndex l p i
  | none => i

/-- A tile index that the issuing ply reaches (02 R50). -/
def View.tileIndex (v : View) (i : Nat) : Nat :=
  match v.ply.loop with
  | some l => (((i : Int) + (l.pass : Int) * stepOf l.step .d) % 16).toNat
  | none => i

/-- A source in the issuing ply's pass. -/
def View.step (v : View) (p : Pos) : Src → Src
  | .v i => .v (v.index p i)
  | x => x

/-- A register that an instruction reads or writes. -/
inductive RegId where
  | v (i : Nat)
  | o (i : Nat)
  | la
  | lm
  deriving DecidableEq, Repr

/-- The registers of a source of `n` registers. -/
def Src.regs (s : Src) (n : Nat) : List RegId :=
  match s with
  | .v i => (List.range n).map fun k => .v (i + k)
  | .o i => (List.range n).map fun k => .o (i + k)
  | .la => [.la]
  | .lm => [.lm]
  | _ => []

/-- A source field as an instruction uses it: its registers, and whether their number is fixed by the word. -/
structure Use where
  field : BitVec 9
  pos : Pos
  n : Nat
  fixed : Bool
  deriving DecidableEq, Repr

/-- The source of a use in the issuing ply's pass; a field without one has been refused before. -/
def View.srcOf (v : View) (u : Use) : Src := v.step u.pos ((Machine.srcOf u.field).getD (.const 0))

/-- ILL of a source field from the encoding alone: 03 R58, and 03 R57 where the word fixes the width. -/
def Use.encOk (u : Use) : Bool :=
  match Machine.srcOf u.field with
  | none => false
  | some (.v i) => !u.fixed || i % u.n == 0
  | some (.o i) => decide (u.n ≠ 4) && (!u.fixed || i % u.n == 0)
  | some _ => decide (u.n ≠ 4)

/-- ILL of a source field from the issue state: the declared count (03 R56), a pair's index (03 R57, 02 R50). -/
def View.useOk (v : View) (u : Use) : Bool :=
  match v.srcOf u with
  | .v i => i % u.n == 0 && decide (i + u.n ≤ v.declared)
  | .o i => i % u.n == 0
  | _ => true

/-- A D field as an instruction uses it. -/
structure DUse where
  field : BitVec 7
  n : Nat
  fixed : Bool
  reads : Bool
  discard : Bool
  deriving DecidableEq, Repr

/-- The destination of a D field, unstepped; none where 03 R61 raises ILL. -/
def destOf (d : BitVec 7) : Option Dest :=
  let i := d.toNat
  if i < 64 then some (.v i)
  else if i < 80 then some (.o (i - 64))
  else if i < 96 then some (.tile (i - 80))
  else if i < 112 then some .discard
  else none

/-- The destination of a D field in the issuing ply's pass. -/
def View.dest (v : View) (d : BitVec 7) : Dest :=
  match destOf d with
  | some (.v i) => .v (v.index .d i)
  | some x => x
  | none => .nothing

/-- ILL of a D field from the encoding alone (03 R57, R61).  A quad lies in main registers alone, so that `ST.b128` of an
operand-file register is ILL (03 R57, 09 R223; DEDUCED, log 110). -/
def DUse.encOk (u : DUse) : Bool :=
  match destOf u.field with
  | some (.v i) => !u.fixed || i % u.n == 0
  | some (.o i) => decide (u.n ≠ 4) && (!u.fixed || i % u.n == 0)
  | some .discard => u.discard
  | _ => false

/-- ILL of a D field from the issue state (03 R56, R57). -/
def View.dOk (v : View) (u : DUse) : Bool :=
  match v.dest u.field with
  | .v i => i % u.n == 0 && decide (i + u.n ≤ v.declared)
  | .o i => i % u.n == 0
  | _ => true

/-- The registers of a destination of `n` registers. -/
def Dest.regs (d : Dest) (n : Nat) : List RegId :=
  match d with
  | .v i => (List.range n).map fun k => .v (i + k)
  | .o i => (List.range n).map fun k => .o (i + k)
  | _ => []

/-! ### The scoreboard (07 R161, 03 R63) -/

/-- Registers of a load's destination (06 R140). -/
def loadRegs (bytes : Nat) : Nat := if bytes = 16 then 4 else if bytes = 8 then 2 else 1

/-- What an outstanding access will write. -/
def OpBody.writes : OpBody → List RegId
  | .load _ d bytes _ _ => .lm :: d.regs (loadRegs bytes)
  | .write (.rmw r _) _ d => if d = .nothing then [] else .lm :: d.regs (if r.wide then 2 else 1)
  | .write _ _ _ => []
  | .oldValue _ d wide => .lm :: d.regs (if wide then 2 else 1)
  | .status _ d => d.regs 1
  | .tableLoad _ _ d => d.regs 1
  | .bankRead d => d.regs 1
  | _ => []

/-- The lanes of `lm` that an access of the issuing fibre is still to write: those that no younger one takes over (03 R63). -/
def View.lmLanes (v : View) (o : Op) : Mask :=
  v.core.ops.foldl (fun m p =>
    if o.seq < p.2.seq ∧ p.2.res = o.res ∧ p.2.slot = o.slot ∧ p.2.ply = o.ply then m &&& ~~~p.2.lm else m) o.lm

/-- Whether an access still to return will write one of the registers: of the fibre, or of the shared
window of its spindle (02 R29). -/
def View.awaits (v : View) (ids : List RegId) (p : Nat × Op) : Bool :=
  !p.2.done && p.2.res == v.who.res &&
    if p.2.slot = v.who.slot then p.2.body.writes.any fun r => ids.contains r && (r != .lm || v.lmLanes p.2 != 0)
    else spindleKey p.2.slot == spindleKey v.who.slot && p.2.body.writes.any fun r =>
      match r with
      | .v i => v.team.hdr.inWindow i && ids.contains r
      | _ => false

/-- Whether the scoreboard holds one of the registers. -/
def View.busy (v : View) (ids : List RegId) : Bool := v.core.ops.any (v.awaits ids)

/-- Whether a buffered atomic of a deterministic launch owes one of the registers (18 R373, R376). -/
def View.owed (v : View) (ids : List RegId) : Bool :=
  match v.team.det with
  | some d => v.core.ops.any fun p => v.awaits ids p && d.buf.any fun b => b.op == p.1 && b.fibre == p.2.fibre
  | none => false

/-- Whether an arrival of the fibre that a latch holds will read one of the registers (10 R255, R259). -/
def View.held (v : View) (ids : List RegId) : Bool :=
  v.res.latches.any fun p => p.2.arrived.any fun a =>
    a.slot == v.who.slot && (a.a.regs a.na ++ a.b.regs a.nb).any fun r => ids.contains r

/-! ### Reading -/

/-- A register of the issuing fibre. -/
def View.reg (v : View) : RegId → Reg
  | .v i => getV v.team.hdr v.res v.who.slot v.fib i
  | .o i => getO v.team.hdr v.fib i
  | _ => Reg.dead 2 v.width

/-- Whether every register is live; latches always are (03 R62, R65). -/
def View.liveAll (v : View) (ids : List RegId) : Bool :=
  ids.all fun r => match r with
    | .la => true
    | .lm => true
    | x => (v.reg x).live

/-- The shape of a source or a result (03 R66). -/
inductive Shape where
  | u | a | g
  deriving DecidableEq, Repr

/-- The shape of a register value. -/
def RegVal.shape : RegVal → Shape
  | .u _ => .u
  | .a _ _ => .a
  | .g _ => .g

/-- The lanes of a register that are poisoned. -/
def Reg.poisonMask (r : Reg) (w : Nat) : Mask :=
  match r.val with
  | .u _ => if r.poison = 0 then 0 else fullMask w
  | _ => r.poison

/-- An operand that has been read: its bits, zero-extended to 64, lane by lane. -/
structure Opnd where
  shape : Shape
  base : Word
  stride : Word
  lane : Nat → DWord
  poison : Mask

/-- An operand with one value. -/
def Opnd.uni (x : DWord) : Opnd :=
  { shape := .u, base := x.setWidth 32, stride := 0, lane := fun _ => x, poison := 0 }

/-- A register read as 32 bits. -/
def Opnd.ofReg (r : Reg) (w : Nat) : Opnd :=
  { shape := r.val.shape, poison := r.poisonMask w
    base := (match r.val with | .u x => x | .a b _ => b | .g _ => 0)
    stride := (match r.val with | .a _ s => s | _ => 0)
    lane := fun l => (r.val.lane l).setWidth 64 }

/-- Two registers read as a pair (03 R57). -/
def Opnd.pair (lo hi : Opnd) : Opnd :=
  { shape := if lo.shape = .u ∧ hi.shape = .u then .u else if lo.shape = .g ∨ hi.shape = .g then .g else .a
    base := 0, stride := 0, poison := lo.poison ||| hi.poison
    lane := fun l => ((hi.lane l).setWidth 32 : Word) ++ ((lo.lane l).setWidth 32 : Word) }

/-- A latch, 32 bits of it or all (03 R63). -/
def Opnd.latch (xs : List DWord) (poison : Mask) (wide : Bool) : Opnd :=
  { shape := .g, base := 0, stride := 0, poison := poison
    lane := fun l => if wide then xs.getD l 0 else ((xs.getD l 0).setWidth 32).setWidth 64 }

/-- A system value (03 R60, 18 R371); the odd core of a pair is the odd logical core of its logical pair (18 R370, R372). -/
def View.sysVal (v : View) (i : Nat) : Nat :=
  let h := v.team.hdr
  let c := v.fib.spec.ctr
  match i with
  | 33 => v.fib.num
  | 34 => v.team.num
  | 35 => v.team.num % h.tx
  | 36 => v.team.num / h.tx % h.ty
  | 37 => v.team.num / (h.tx * h.ty)
  | 38 => h.width
  | 39 => match v.team.det with
    | some d => (d.lcore + if (v.core.res v.who.res).pairedOdd then 1 else 0) % 80
    | none => v.who.core % 80
  | 40 => v.who.core / 80
  | 41 => v.who.ply
  | 42 => c.ld
  | 43 => c.st
  | 44 => c.far
  | 45 => c.eng
  | 46 => c.bank
  | 47 => c.sel
  | 48 => h.param.toNat % 2 ^ 32
  | 49 => h.param.toNat / 2 ^ 32 % 2 ^ 24
  | _ => 0

/-- Read a source of one or two registers; `flt` makes an inline constant a float value (03 R59). -/
def View.read (v : View) (u : Use) (flt : Option Fmt) : Opnd :=
  let w := v.width
  match v.srcOf u with
  | .v i =>
    if u.n = 2 then Opnd.pair (Opnd.ofReg (v.reg (.v i)) w) (Opnd.ofReg (v.reg (.v (i + 1))) w)
    else Opnd.ofReg (v.reg (.v i)) w
  | .o i =>
    if u.n = 2 then Opnd.pair (Opnd.ofReg (v.reg (.o i)) w) (Opnd.ofReg (v.reg (.o (i + 1))) w)
    else Opnd.ofReg (v.reg (.o i)) w
  | .const c =>
    match flt with
    | some f => Opnd.uni (encodeF f (intF c))
    | none => Opnd.uni (if u.n = 2 then BitVec.ofInt 64 c else (BitVec.ofInt 32 c).setWidth 64)
  | .sv i =>
    if i = 32 then
      { shape := .a, base := 0, stride := 1, lane := fun l => BitVec.ofNat 64 l, poison := 0 }
    else Opnd.uni (BitVec.ofNat 64 (v.sysVal i % 2 ^ 32))
  | .la => Opnd.latch v.fib.regs.la v.fib.regs.laPoison (u.n == 2)
  | .lm => Opnd.latch v.fib.regs.lm v.fib.regs.lmPoison (u.n == 2)

/-- Read D as a source of one or two registers. -/
def View.readD (v : View) (d : BitVec 7) (n : Nat) : Opnd :=
  let w := v.width
  match (v.dest d).regs n with
  | [x] => Opnd.ofReg (v.reg x) w
  | [x, y] => Opnd.pair (Opnd.ofReg (v.reg x) w) (Opnd.ofReg (v.reg y) w)
  | _ => Opnd.uni 0

/-- Whether an operand is poisoned in a lane of a mask (17 R363). -/
def Opnd.poisonedIn (x : Opnd) (m : Mask) : Bool := x.poison &&& m != 0

/-- POISON where an operand is poisoned in a lane that is read (17 R363). -/
def needClean (xs : List Opnd) (m : Mask) : Except Stop Unit :=
  need (xs.all fun x => !x.poisonedIn m) (.trap (Trap.plain .poison 0))

/-! ### The checks at issue (06 R151) -/

/-- The registers an instruction names. -/
structure Form where
  uses : List Use
  d : Option DUse
  deriving DecidableEq, Repr

/-- Step 1 for the fields. -/
def Form.encOk (fm : Form) : Bool := fm.uses.all Use.encOk && (fm.d.map DUse.encOk).getD true

/-- Step 2 for the fields. -/
def View.formOk (v : View) (fm : Form) : Bool := fm.uses.all v.useOk && (fm.d.map v.dOk).getD true

/-- The registers that the sources read. -/
def View.sourceRegs (v : View) (fm : Form) : List RegId := fm.uses.flatMap fun u => (v.srcOf u).regs u.n

/-- The registers of D. -/
def View.destRegs (v : View) (fm : Form) : List RegId :=
  match fm.d with
  | some u => (v.dest u.field).regs u.n
  | none => []

/-- DEADREG on the first source that is dead, A before B before D (03 R65). -/
def View.liveOk (v : View) (fm : Form) : Except Stop Unit :=
  match fm.uses.find? fun u => !(v.liveAll ((v.srcOf u).regs u.n)) with
  | some u => .error (deadTrap u.field.toNat)
  | none =>
    match fm.d with
    | some u => need (!u.reads || v.liveAll ((v.dest u.field).regs u.n)) (deadTrap (dField u.field))
    | none => .ok ()

/-- The checks of 06 R151 up to DEADREG: the encoding, the issue state, the shapes, the scoreboard, the
live bits.  `enc`, `st` and `shape` are what the instruction's entry adds to the first three. -/
def View.check (v : View) (fm : Form) (enc : Bool) (st shape : Except Stop Unit) : Except Stop Unit := do
  need (enc && fm.encOk) illEncoding
  st
  need (v.formOk fm) illState
  shape
  need (!v.owed (v.sourceRegs fm ++ v.destRegs fm)) .halt
  need (!v.busy (v.sourceRegs fm ++ v.destRegs fm)) .stall
  need (!v.held (v.destRegs fm)) .stall
  v.liveOk fm

/-- No further check. -/
def okay : Except Stop Unit := .ok ()

/-- SHAPE unless an operand is U (03 R66). -/
def needU (x : Opnd) (f : BitVec 9) : Except Stop Unit := need (x.shape == .u) (shapeTrap f.toNat)

/-! ### Last-use marks (03 R64) -/

/-- A register after a last use.  Its contents and their poison stand until they are written again, and so in the lanes that a
later write leaves out (DESIGN CHOICE, log 5). -/
def Reg.kill (r : Reg) : Reg := { r with live := false }

/-- A register of the issuing fibre as the state holds it. -/
def State.getReg (s : State) (v : View) (id : RegId) : Reg :=
  match s.fibre v.who.core v.who.res v.who.slot with
  | some f =>
    match id with
    | .v i => getV v.team.hdr (s.res v.who.core v.who.res) v.who.slot f i
    | .o i => getO v.team.hdr f i
    | _ => Reg.dead 2 v.width
  | none => Reg.dead 2 v.width

/-- Write a register of the issuing fibre. -/
def State.putReg (s : State) (v : View) (id : RegId) (x : Reg) : State :=
  match id with
  | .v i => s.setV v.who.core v.who.res v.who.slot v.team.hdr i x
  | .o i => s.setO v.who.core v.who.res v.who.slot v.team.hdr i x
  | _ => s

/-- Clear the live bits of the sources whose field has K set. -/
def State.lastUses (s : State) (v : View) (fm : Form) : State :=
  (fm.uses.filter fun u => lastUse u.field).foldl (fun s u =>
    ((v.srcOf u).regs u.n).foldl (fun s r => s.putReg v r (s.getReg v r).kill) s) s

/-! ### Writing results -/

/-- A 32-bit result (03 R66); `gsrc` where a source is G (03 R69). -/
structure Value where
  shape : Shape
  base : Word
  stride : Word
  lane : Nat → Word
  gsrc : Bool

/-- A U result. -/
def Value.uni (x : Word) (gsrc : Bool) : Value := { shape := .u, base := x, stride := 0, lane := fun _ => x, gsrc := gsrc }
/-- An A result. -/
def Value.aff (b s : Word) : Value :=
  { shape := .a, base := b, stride := s, lane := fun l => b + BitVec.ofNat 32 l * s, gsrc := false }
/-- A G result. -/
def Value.per (f : Nat → Word) : Value := { shape := .g, base := 0, stride := 0, lane := f, gsrc := true }

/-- Whether an A register may take (b, s) under a mask (03 R70). -/
def affineFits (w : Nat) (act lanes : Mask) (old : Reg) (x : Value) : Bool :=
  !old.live || (lanesOf (lanes &&& ~~~act) w).all fun l => old.val.lane l == x.lane l

/-- What a write of a result does to a register. -/
inductive Taken where
  /-- SHAPE (03 R68, R70). -/
  | shape
  /-- The write does not take effect (03 R69, R70). -/
  | keeps
  | writes (r : Reg)
  deriving DecidableEq, Repr

/-- A result written into a register (03 R68 to R70).  It is clean: a poisoned source raises POISON first, but for one under an empty
active mask, whose uniform result is clean too (03 R77; DESIGN CHOICE, log 118). -/
def Reg.take (old : Reg) (w : Nat) (act lanes : Mask) (x : Value) : Taken :=
  match old.val, x.shape with
  | .u _, .u => if x.gsrc && act == 0 then .keeps else .writes { live := true, val := .u x.base, poison := 0 }
  | .u _, .a => if x.stride = 0 then .writes { live := true, val := .u x.base, poison := 0 } else .shape
  | .u _, .g => .shape
  | .a _ _, .g => .shape
  | .a _ _, _ =>
    if act = 0 then .keeps
    else if affineFits w act lanes old x then
      .writes { live := true, val := .a x.base x.stride, poison := old.poison &&& ~~~act }
    else .shape
  | .g _, _ => if act = 0 then .keeps else .writes (old.writeLanes w act x.lane 0)

/-- A result of 32 or 64 bits. -/
structure Result where
  wide : Bool
  lo : Value
  hi : Value

/-- A 32-bit result. -/
def Result.narrow (x : Value) : Result := { wide := false, lo := x, hi := x }

/-- A 64-bit result, U or G (03 R66). -/
def Result.uni64 (x : DWord) (gsrc : Bool) : Result :=
  { wide := true, lo := Value.uni (x.extractLsb' 0 32) gsrc, hi := Value.uni (x.extractLsb' 32 32) gsrc }
/-- A 64-bit result per lane. -/
def Result.per64 (f : Nat → DWord) : Result :=
  { wide := true, lo := Value.per fun l => (f l).extractLsb' 0 32, hi := Value.per fun l => (f l).extractLsb' 32 32 }

/-- A result in one lane, as `la` takes it (03 R62). -/
def Result.lane (r : Result) (l : Nat) : DWord :=
  if r.wide then r.hi.lane l ++ r.lo.lane l else (r.lo.lane l).setWidth 64

/-- Write a latch in active lanes (03 R62, R63). -/
def latchWrite (w : Nat) (xs : List DWord) (act : Mask) (f : Nat → DWord) : List DWord :=
  (List.range w).map fun l => if act.getLsbD l then f l else xs.getD l 0

/-- Write `la` in active lanes (03 R62). -/
def State.writeLa (s : State) (v : View) (f : Nat → DWord) : State :=
  s.onFibre v fun g =>
    { g with regs := { g.regs with
        la := latchWrite v.width g.regs.la v.active f, laPoison := g.regs.laPoison &&& ~~~v.active } }

/-- Write one 32-bit result to a register, SHAPE where its tag refuses it.  The write follows the last uses of the
instruction, so a destination that is one of them is dead, and the comparison of 03 R70 is skipped (03 R64; log 14). -/
def State.writeValue (s : State) (v : View) (d : BitVec 7) (id : RegId) (x : Value) : Except Stop State :=
  match (s.getReg v id).take v.width v.active v.fib.lanes x with
  | .shape => .error (shapeTrap (dField d))
  | .keeps => .ok s
  | .writes r => .ok (s.putReg v id r)

/-- Write a result to D (03 R61, R68 to R70). -/
def State.writeD (s : State) (v : View) (d : BitVec 7) (r : Result) : Except Stop State :=
  match (v.dest d).regs (if r.wide then 2 else 1) with
  | [x] => s.writeValue v d x r.lo
  | [x, y] => do
    let s1 ← s.writeValue v d x r.lo
    s1.writeValue v d y r.hi
  | _ => .ok s

/-- An instruction of the ALU or float pipe ends: last uses, D, `la`, retirement (03 R62, R64, R159). -/
def State.finish (s : State) (v : View) (fm : Form) (d : BitVec 7) (r : Result) : Except Stop State := do
  let s1 ← (s.lastUses v fm).writeD v d r
  .ok ((s1.writeLa v r.lane).retire v)

/-- As `finish`, without `la`. -/
def State.finishPlain (s : State) (v : View) (fm : Form) (d : BitVec 7) (r : Result) : Except Stop State := do
  let s1 ← (s.lastUses v fm).writeD v d r
  .ok (s1.retire v)

/-! ### Addresses (09 R218) -/

/-- An address operand: a pair when the field names an even register, one register when it names an odd
one, all of a latch (09 R218).  In a `LOOP` the register is the one that its pass reaches (02 R50; DEDUCED, log 109). -/
def View.addrUse (v : View) (f : BitVec 9) (p : Pos) : Use :=
  let n := match (Machine.srcOf f).map (v.step p) with
    | some (.v i) => if i % 2 = 0 then 2 else 1
    | some (.o i) => if i % 2 = 0 then 2 else 1
    | some .la => 2
    | some .lm => 2
    | _ => 1
  { field := f, pos := p, n := n, fixed := false }

/-- Bits [63:56] of an address are ignored (05 R100). -/
def effAddr (x : Int) : Nat := (x % (2 ^ 56 : Int)).toNat

/-- The effective address of a lane: base, offset and loop offset (09 R218, 02 R51). -/
def View.address (v : View) (base : Opnd) (off : Int) (l : Nat) : Nat :=
  effAddr (((base.lane l).toNat : Int) + off + v.loff)

/-! ### Checks of a value that arrives after issue (03 R405) -/

/-- SHAPE at issue for a result of a shape into one register (03 R405). -/
def Reg.arrivalOk (r : Reg) (sh : Shape) (act lanes : Mask) : Bool :=
  match r.val, sh with
  | .u _, .u => true
  | .u _, _ => false
  | .a _ _, .g => false
  | .a _ _, _ => !r.live || act == 0 || (lanes &&& ~~~act) == 0
  | .g _, _ => true

/-- The registers whose last use the instruction marks (03 R64). -/
def View.killed (v : View) (fm : Form) : List RegId :=
  (fm.uses.filter fun u => lastUse u.field).flatMap fun u => (v.srcOf u).regs u.n

/-- A register as the write of D meets it: after the last uses of the instruction (03 R64; log 14). -/
def View.regAfter (v : View) (fm : Form) (id : RegId) : Reg :=
  if (v.killed fm).contains id then (v.reg id).kill else v.reg id

/-- SHAPE at issue for a result of `n` registers that arrives later (03 R405). -/
def View.arrivalOk (v : View) (fm : Form) (d : BitVec 7) (n : Nat) (sh : Shape) : Except Stop Unit :=
  need (((v.dest d).regs n).all fun r => (v.regAfter fm r).arrivalOk sh v.active v.fib.lanes) (shapeTrap (dField d))

end Sys2Proof.Machine
end

