-- ==== Sys2Proof/Machine/Translate.lean ====
section
/-! DEFINITION. Page tables, the team window, translation of accesses, and fetching instructions
(05 R100 to R103, 17 R344 to R350, 08 R194). -/

namespace Sys2Proof.Machine

open Sys2Proof

/-! ### Page-table entries (17 R345) -/

/-- V, LEAF, CL and PEER of an entry. -/
def entryValid (e : BitVec 64) : Bool := e.getLsbD 0
def entryLeaf (e : BitVec 64) : Bool := e.getLsbD 1
def entryCl (e : BitVec 64) : Bool := e.getLsbD 5
def entryPeer (e : BitVec 64) : Bool := e.getLsbD 6
/-- Whether a reserved bit is set. -/
def entryReserved (e : BitVec 64) : Bool := e.getLsbD 7 || e.extractLsb' 52 12 != 0
/-- The ADDR field as an address. -/
def entryAddr (e : BitVec 64) : Nat := (e.extractLsb' 8 44).toNat * 256

/-- The physical addresses that exist (05 R102). -/
def paExists (pa : Nat) : Bool :=
  decide (dieOf pa ≤ 8) &&
    match kindOf pa with
    | 0 => decide (offOf pa < 0x1800000000)
    | 1 => decide (offOf pa < 80 * 2 ^ 20)
    | 3 => true
    | _ => false

/-- Whether a page of stack frames reaches a bank-unit save row, which no mappable frame holds (05 R103). -/
def saveRowFrame (cl : Bool) (pa size : Nat) : Bool :=
  if cl then offOf pa / 2 ^ 25 == 0xBFF else decide (0x17FF800000 < offOf pa + size)

/-- A leaf of a page size that the rules allow (05 R102, R103; 17 R345; 19 R388). -/
def leafOk (e : BitVec 64) (size : Nat) : Bool :=
  !entryReserved e &&
    if entryPeer e then size == 65536 && !entryCl e && !e.getLsbD 4 && e.extractLsb' 8 8 == 0
    else
      let pa := entryAddr e / size * size
      paExists pa && paExists (pa + size - 1)
        && (kindOf pa == 0 || size == 65536)
        && (!entryCl e || (size == 65536 && kindOf pa == 0))
        && !(kindOf pa == 0 && saveRowFrame (entryCl e) pa size)

/-- What an access of a class needs of a leaf (17 R346). -/
def AccClass.allowed (c : AccClass) (e : BitVec 64) : Bool :=
  let r := e.getLsbD 2
  let w := e.getLsbD 3
  match c with
  | .load | .engineRead | .bankRead => r
  | .store | .engineWrite | .bankWrite => w
  | .atomic => r && w
  | .fetch => e.getLsbD 4

/-- The entry of a table. -/
def tableEntry (m : Memory) (table i : Nat) : BitVec 64 := BitVec.ofNat 64 (readNat m (table + 8 * i) 8)

/-- Walk the levels given by the lowest address bit and the number of bits that each one indexes. -/
def walkGo (m : Memory) (ctx va : Nat) : List (Nat × Nat) → Nat → Except FaultKind Leaf
  | [], _ => .error .rsvd
  | (lo, bits) :: more, table =>
    let e := tableEntry m table (va / 2 ^ lo % 2 ^ bits)
    if !entryValid e then .error .np
    else if entryReserved e then .error .rsvd
    else if entryLeaf e then
      if lo ≤ 30 && leafOk e (2 ^ lo) then .ok { ctx := ctx, va := va / 2 ^ lo * 2 ^ lo, size := 2 ^ lo, entry := e }
      else .error .rsvd
    else if paExists (entryAddr e) then walkGo m ctx va more (entryAddr e)
    else .error .rsvd

/-- Walk a context's page table (17 R344). -/
def walk (m : Memory) (root ctx va : Nat) : Except FaultKind Leaf :=
  walkGo m ctx va [(39, 17), (30, 9), (21, 9), (16, 5)] root

/-! ### Translation -/

/-- Where a byte of an access lies: a physical address, or an offset in a remote peer's window (19 R388). -/
structure Place where
  pa : Nat
  peer : Option Nat
  deriving DecidableEq, Repr

/-- The place of an address in a page (05 R103, 19 R388). -/
def Leaf.place (l : Leaf) (va : Nat) : Place :=
  if entryPeer l.entry then
    { pa := (l.entry.extractLsb' 16 16).toNat * 65536 + va % 65536, peer := some (l.entry.extractLsb' 32 20).toNat }
  else
    let pa := entryAddr l.entry / l.size * l.size + va % l.size
    { pa := if entryCl l.entry then paOf (dieOf pa) 0 (clToInter (offOf pa)) else pa, peer := none }

/-- Whether a leaf covers an address of a context. -/
def Leaf.covers (l : Leaf) (ctx va : Nat) : Bool := l.ctx == ctx && l.va == va / l.size * l.size

/-- The physical address of an address of the team window; none outside it (05 R101). -/
def State.windowPa (s : State) (n r va : Nat) : Option Nat :=
  let h := s.home n r
  let size := s.shareSize n
  let paired := ((s.team n r).map (·.hdr.paired)).getD false
  if va < size then some (scratchPa h (s.shareBase n r + va))
  else if paired && decide (va < 2 * size) then some (scratchPa (h + 1) (s.shareBase n r + (va - size)))
  else none

/-- The fills that serve the issuing ply's replay (17 R352). -/
def View.fills (v : View) : List Leaf := (v.fib.sched.fills.filter (·.1 == v.who.ply)).map (·.2)

/-- Translate one address for an access of a class (05 R101, 17 R347, R350, R352). -/
def State.xlat (s : State) (v : View) (cls : AccClass) (va : Nat) : Except Stop Place :=
  if va < Config.windowTop then
    match s.windowPa v.who.core v.who.res va with
    | some pa => .ok { pa := pa, peer := none }
    | none => .error (.fault va cls .hole)
  else
    match (v.fills ++ v.core.tlb).find? fun l => l.covers v.team.ctx va && cls.allowed l.entry with
    | some l => .ok (l.place va)
    | none => .error (.miss va cls)

/-- Translate every byte of an access; addresses wrap at 2^56 (05 R100). -/
def State.xlatBytes (s : State) (v : View) (cls : AccClass) (va n : Nat) : Except Stop (List Place) :=
  (List.range n).mapM fun i => s.xlat v cls ((va + i) % 2 ^ 56)

/-- Whether a place is far from a core (01 R11). -/
def Place.far (p : Place) (core : Nat) : Bool := p.peer.isSome || dieOf p.pa != core / 80

/-! ### Fetching -/

/-- A word at an address, fetched for execution (17 R346, R347), from whatever die its page lies on: 01 R12 names no
fetch (DESIGN CHOICE, log 93). -/
def State.fetchWord (s : State) (v : View) (va : Nat) : Except Stop Word := do
  let ps ← s.xlatBytes v .fetch va 4
  .ok (BitVec.ofNat 32 (leNat (ps.map fun p => readByte s.mem p.pa)))

/-- The next instruction of a ply: the next word of its loop body, or the word at its pc and, after a
`LOOP`, the step word (02 R48, R49). -/
def State.fetchInstr (s : State) (v : View) : Except Stop Instr :=
  match v.ply.loop with
  | some l => .ok (decodeWord (l.body.getD l.idx 0) 0)
  | none => do
    let w ← s.fetchWord v v.ply.pc.toNat
    if isLoopWord w then
      let n ← s.fetchWord v ((v.ply.pc.toNat + 4) % 2 ^ 56)
      .ok (decodeWord w n)
    else .ok (decodeWord w 0)

/-- A target that a program counter may take (08 R194). -/
def targetOk (x : Addr) : Bool :=
  x.extractLsb' 0 2 == 0 && x.extractLsb' 56 8 == 0 && decide (Config.windowTop ≤ x.toNat)

/-- ILL where a target is refused (08 R194). -/
def needTarget (x : Addr) : Except Stop Unit := need (targetOk x) illTarget

end Sys2Proof.Machine
end

