-- ==== Sys2Proof/Machine/Access.lean ====
section
/-! DEFINITION. Outstanding accesses: path counters, their return in issue order, the order of near accesses
of a ply, range locks and the spill area (01 R19; 02 R34; 05 R121, R122, R125). -/

namespace Sys2Proof.Machine

open Sys2Proof

/-! ### Path counters (01 R19, 05 R121) -/

/-- The counter of a path: 0 ld, 1 st, 2 far, 3 eng, 4 bank, 5 sel. -/
def Counters.get (c : Counters) : Nat → Nat
  | 0 => c.ld | 1 => c.st | 2 => c.far | 3 => c.eng | 4 => c.bank | 5 => c.sel | _ => 0

/-- Change the counter of a path. -/
def Counters.mod (c : Counters) (p : Nat) (f : Nat → Nat) : Counters :=
  match p with
  | 0 => { c with ld := f c.ld } | 1 => { c with st := f c.st } | 2 => { c with far := f c.far }
  | 3 => { c with eng := f c.eng } | 4 => { c with bank := f c.bank } | 5 => { c with sel := f c.sel } | _ => c

/-- The path of what counts on no counter. -/
def noPath : Nat := 7

/-- Stall where the path's counter would pass 65,535 (05 R121). -/
def View.pathRoom (v : View) (p : Nat) : Except Stop Unit := need (decide (v.fib.spec.ctr.get p < 65535)) .stall

/-- Change a path counter of a fibre. -/
def State.countPath (s : State) (n r slot p : Nat) (f : Nat → Nat) : State :=
  s.modFibre n r slot fun g => { g with spec := { g.spec with ctr := g.spec.ctr.mod p f } }

/-- An access becomes outstanding: it takes the core's next number, and its path's counter rises. -/
def State.addOp (s : State) (v : View) (path : Nat) (lm : Bool) (pages : List Nat) (body : OpBody) : State :=
  let op : Op :=
    { res := v.who.res, slot := v.who.slot, fibre := v.fib.num, ply := v.who.ply, path := path, active := v.active
      lm := if lm then v.active else 0, body := body, done := false, pages := pages
      seq := (s.core v.who.core).nextOp }
  (s.modCore v.who.core fun c => { c with ops := kset c.ops c.nextOp op, nextOp := c.nextOp + 1 }).countPath
    v.who.core v.who.res v.who.slot path (· + 1)

/-- An outstanding access. -/
def State.op (s : State) (n key : Nat) : Option Op := kget (s.core n).ops key

/-- Change an outstanding access. -/
def State.modOp (s : State) (n key : Nat) (f : Op → Op) : State := s.modCore n fun c => { c with ops := kmod c.ops key f }

/-- How many of the oldest accesses of a path have all returned, and what is left of the table. -/
def dropReturned (r slot path : Nat) : KMap Op → Bool → KMap Op × Nat
  | [], _ => ([], 0)
  | (k, o) :: m, going =>
    if o.res = r ∧ o.slot = slot ∧ o.path = path then
      if going && o.done then
        let (m', n) := dropReturned r slot path m true
        (m', n + 1)
      else
        let (m', n) := dropReturned r slot path m false
        ((k, o) :: m', n)
    else
      let (m', n) := dropReturned r slot path m going
      ((k, o) :: m', n)

/-- Whether a team runs deterministically (18 R378: its waits are evaluated at epoch ends only). -/
def State.isDet (s : State) (n r : Nat) : Bool := ((s.team n r).bind (·.det)).isSome

/-- A `WAITC` whose counter has fallen to its threshold completes (09 R241). -/
def State.wakeCounter (s : State) (n r slot : Nat) : State :=
  match s.fibre n r slot with
  | some f =>
    match f.wait with
    | some ⟨_, .counter p t⟩ =>
      if f.status = .waiting ∧ f.spec.ctr.get p ≤ t ∧ !s.isDet n r then s.resume n r slot 0 else s
    | _ => s
  | none => s

/-- An access has returned: it and every younger one that waited for it leave, and the counter falls by
their number (05 R121). -/
def State.opReturn (s : State) (n key : Nat) : State :=
  match s.op n key with
  | none => s
  | some o =>
    let s1 := s.modOp n key fun o => { o with done := true }
    let (ops, k) := dropReturned o.res o.slot o.path (s1.core n).ops true
    ((s1.modCore n fun c => { c with ops := ops }).countPath n o.res o.slot o.path (· - k)).wakeCounter n o.res o.slot

/-! ### The order of near accesses (05 R125) -/

/-- The physical addresses of lanes. -/
def lanePas (ls : List LaneAcc) : List Nat := ls.flatMap (·.pas)

/-- The addresses of a near access, and whether it writes; none for what is no near access. -/
def OpBody.near : OpBody → Option (List Nat × Bool)
  | .load ls _ _ _ _ => some (lanePas ls, false)
  | .write _ ls _ => some (lanePas ls, true)
  | .tileLoad _ pas => some (pas, false)
  | .tileStore pas _ _ => some (pas, true)
  | _ => none

/-- Whether two near accesses of a ply keep program order: they share a byte (05 R125). -/
def OpBody.conflicts (x y : OpBody) : Bool :=
  match x.near, y.near with
  | some (xs, _), some (ys, _) => xs.any ys.contains
  | _, _ => false

/-- Whether an outstanding write is buffered (18 R375). -/
def State.isBuffered (s : State) (n key : Nat) (o : Op) : Bool :=
  match (s.team n o.res).bind (·.det) with
  | some d => d.buf.any fun b => b.op == key && b.fibre == o.fibre
  | none => false

/-- Whether an outstanding access is a load of a region's COUNT word, and so an acquire (05 R114, R131). -/
def State.acquires (s : State) (o : Op) : Bool :=
  !o.done &&
    match o.body with
    | .load ls _ _ _ _ => (lanePas ls).any fun a =>
      match s.regionAt a with
      | some (_, r) => decide (r.index a < 4)
      | none => false
    | _ => false

/-- Whether an outstanding access may be performed now: no older one of its ply touches its bytes, and no older one
of its fibre is an acquire (05 R125, R126, R131).  A buffered write holds back nothing: the fibre's loads return its
bytes (18 R376; log 86). -/
def State.mayPerform (s : State) (n key : Nat) (o : Op) : Bool :=
  !((s.core n).ops.any fun p => decide (p.1 < key) && !p.2.done && p.2.res == o.res && p.2.slot == o.slot
      && p.2.fibre == o.fibre
      && (s.acquires p.2 || (p.2.ply == o.ply && !s.isBuffered n p.1 p.2 && p.2.body.conflicts o.body)))

/-- Whether an acquire of the issuing fibre is outstanding: what it issues later is performed after it (05 R131). -/
def State.acquiring (s : State) (v : View) : Bool :=
  v.core.ops.any fun p => p.2.res == v.who.res && p.2.slot == v.who.slot && p.2.fibre == v.fib.num && s.acquires p.2

/-- Whether an outstanding access of the issuing fibre, a buffered one apart, touches some bytes. -/
def State.accessPending (s : State) (v : View) (as : List Nat) : Bool :=
  v.core.ops.any fun p => !p.2.done && p.2.res == v.who.res && p.2.slot == v.who.slot && !s.isBuffered v.who.core p.1 p.2 &&
    match p.2.body.near with
    | some (pas, _) => pas.any as.contains
    | none => false

/-- Whether an access that is performed at issue must wait: an outstanding one of the fibre touches its bytes, or is
an acquire (05 R125, R127, R131).  A buffered write is none: the fibre's reads return its bytes (18 R376). -/
def State.mustWait (s : State) (v : View) (as : List Nat) : Bool := s.accessPending v as || s.acquiring v

/-- Whether a write of the issuing fibre that is not buffered is still to be performed on some bytes. -/
def State.writesPending (s : State) (v : View) (as : List Nat) : Bool :=
  v.core.ops.any fun p => !p.2.done && p.2.res == v.who.res && p.2.slot == v.who.slot && !s.isBuffered v.who.core p.1 p.2 &&
    match p.2.body.near with
    | some (pas, true) => pas.any as.contains
    | _ => false

/-! ### What a fibre reads (05 R125, R127; 18 R376) -/

/-- A byte as a load of a fibre of a deterministic launch reads it, `key` being the load's place among the core's accesses: the
fibre's buffered stores before it lie over memory (05 R125, 18 R376). -/
def bufferedByte (buf : List BufRec) (fibre key : Nat) (pa : Nat) (b : Byte) : Byte :=
  (buf.filter fun r => r.fibre == fibre && decide (r.op < key) && r.kind == .store).foldl (fun b r =>
    r.lanes.foldl (fun b l =>
      match l.pas.findIdx? (· == pa) with
      | some i => l.data.getD i b
      | none => b) b) b

/-- The bytes that a load of a fibre reads, `key` being its place among the core's accesses. -/
def State.bytesFor (s : State) (n r fibre key : Nat) (pas : List Nat) : List Byte :=
  match (s.team n r).bind (·.det) with
  | some d => pas.map fun a => bufferedByte d.buf fibre key a (s.loadByte a)
  | none => pas.map s.loadByte

/-- The bytes that a load's lane returns. -/
def State.loadBytes (s : State) (n : Nat) (o : Op) (pas : List Nat) : List Byte := s.bytesFor n o.res o.fibre o.seq pas

/-- The places of a tile image's poisoned cells. -/
def badCells (pas bad : List Nat) : List Nat := bad.flatMap fun c => (pas.drop (4 * c)).take 4

/-- The poisoned places among those that a buffered store writes: a `TST` of a poisoned tile has some (17 R363). -/
def State.bufferedBad (s : State) (n : Nat) (b : BufRec) : List Nat :=
  match s.op n b.op with
  | some o =>
    match o.body with
    | .tileStore pas _ bad => badCells pas bad
    | _ => []
  | none => []

/-- The poisoned atoms as a load of a fibre sees them: the fibre's buffered stores before it lie over memory, and their poison
with them (17 R362, R363, 18 R376). -/
def State.atomsFor (s : State) (n r fibre key : Nat) : List Nat :=
  match (s.team n r).bind (·.det) with
  | some d => (d.buf.filter fun b => b.fibre == fibre && decide (b.op < key) && b.kind == .store).foldl (fun ps b =>
      addAtoms (b.lanes.foldl (fun ps l => keepAtoms ps l.pas) ps) (s.bufferedBad n b)) s.poison
  | none => s.poison

/-- Whether a load of a fibre reads a poisoned byte. -/
def State.seesPoison (s : State) (n r fibre key : Nat) (pas : List Nat) : Bool :=
  let ps := s.atomsFor n r fibre key
  pas.any fun a => ps.contains (a / 32)

/-- The bytes that the issuing instruction reads at its issue, as a load of its fibre does: what the fibre has buffered lies over
memory (05 R127, 18 R376). -/
def State.ownBytes (s : State) (v : View) (pas : List Nat) : List Byte :=
  s.bytesFor v.who.core v.who.res v.fib.num v.core.nextOp pas

/-- Whether some of them are poisoned. -/
def State.ownPoison (s : State) (v : View) (pas : List Nat) : Bool :=
  s.seesPoison v.who.core v.who.res v.fib.num v.core.nextOp pas

/-- The bytes of an image that the issuing instruction reads at its issue: it waits for the fibre's writes of them, and raises
POISON on a poisoned one (05 R125, 17 R363; DEDUCED, log 113). -/
def State.readNow (s : State) (v : View) (pas : List Nat) : Except Stop (List Byte) := do
  need (!s.writesPending v pas && !s.acquiring v) .stall
  need (!s.ownPoison v pas) (.trap (Trap.plain .poison 0))
  .ok (s.ownBytes v pas)

/-! ### Range locks and the spill area (02 R34, 05 R122) -/

/-- The spill areas of a team's cores as physical addresses: start and length (02 R34). -/
def State.spillAreas (s : State) (n r : Nat) : List (Nat × Nat) :=
  (s.teamCores n r).map fun c => (scratchPa c (s.shareBase c r + s.spillBase c), 57344)

/-- Whether some places touch a spill area. -/
def State.inSpill (s : State) (n r : Nat) (pas : List Nat) : Bool :=
  (s.spillAreas n r).any fun a => pas.any fun p => decide (a.1 ≤ p) && decide (p < a.1 + a.2)

/-- The range locks that a residency's team holds (02 R23, 05 R122). -/
def State.locksOf (s : State) (n r : Nat) : List Lock := (s.res (s.home n r) r).locks

/-- Whether an access by virtual address meets a lock that stops it (05 R122). -/
def lockStops (ls : List Lock) (write : Bool) (va n : Nat) : Bool :=
  ls.any fun l => (l.dest || write) && overlaps va n l.va l.len

/-! ### What an access of lanes checks (09 R219) -/

/-- A lane's access: its lane, its virtual address, and the place of each byte. -/
structure LanePlace where
  lane : Nat
  va : Nat
  places : List Place
  deriving DecidableEq, Repr

/-- An access of a whole image, which no lane makes: its traps name no lane, and its own address (17 R358; DEDUCED, log 111). -/
def wholeAccess (va : Nat) (ps : List Place) : LanePlace := { lane := 64, va := va, places := ps }

/-- Translate the access of each lane, in ascending lanes. -/
def State.xlatLanes (s : State) (v : View) (cls : AccClass) (n : Nat) (vas : List (Nat × Nat)) :
    Except Stop (List LanePlace) :=
  vas.mapM fun x => do
    let ps ← s.xlatBytes v cls x.2 n
    .ok { lane := x.1, va := x.2, places := ps }

/-- A trap of the lanes that cause it, with the address of the lowest (17 R358). -/
def laneTrap (k : TrapKind) (bad : List LanePlace) : Stop :=
  .trap { Trap.plain k 0 with
    lanes := bad.foldl (fun m x => m ||| (1#64 <<< x.lane)) 0
    addr := BitVec.ofNat 64 ((bad.map (·.va)).headD 0) }

/-- Trap where a lane fails a check. -/
def needLanes (k : TrapKind) (xs : List LanePlace) (ok : LanePlace → Bool) : Except Stop Unit :=
  let bad := xs.filter fun x => !ok x
  if bad = [] then .ok () else .error (laneTrap k bad)

/-- FAR where a lane's place is far (01 R12). -/
def View.needNear (v : View) (xs : List LanePlace) : Except Stop Unit :=
  needLanes .far xs fun x => x.places.all fun p => !p.far v.who.core

/-- RLOCK where a lane touches the spill area or a locked range (02 R34, 05 R122). -/
def State.needUnlocked (s : State) (v : View) (write : Bool) (n : Nat) (xs : List LanePlace) : Except Stop Unit :=
  needLanes .rlock xs fun x =>
    !s.inSpill v.who.core v.who.res (x.places.map (·.pa)) && !lockStops (s.locksOf v.who.core v.who.res) write x.va n

/-- The pages of 64 KiB that lanes' accesses translate. -/
def pagesOf (n : Nat) (xs : List LanePlace) : List Nat :=
  (xs.flatMap fun x => [x.va / 65536, (x.va + n - 1) % 2 ^ 56 / 65536]).dedup

/-- The lanes as an outstanding access holds them. -/
def laneAccs (xs : List LanePlace) (data : Nat → List Byte) : List LaneAcc :=
  xs.map fun x => { lane := x.lane, pas := x.places.map (·.pa), data := data x.lane }

end Sys2Proof.Machine
end

