-- ==== Sys2Proof/Machine/Sched.lean ====
section
/-! DEFINITION. Which ply issues next (02 R26, R27; 16 R341, R342; log 1). -/

namespace Sys2Proof.Machine

open Sys2Proof

/-- A ply that waits neither at a `JOIN` nor at a latch. -/
def Ply.offers (p : Ply) : Bool := p.live && !p.atJoin && !p.atLatch

/-- Whether a fibre is READY or RUN (02 R52): one whose live plies all wait at a `JOIN` or a latch is
WAITING (10 R255). -/
def Fibre.inRun (f : Fibre) : Bool := f.status == .ready && (f.p0.offers || f.p1.offers)

/-- Whether a fibre may be active: it is READY or RUN, and its quantum is not used up (18 R373). -/
def Fibre.isReady (f : Fibre) : Bool := f.inRun && f.sched.left != some 0

/-- Whether a residency has a fibre in RUN or READY. -/
def Residency.anyReady (r : Residency) : Bool := r.slots.any fun p => p.2.isReady

/-- The slots of a spindle in position order from the position after `p`, wrapping (16 R342). -/
def spindleOrder (key p : Nat) : List Nat :=
  (List.range 4).map fun k => (p + 1 + k) % 4 * 8 + key % 2 * 4 + key / 2

/-- The next ready slot of a spindle after a position. -/
def Residency.nextReady (r : Residency) (key p : Nat) : Option Nat :=
  (spindleOrder key p).find? fun sl => ((kget r.slots sl).map Fibre.isReady).getD false

/-- The active slot of a spindle: the one that was active while it is ready, else the next ready one
in position order (16 R342). -/
def Residency.activeSlot (r : Residency) (key : Nat) : Option Nat :=
  match kget r.active key with
  | some sl =>
    if ((kget r.slots sl).map Fibre.isReady).getD false then some sl else r.nextReady key (posOf sl)
  | none => r.nextReady key 3

/-- A ply that may issue: live, at no `JOIN` and no latch, not stalled (16 R341). -/
def Ply.ready (p : Ply) : Bool := p.offers && p.stall == none

/-- The ply of a fibre that issues: the one that did not issue last when both are ready (16 R341). -/
def Fibre.nextPly (f : Fibre) : Option Nat :=
  match f.p0.ready, f.p1.ready with
  | true, true => some (1 - f.sched.lastPly)
  | true, false => some 0
  | false, true => some 1
  | false, false => none

/-- What a spindle offers: its active slot and ply. -/
def Residency.offer (r : Residency) (key : Nat) : Option (Nat × Nat) :=
  match r.activeSlot key with
  | some sl =>
    match kget r.slots sl with
    | some f => f.nextPly.map fun p => (sl, p)
    | none => none
  | none => none

/-- Whether a `NOPRE` section is open on a residency's team (08 R211). -/
def State.nopreOpen (s : State) (n r : Nat) : Bool := (s.teamFibres n r).any fun x => x.2.2.sched.nopre.isSome

/-- Whether a fibre stands between two quanta of a deterministic launch (18 R374). -/
def Fibre.betweenQuanta (f : Fibre) : Bool :=
  f.sched.left == none || f.sched.left == some Config.detQuantum || f.status == .frozen

/-- Whether a residency's team is being saved, and so issues no more: a save waits for open `NOPRE`
sections, and of a deterministic launch for the end of the epoch (08 R211, 17 R360, 18 R374).  A long-wait
swap ends as soon as a fibre is READY (02 R45). -/
def State.saveHolds (s : State) (n r : Nat) : Bool :=
  match (s.team n r).bind (·.save) with
  | none => false
  | some why =>
    why != .swap && !s.nopreOpen n r && ((s.teamFibres n r).all fun x => x.2.2.betweenQuanta)

/-- Whether a ply stands inside a pass of a `LOOP`. -/
def Ply.midPass (p : Ply) : Bool := (p.loop.map fun l => l.idx != 0).getD false

/-- Whether a save waits for a fibre's `LOOP` pass to end: it drives a bank channel (11 R297). -/
def Fibre.midPass (f : Fibre) : Bool := f.status != .frozen && f.spec.bankCh.isSome && (f.p0.midPass || f.p1.midPass)

/-- A residency that only finishes such passes. -/
def Residency.finishing (r : Residency) : Residency :=
  let hold (p : Ply) : Ply := if p.midPass then p else { p with stall := some false }
  { r with
    slots := r.slots.map fun x =>
      (x.1, if x.2.midPass then { x.2 with p0 := hold x.2.p0, p1 := hold x.2.p1 } else { x.2 with status := .waiting }) }

/-- Whether a core may issue from its issuing residency: the core runs and is not in DRAIN (15 R316, 16 R341). -/
def State.mayIssue (s : State) (n : Nat) : Bool :=
  let c := s.core n
  !c.held && !c.health.testing && !c.draining && (s.team n c.issuing).isSome

/-- The residency that a core issues from, as far as it issues. -/
def State.issuable (s : State) (n : Nat) : Residency :=
  let r := (s.core n).issuing
  if s.saveHolds n r then (s.res n r).finishing else s.res n r

/-- The plies of the active fibres of a quadrant's spindles that are not marked as stalled. -/
def State.offered (s : State) (n q : Nat) : List Who :=
  if s.mayIssue n then
    [2 * q, 2 * q + 1].flatMap fun key =>
      match (s.issuable n).activeSlot key with
      | some sl =>
        match kget (s.issuable n).slots sl with
        | some f => ([0, 1].filter fun p => (f.ply p).ready).map fun p => { core := n, res := (s.core n).issuing, slot := sl, ply := p }
        | none => []
      | none => []
  else []

/-- The ply that a quadrant issues: of the spindle that did not issue last when both offer one (16 R341). -/
def State.quadrantIssue (s : State) (n q : Nat) : Option Who :=
  let c := s.core n
  let r := c.issuing
  if s.mayIssue n then
    let res := s.issuable n
    let last := kgetD c.lastSpindle q 1
    let first := 1 - last
    match res.offer (2 * q + first) with
    | some (sl, p) => some { core := n, res := r, slot := sl, ply := p }
    | none => (res.offer (2 * q + last)).map fun x => { core := n, res := r, slot := x.1, ply := x.2 }
  else none

/-- The cores that hold a fibre. -/
def State.busyCores (s : State) : List Nat :=
  (s.cores.filter fun p => p.2.r0.slots != [] || p.2.r1.slots != []).map (·.1)

/-- Clear the stall marks of a quadrant's plies: what stalled in an earlier cycle is checked again (02 R26, 06 R151). -/
def State.openQuadrant (s : State) (n q : Nat) : State :=
  let clear (r : Residency) : Residency :=
    { r with
      slots := r.slots.map fun p =>
        (p.1, if quadOf p.1 = q then
          { p.2 with p0 := { p.2.p0 with stall := none }, p1 := { p.2.p1 with stall := none } } else p.2) }
  s.modCore n fun c => { c with r0 := clear c.r0, r1 := clear c.r1 }

/-- The quadrant that issues next, each taking its turn after the one that issued last (log 1). -/
def State.nextIssue (s : State) : Option (Nat × Nat) :=
  let quads := s.busyCores.flatMap fun n => (List.range 4).map fun q => 4 * n + q
  let order := (quads.filter fun k => decide (s.lastIssue < k)) ++ (quads.filter fun k => decide (k ≤ s.lastIssue))
  (order.find? fun k => ((s.openQuadrant (k / 4) (k % 4)).quadrantIssue (k / 4) (k % 4)).isSome).map fun k => (k / 4, k % 4)

/-- The state in which a ply issues: it is the current one and is noted as the last that its fibre, its quadrant and
the module issued; a long-wait swap is cancelled (02 R45). -/
def State.prepare (s : State) (w : Who) : State :=
  let s1 : State := { s with cur := w, lastIssue := 4 * w.core + quadOf w.slot }
  let s2 := s1.modCore w.core fun c => { c with lastSpindle := kset c.lastSpindle (quadOf w.slot) (spinOf w.slot) }
  let s3 := s2.modRes w.core w.res fun r => { r with active := kset r.active (spindleKey w.slot) w.slot }
  let s4 := s3.modTeam w.core w.res fun t => { t with save := if t.save = some .swap then none else t.save }
  s4.modFibre w.core w.res w.slot fun f => { f with sched := { f.sched with lastPly := w.ply, since := s1.clock } }

/-- Whether a ply has stalled. -/
def State.stalledAt (s : State) (w : Who) : Bool :=
  ((s.fibre w.core w.res w.slot).map fun f => (f.ply w.ply).stall.isSome).getD false

/-- A ply that has stalled has issued nothing: the quadrant and the fibre keep what they issued last, as in `s` (16 R341). -/
def State.unissued (t s : State) (w : Who) : State :=
  (t.modCore w.core fun c => { c with lastSpindle := (s.core w.core).lastSpindle }).modFibre w.core w.res w.slot fun f =>
    { f with sched := { f.sched with
        lastPly := ((s.fibre w.core w.res w.slot).map (·.sched.lastPly)).getD f.sched.lastPly } }

/-- Whether an issue that has led to a state has retired its instruction (18 R373). -/
def State.retiredAt (t : State) (v : View) : Bool :=
  match t.fibre v.who.core v.who.res v.who.slot with
  | some g => decide (v.fib.sched.retired < g.sched.retired)
  | none => true

/-- SOFT cause 1 of a `NOPRE` section that has run out is delivered in place of the fibre's next instruction (17 R361), `t` being
the state to which that would lead; in a deterministic launch in place of the next that would retire, so that no stall and no trap
before it takes its place (18 R378; DEDUCED, log 115). -/
def State.withSoft (s t : State) (v : View) : State :=
  if v.fib.sched.softPending && (v.team.det.isNone || t.retiredAt v) then
    (s.onFibre v fun f => { f with sched := { f.sched with softPending := false } }).takeTrap v (Trap.plain .soft 1)
  else t

/-- Nothing issues: a cycle passes. -/
def State.idle (s : State) : State := { s with clock := s.clock + 1 }

/-- The spindle passes to its next READY fibre after the current one (02 R26, R27). -/
def Residency.passSpindle (r : Residency) (key : Nat) : Residency :=
  match r.activeSlot key with
  | some sl =>
    match r.nextReady key (posOf sl) with
    | some sl' => { r with active := kset r.active key sl' }
    | none => r
  | none => r

/-- A spindle whose active fibre is no longer READY has passed to the next one that is; an idle spindle takes the first
fibre that becomes READY (16 R342). -/
def Residency.settle (r : Residency) : Residency :=
  { r with
    active := (List.range 8).foldl (fun m key =>
      match r.activeSlot key with
      | some sl => if kget m key = some sl then m else kset m key sl
      | none => m) r.active }

/-- The spindles of a core have settled, and a dual core knows since when its issuing residency has had no fibre in RUN or READY
(15 R316). -/
def Core.settle (c : Core) (now : Nat) : Core :=
  { c with
    r0 := c.r0.settle, r1 := c.r1.settle
    idleSince := if c.dual && !(c.res c.issuing).anyReady then some (c.idleSince.getD now) else none }

/-- Every spindle has the active fibre that 16 R342 gives it. -/
def State.settleSpindles (s : State) : State := { s with cores := s.cores.map fun p => (p.1, p.2.settle s.clock) }

/-- Whether a fibre's live plies are all stalled or waiting, every stalled one with Y set (02 R26). -/
def Fibre.stalledYield (f : Fibre) : Bool :=
  let blocked (p : Ply) : Bool := !p.offers || p.stall == some true
  blocked f.p0 && blocked f.p1 && (f.p0.stall.isSome || f.p1.stall.isSome)

/-- A spindle passes on where its active fibre stalls with Y set and another is READY (02 R26). -/
def State.yieldSpindle (s : State) (n key : Nat) : Option State :=
  let r := (s.core n).issuing
  match (s.res n r).activeSlot key with
  | none => none
  | some sl =>
    match kget (s.res n r).slots sl, (s.res n r).nextReady key (posOf sl) with
    | some f, some sl' => if f.stalledYield && sl' != sl then some (s.modRes n r fun x => x.passSpindle key) else none
    | _, _ => none

/-- Both spindles of a quadrant pass on where they yield, in the cycle of the stall (02 R26, 16 R342). -/
def State.yieldSpindles (s : State) (n q : Nat) : State :=
  let s1 := (s.yieldSpindle n (2 * q)).getD s
  (s1.yieldSpindle n (2 * q + 1)).getD s1

end Sys2Proof.Machine
end

