-- ==== Sys2Proof/Machine/Flags.lean ====
section
/-! DEFINITION. Predicates, condition codes, and the float exceptions that trap (06 R145, 07 R168, R169, 04 R83). -/

namespace Sys2Proof.Machine

open Sys2Proof

/-- Set bits of a predicate in lanes of a mask (07 R168). -/
def State.writePred (s : State) (v : View) (p : Nat) (act : Mask) (f : Nat → Bool) : State :=
  s.onFibre v fun g =>
    { g with regs := { g.regs with
        preds := setAt g.regs.preds p
          ((g.regs.preds.getD p 0 &&& ~~~act) ||| (maskOf v.width f &&& act)) fun _ => 0 } }

/-- A condition on two integers; none where the code is ILL for an integer compare (06 R145). -/
def intCond (c : Nat) (x y : Int) : Option Bool :=
  match c with
  | 0 => some (x == y)
  | 1 => some (x != y)
  | 2 => some (decide (x < y))
  | 3 => some (decide (x ≤ y))
  | 4 => some (decide (y < x))
  | 5 => some (decide (y ≤ x))
  | _ => none

/-- Equality of two float numbers. -/
def FVal.eqv (x y : FVal) : Bool := !x.isNan && !y.isNan && !(x.lt y) && !(y.lt x)

/-- A condition on two floats; none where the code is ILL (06 R145). -/
def fltCond (c : Nat) (x y : FVal) : Option Bool :=
  let un := x.isNan || y.isNan
  match c with
  | 0 => some (x.eqv y)
  | 1 => some (!(x.eqv y))
  | 2 => some (x.lt y)
  | 3 => some (x.lt y || x.eqv y)
  | 4 => some (y.lt x)
  | 5 => some (y.lt x || x.eqv y)
  | 6 => some (un || x.eqv y)
  | 7 => some (un || x.lt y)
  | 8 => some (un || x.lt y || x.eqv y)
  | 9 => some (un || y.lt x)
  | 10 => some (un || y.lt x || x.eqv y)
  | 11 => some un
  | _ => none

/-- The exceptions of a float compare (07 R169). -/
def fltCondExc (c : Nat) (x y : FVal) : Exc :=
  let ordered := decide (2 ≤ c) && decide (c ≤ 5)
  if x.snan || y.snan || (ordered && (x.isNan || y.isNan)) then excInv else 0

/-- MATH where an enabled exception occurred in a lane: the enabled exceptions and their lanes (04 R83, 17 R358). -/
def View.math (v : View) (lanes : Mask) (f : Nat → Exc) : Except Stop Unit :=
  let en := modeEnables v.fib.spec.mode
  let bad := maskOf v.width fun l => lanes.getLsbD l && (f l &&& en != 0)
  if bad = 0 then .ok ()
  else
    let code := (lanesOf bad v.width).foldl (fun c l => c ||| (f l &&& en)) 0
    .error (.trap { Trap.plain .math 0 with code := code.setWidth 32, lanes := bad })

/-- The shadow of the float units and the residues of the multiplier arrays (17 R365, R366): of the
evaluations that go wrong, one is made good by the retry and counts in SHRETRY; two are a failure. -/
def View.shadow (v : View) : Except Stop Unit :=
  need (decide (v.core.shadow < 2)) (.trap (Trap.plain .shadow 0))

/-- A core after an evaluation whose retry passed (17 R366). -/
def Core.shadowPassed (c : Core) : Core :=
  { c with shadow := 0, health := { c.health with shretry := min (c.health.shretry + 1) 0xFFFF } }

/-- The state after an evaluation of the issuing core: it counts a retry that has passed. -/
def State.shadowPassed (s : State) (v : View) : State :=
  if v.core.shadow = 0 then s else s.modCore v.who.core Core.shadowPassed

end Sys2Proof.Machine
end

