-- ==== Sys2Proof/Machine/Int.lean ====
section
/-! DEFINITION. Integer arithmetic, logic, shifts, constants, compare and select, integer unary operations
and bit fields (07 R162 to R173, 04 R78 to R80). -/

namespace Sys2Proof.Machine

open Sys2Proof

/-! ### Integers at the operating width -/

/-- MODE of a view. -/
def View.mode (v : View) : Word := v.fib.spec.mode

/-- The low w bits of a lane. -/
def intPattern (m : Word) (x : DWord) : Nat := x.toNat % 2 ^ intWidth m

/-- A w-bit pattern read in the type's signedness. -/
def ofPattern (m : Word) (n : Nat) : Int := if intSigned m then toSigned (intWidth m) n else n

/-- `rd`: an operand's lane as an integer (07 R158). -/
def intVal (m : Word) (x : DWord) : Int := ofPattern m (intPattern m x)

/-- The ends of the type's range (04 R78). -/
def intMin (m : Word) : Int := if intSigned m then -(2 ^ (intWidth m - 1) : Int) else 0
def intMax (m : Word) : Int := if intSigned m then 2 ^ (intWidth m - 1) - 1 else 2 ^ intWidth m - 1

/-- An integer modulo 2^w, in the type's signedness. -/
def wrapInt (m : Word) (x : Int) : Int := ofPattern m (ofInt (intWidth m) x)

/-- `fit` (04 R80, 07 R158). -/
def fitInt (m : Word) (x : Int) : Int :=
  if intClamps m then max (intMin m) (min x (intMax m)) else wrapInt m x

/-- `wr`: the bits of a result, extended to the lane (07 R158). -/
def intBits (m : Word) (x : Int) : DWord :=
  if intWidth m = 64 then BitVec.ofInt 64 x else (BitVec.ofInt 32 x).setWidth 64

/-- An integer operand's field. -/
def intUse (m : Word) (f : BitVec 9) (p : Pos) : Use := { field := f, pos := p, n := intRegs m, fixed := false }
/-- A 32-bit operand's field. -/
def wordUse (f : BitVec 9) (p : Pos) : Use := { field := f, pos := p, n := 1, fixed := true }
/-- The field of a moved value. -/
def valUse (m : Word) (f : BitVec 9) (p : Pos) : Use := { field := f, pos := p, n := valRegs m, fixed := false }

/-- A D field of `n` registers, `n` following from MODE. -/
def dUse (d : BitVec 7) (n : Nat) (reads : Bool) : DUse :=
  { field := d, n := n, fixed := false, reads := reads, discard := !reads }

/-- An immediate read at the integer width (06 R137, 07 R163). -/
def immOpnd (i : BitVec 9) (m : Word) : Opnd :=
  Opnd.uni (if intWidth m = 64 then i.signExtend 64 else (i.signExtend 32).setWidth 64)

/-- Whether every operand is U. -/
def allU (xs : List Opnd) : Bool := xs.all fun x => x.shape == .u

/-- A result that is U when all its sources are, and G otherwise (03 R66). -/
def plainResult (wide : Bool) (xs : List Opnd) (f : Nat → DWord) : Result :=
  if wide then (if allU xs then Result.uni64 (f 0) false else Result.per64 f)
  else if allU xs then Result.narrow (Value.uni ((f 0).setWidth 32) false)
  else Result.narrow (Value.per fun l => (f l).setWidth 32)

/-- An instruction of a pipe without memory: the checks at issue, POISON, the result, the writes (06 R151, 07 R160). -/
def pipe (v : View) (s : State) (fm : Form) (d : BitVec 7) (enc : Bool) (st shape : Except Stop Unit)
    (xs : List Opnd) (read : Mask) (r : Except Stop Result) : Except Stop State := do
  v.check fm enc st shape
  needClean xs read
  let x ← r
  s.finish v fm d x

/-! ### Affine results (03 R66) -/

/-- Whether the A rows of 03 R66 apply. -/
def affineMode (m : Word) : Bool := (modeType m == 2 || modeType m == 6) && !modeSat m

/-- Shape, base and stride of a U or A operand or product; none for G. -/
abbrev Aff := Option (Bool × Word × Word)

/-- A U or A operand: whether it is A, base, stride. -/
def Opnd.aff (x : Opnd) : Aff :=
  match x.shape with
  | .u => some (false, x.base, 0)
  | .a => some (true, x.base, x.stride)
  | .g => none

/-- The sum, or with `neg` the difference. -/
def Aff.add (neg : Bool) : Aff → Aff → Aff
  | some (ax, bx, sx), some (ay, bz, sy) =>
    some (ax || ay, if neg then bx - bz else bx + bz, if neg then sx - sy else sx + sy)
  | _, _ => none

/-- The product: not of two A operands. -/
def Aff.mul : Aff → Aff → Aff
  | some (false, u, _), some (ay, b, s) => some (ay, u * b, u * s)
  | some (true, b, s), some (false, u, _) => some (true, b * u, s * u)
  | _, _ => none

/-- A shift left by a U amount. -/
def Aff.shl : Aff → Aff → Aff
  | some (ax, b, s), some (false, n, _) =>
    some (ax, if n.toNat < 32 then b <<< n.toNat else 0, if n.toNat < 32 then s <<< n.toNat else 0)
  | _, _ => none

/-- A narrow integer result by the A rows where they give A, else plainly. -/
def intResult (m : Word) (xs : List Opnd) (a : Aff) (f : Nat → Int) : Result :=
  match affineMode m, a with
  | true, some (true, b, s) => Result.narrow (Value.aff b s)
  | _, _ => plainResult (intWidth m == 64) xs fun l => intBits m (f l)

/-! ### Arithmetic (07 R162, R163) -/

/-- An R-format integer instruction that does not read D. -/
def intRR (v : View) (s : State) (d : BitVec 7) (a b : BitVec 9) (aff : Aff → Aff → Aff)
    (f : Word → Int → Int → Int) : Except Stop State :=
  let m := v.mode
  let ua := intUse m a .a
  let ub := intUse m b .b
  let x := v.read ua none
  let z := v.read ub none
  pipe v s { uses := [ua, ub], d := some (dUse d (intRegs m) false) } d true okay okay [x, z] v.active
    (.ok (intResult m [x, z] (aff x.aff z.aff) fun l => f m (intVal m (x.lane l)) (intVal m (z.lane l))))

/-- No A row. -/
def noAff (_ _ : Aff) : Aff := none

/-- IADD (07 R162). -/
def execIadd (y : Bool) (d : BitVec 7) (a b : BitVec 9) (s : State) : Host.Outcome State Fault Refusal :=
  issue y s fun v => intRR v s d a b (Aff.add false) fun m x z => fitInt m (x + z)

/-- ISUB (07 R162). -/
def execIsub (y : Bool) (d : BitVec 7) (a b : BitVec 9) (s : State) : Host.Outcome State Fault Refusal :=
  issue y s fun v => intRR v s d a b (Aff.add true) fun m x z => fitInt m (x - z)

/-- IMUL (07 R162). -/
def execImul (y : Bool) (d : BitVec 7) (a b : BitVec 9) (s : State) : Host.Outcome State Fault Refusal :=
  issue y s fun v => intRR v s d a b Aff.mul fun m x z => fitInt m (x * z)

/-- IMULH (07 R162): the high half of the exact product, never clamped. -/
def execImulh (y : Bool) (d : BitVec 7) (a b : BitVec 9) (s : State) : Host.Outcome State Fault Refusal :=
  issue y s fun v => intRR v s d a b noAff fun m x z => x * z / (2 ^ intWidth m : Nat)

/-- IMAD (07 R162): the product exact, then the sum fitted. -/
def execImad (y : Bool) (d : BitVec 7) (a b : BitVec 9) (s : State) : Host.Outcome State Fault Refusal :=
  issue y s fun v =>
    let m := v.mode
    let ua := intUse m a .a
    let ub := intUse m b .b
    let x := v.read ua none
    let z := v.read ub none
    let w := v.readD d (intRegs m)
    pipe v s { uses := [ua, ub], d := some (dUse d (intRegs m) true) } d true okay okay [x, z, w] v.active
      (.ok (intResult m [x, z, w] (Aff.add false w.aff (Aff.mul x.aff z.aff)) fun l =>
        fitInt m (intVal m (w.lane l) + intVal m (x.lane l) * intVal m (z.lane l))))

/-- IMIN (07 R162). -/
def execImin (y : Bool) (d : BitVec 7) (a b : BitVec 9) (s : State) : Host.Outcome State Fault Refusal :=
  issue y s fun v => intRR v s d a b noAff fun _ x z => min x z

/-- IMAX (07 R162). -/
def execImax (y : Bool) (d : BitVec 7) (a b : BitVec 9) (s : State) : Host.Outcome State Fault Refusal :=
  issue y s fun v => intRR v s d a b noAff fun _ x z => max x z

/-- An operation on w-bit patterns, its result read in the type's signedness (07 R164). -/
def onPatterns (f : Nat → Nat → Nat) (m : Word) (x z : Int) : Int :=
  ofPattern m (f (ofInt (intWidth m) x) (ofInt (intWidth m) z) % 2 ^ intWidth m)

/-- AND (07 R164). -/
def execAnd (y : Bool) (d : BitVec 7) (a b : BitVec 9) (s : State) : Host.Outcome State Fault Refusal :=
  issue y s fun v => intRR v s d a b noAff (onPatterns Nat.land)

/-- OR (07 R164). -/
def execOr (y : Bool) (d : BitVec 7) (a b : BitVec 9) (s : State) : Host.Outcome State Fault Refusal :=
  issue y s fun v => intRR v s d a b noAff (onPatterns Nat.lor)

/-- XOR (07 R164). -/
def execXor (y : Bool) (d : BitVec 7) (a b : BitVec 9) (s : State) : Host.Outcome State Fault Refusal :=
  issue y s fun v => intRR v s d a b noAff (onPatterns Nat.xor)

/-- a AND NOT b on patterns. -/
def andNot (x z : Nat) : Nat := Nat.xor x (Nat.land x z)

/-- ANDN (07 R164). -/
def execAndn (y : Bool) (d : BitVec 7) (a b : BitVec 9) (s : State) : Host.Outcome State Fault Refusal :=
  issue y s fun v => intRR v s d a b noAff (onPatterns andNot)

/-- An I-format integer instruction (07 R163). -/
def intRI (v : View) (s : State) (d : BitVec 7) (a i : BitVec 9) (aff : Aff → Aff → Aff)
    (f : Word → Int → Int → Int) : Except Stop State :=
  let m := v.mode
  let ua := intUse m a .a
  let x := v.read ua none
  let z := immOpnd i m
  pipe v s { uses := [ua], d := some (dUse d (intRegs m) false) } d true okay okay [x] v.active
    (.ok (intResult m [x] (aff x.aff z.aff) fun l => f m (intVal m (x.lane l)) (intVal m (z.lane l))))

/-- IADDI (07 R163). -/
def execIaddi (y : Bool) (d : BitVec 7) (a i : BitVec 9) (s : State) : Host.Outcome State Fault Refusal :=
  issue y s fun v => intRI v s d a i (Aff.add false) fun m x z => fitInt m (x + z)

/-- ANDI (07 R163). -/
def execAndi (y : Bool) (d : BitVec 7) (a i : BitVec 9) (s : State) : Host.Outcome State Fault Refusal :=
  issue y s fun v => intRI v s d a i noAff (onPatterns Nat.land)

/-- ORI (07 R163). -/
def execOri (y : Bool) (d : BitVec 7) (a i : BitVec 9) (s : State) : Host.Outcome State Fault Refusal :=
  issue y s fun v => intRI v s d a i noAff (onPatterns Nat.lor)

/-- XORI (07 R163). -/
def execXori (y : Bool) (d : BitVec 7) (a i : BitVec 9) (s : State) : Host.Outcome State Fault Refusal :=
  issue y s fun v => intRI v s d a i noAff (onPatterns Nat.xor)

/-! ### Shifts (07 R165, R166) -/

/-- A value shifted left by an amount: an exact multiple, fitted.  An amount beyond every width gives what
the width gives, so that the power stays small. -/
def shlInt (m : Word) (x : Int) (n : Nat) : Int := fitInt m (x * (2 ^ min n 128 : Nat))

/-- A value shifted right: arithmetic for signed types, logical for unsigned. -/
def shrInt (x : Int) (n : Nat) : Int := x / (2 ^ min n 128 : Nat)

/-- A shift by a 32-bit amount. -/
def shiftRR (v : View) (s : State) (d : BitVec 7) (a b : BitVec 9) (aff : Aff → Aff → Aff)
    (f : Word → Int → Nat → Int) : Except Stop State :=
  let m := v.mode
  let ua := intUse m a .a
  let ub := wordUse b .b
  let x := v.read ua none
  let z := v.read ub none
  pipe v s { uses := [ua, ub], d := some (dUse d (intRegs m) false) } d true okay okay [x, z] v.active
    (.ok (intResult m [x, z] (aff x.aff z.aff) fun l => f m (intVal m (x.lane l)) ((z.lane l).toNat % 2 ^ 32)))

/-- SHL (07 R165). -/
def execShl (y : Bool) (d : BitVec 7) (a b : BitVec 9) (s : State) : Host.Outcome State Fault Refusal :=
  issue y s fun v => shiftRR v s d a b Aff.shl shlInt

/-- SHR (07 R165). -/
def execShr (y : Bool) (d : BitVec 7) (a b : BitVec 9) (s : State) : Host.Outcome State Fault Refusal :=
  issue y s fun v => shiftRR v s d a b noAff fun _ x n => shrInt x n

/-- A shift by an immediate amount, ILL at or above w (06 R137, 07 R166). -/
def shiftRI (v : View) (s : State) (d : BitVec 7) (a : BitVec 9) (n : BitVec 6) (aff : Aff → Aff → Aff)
    (f : Word → Int → Nat → Int) : Except Stop State :=
  let m := v.mode
  let ua := intUse m a .a
  let x := v.read ua none
  pipe v s { uses := [ua], d := some (dUse d (intRegs m) false) } d true
    (need (decide (n.toNat < intWidth m)) illState) okay [x] v.active
    (.ok (intResult m [x] (aff x.aff (some (false, n.setWidth 32, 0))) fun l => f m (intVal m (x.lane l)) n.toNat))

/-- SHLI (07 R166). -/
def execShli (y : Bool) (d : BitVec 7) (a : BitVec 9) (n : BitVec 6) (s : State) : Host.Outcome State Fault Refusal :=
  issue y s fun v => shiftRI v s d a n Aff.shl shlInt

/-- SHRI (07 R166). -/
def execShri (y : Bool) (d : BitVec 7) (a : BitVec 9) (n : BitVec 6) (s : State) : Host.Outcome State Fault Refusal :=
  issue y s fun v => shiftRI v s d a n noAff fun _ x k => shrInt x k

/-- The w-bit value rotated left (07 R166). -/
def rotInt (m : Word) (x : Int) (n : Nat) : Int :=
  let w := intWidth m
  let p := ofInt w x
  ofPattern m ((p * 2 ^ n + p / 2 ^ (w - n)) % 2 ^ w)

/-- ROTI (07 R166). -/
def execRoti (y : Bool) (d : BitVec 7) (a : BitVec 9) (n : BitVec 6) (s : State) : Host.Outcome State Fault Refusal :=
  issue y s fun v => shiftRI v s d a n noAff rotInt

/-! ### Constants (07 R167) -/

/-- MOVW (07 R167). -/
def execMovw (y : Bool) (d : BitVec 7) (i : BitVec 18) (s : State) : Host.Outcome State Fault Refusal :=
  issue y s fun v =>
    pipe v s { uses := [], d := some (dUse d 1 false) } d true okay okay [] v.active
      (.ok (Result.narrow (Value.uni (i.signExtend 32) false)))

/-- MOVHI (07 R167). -/
def execMovhi (y : Bool) (d : BitVec 7) (i : BitVec 18) (s : State) : Host.Outcome State Fault Refusal :=
  issue y s fun v =>
    let w := v.readD d 1
    pipe v s { uses := [], d := some (dUse d 1 true) } d true okay okay [w] v.active
      (.ok (plainResult false [w] fun l => ((((w.lane l).setWidth 32 : Word) &&& 0x3FFF) ||| (i.setWidth 32 <<< 14)).setWidth 64))

/-! ### Compare and select (07 R168, R170) -/

/-- An integer compare of two operands. -/
def icmpWith (v : View) (s : State) (c : BitVec 4) (p : BitVec 3) (fm : Form) (x z : Opnd) (xs : List Opnd) :
    Except Stop State := do
  let m := v.mode
  v.check fm (decide (c.toNat ≤ 5)) okay okay
  needClean xs v.active
  let s1 := (s.lastUses v fm).writePred v p.toNat v.active fun l =>
    (intCond c.toNat (intVal m (x.lane l)) (intVal m (z.lane l))).getD false
  .ok (s1.retire v)

/-- ICMP (07 R168). -/
def execIcmp (y : Bool) (c : BitVec 4) (p : BitVec 3) (a b : BitVec 9) (s : State) : Host.Outcome State Fault Refusal :=
  issue y s fun v =>
    let ua := intUse v.mode a .a
    let ub := intUse v.mode b .b
    let x := v.read ua none
    let z := v.read ub none
    icmpWith v s c p { uses := [ua, ub], d := none } x z [x, z]

/-- ICMPI (07 R168). -/
def execIcmpi (y : Bool) (c : BitVec 4) (p : BitVec 3) (a i : BitVec 9) (s : State) : Host.Outcome State Fault Refusal :=
  issue y s fun v =>
    let ua := intUse v.mode a .a
    let x := v.read ua none
    icmpWith v s c p { uses := [ua], d := none } x (immOpnd i v.mode) [x]

/-- SEL (07 R170): the predicate is a G source. An inline constant gives its sign-extended integer under a float TYPE too
(DESIGN CHOICE, log 94). -/
def execSel (y : Bool) (d : BitVec 7) (a b : BitVec 9) (s : State) : Host.Outcome State Fault Refusal :=
  issue y s fun v =>
    let m := v.mode
    let ua := valUse m a .a
    let ub := valUse m b .b
    let x := v.read ua none
    let z := v.read ub none
    let p := v.fib.regs.preds.getD (modeCp m) 0
    let f := fun l => if p.getLsbD l then x.lane l else z.lane l
    pipe v s { uses := [ua, ub], d := some (dUse d (valRegs m) false) } d true okay okay [x, z] v.active
      (.ok (if valRegs m = 2 then Result.per64 f else Result.narrow (Value.per fun l => (f l).setWidth 32)))

/-! ### Unary operations (07 R171) -/

/-- An integer unary operation. -/
def intUnary (v : View) (s : State) (d : BitVec 7) (a : BitVec 9) (f : Word → Int → Int) : Except Stop State :=
  let m := v.mode
  let ua := intUse m a .a
  let x := v.read ua none
  pipe v s { uses := [ua], d := some (dUse d (intRegs m) false) } d true okay okay [x] v.active
    (.ok (intResult m [x] none fun l => f m (intVal m (x.lane l))))

/-- A function of the w-bit pattern that gives a pattern. -/
def onPattern (f : Nat → Nat → Nat) (m : Word) (x : Int) : Int :=
  ofPattern m (f (intWidth m) (ofInt (intWidth m) x) % 2 ^ intWidth m)

/-- The bits of a w-bit pattern, bit 0 first. -/
def bitsOf (w n : Nat) : List Bool := (List.range w).map n.testBit
/-- The number with given bits, bit 0 first. -/
def ofBits (bs : List Bool) : Nat := bs.foldr (fun b n => 2 * n + if b then 1 else 0) 0

/-- NOT (07 R171). -/
def execNot (y : Bool) (d : BitVec 7) (a : BitVec 9) (s : State) : Host.Outcome State Fault Refusal :=
  issue y s fun v => intUnary v s d a (onPattern fun w n => 2 ^ w - 1 - n)

/-- NEG (07 R171). -/
def execNeg (y : Bool) (d : BitVec 7) (a : BitVec 9) (s : State) : Host.Outcome State Fault Refusal :=
  issue y s fun v => intUnary v s d a fun m x => fitInt m (0 - x)

/-- ABS (07 R171). -/
def execAbs (y : Bool) (d : BitVec 7) (a : BitVec 9) (s : State) : Host.Outcome State Fault Refusal :=
  issue y s fun v => intUnary v s d a fun m x => fitInt m (x.natAbs : Int)

/-- CLZ (07 R171). -/
def execClz (y : Bool) (d : BitVec 7) (a : BitVec 9) (s : State) : Host.Outcome State Fault Refusal :=
  issue y s fun v => intUnary v s d a fun m x => ((intWidth m - bitLen (ofInt (intWidth m) x) : Nat) : Int)

/-- CTZ (07 R171). -/
def execCtz (y : Bool) (d : BitVec 7) (a : BitVec 9) (s : State) : Host.Outcome State Fault Refusal :=
  issue y s fun v => intUnary v s d a fun m x =>
    (((bitsOf (intWidth m) (ofInt (intWidth m) x)).takeWhile (! ·)).length : Int)

/-- POPC (07 R171). -/
def execPopc (y : Bool) (d : BitVec 7) (a : BitVec 9) (s : State) : Host.Outcome State Fault Refusal :=
  issue y s fun v => intUnary v s d a fun m x => ((bitsOf (intWidth m) (ofInt (intWidth m) x)).count true : Int)

/-- BREV (07 R171). -/
def execBrev (y : Bool) (d : BitVec 7) (a : BitVec 9) (s : State) : Host.Outcome State Fault Refusal :=
  issue y s fun v => intUnary v s d a (onPattern fun w n => ofBits (bitsOf w n).reverse)

/-- BSWAP (07 R171). -/
def execBswap (y : Bool) (d : BitVec 7) (a : BitVec 9) (s : State) : Host.Outcome State Fault Refusal :=
  issue y s fun v => intUnary v s d a (onPattern fun w n => leNat (bytesOfNat (w / 8) n).reverse)

/-- The low k bits, extended with their sign; as they are when w is below k. -/
def sextPat (k w n : Nat) : Nat := if w ≤ k then n else ofInt w (toSigned k (n % 2 ^ k))

/-- SEXTB (07 R171). -/
def execSextb (y : Bool) (d : BitVec 7) (a : BitVec 9) (s : State) : Host.Outcome State Fault Refusal :=
  issue y s fun v => intUnary v s d a (onPattern (sextPat 8))

/-- SEXTH (07 R171). -/
def execSexth (y : Bool) (d : BitVec 7) (a : BitVec 9) (s : State) : Host.Outcome State Fault Refusal :=
  issue y s fun v => intUnary v s d a (onPattern (sextPat 16))

/-- ZEXTB (07 R171). -/
def execZextb (y : Bool) (d : BitVec 7) (a : BitVec 9) (s : State) : Host.Outcome State Fault Refusal :=
  issue y s fun v => intUnary v s d a (onPattern fun _ n => n % 2 ^ 8)

/-- ZEXTH (07 R171). -/
def execZexth (y : Bool) (d : BitVec 7) (a : BitVec 9) (s : State) : Host.Outcome State Fault Refusal :=
  issue y s fun v => intUnary v s d a (onPattern fun _ n => n % 2 ^ 16)

/-! ### Bit fields (07 R172, R173) -/

/-- The position and the length that fits, of a field descriptor; none when there is no field. -/
def fieldOf (w : Nat) (b : DWord) : Option (Nat × Nat) :=
  let p := b.toNat % 256
  let l := b.toNat / 256 % 256
  if l = 0 ∨ w ≤ p then none else some (p, min l (w - p))

/-- The field that BFX extracts. -/
def bfxInt (m : Word) (x : Int) (b : DWord) : Int :=
  match fieldOf (intWidth m) b with
  | none => 0
  | some (p, l) =>
    let f := ofInt (intWidth m) x / 2 ^ p % 2 ^ l
    if intSigned m then toSigned l f else f

/-- The value into which BFI inserts. -/
def bfiInt (m : Word) (w x : Int) (b : DWord) : Int :=
  match fieldOf (intWidth m) b with
  | none => w
  | some (p, l) =>
    let n := ofInt (intWidth m) w
    ofPattern m (n - n / 2 ^ p % 2 ^ l * 2 ^ p + ofInt (intWidth m) x % 2 ^ l * 2 ^ p)

/-- BFX (07 R172). -/
def execBfx (y : Bool) (d : BitVec 7) (a b : BitVec 9) (s : State) : Host.Outcome State Fault Refusal :=
  issue y s fun v =>
    let m := v.mode
    let ua := intUse m a .a
    let ub := wordUse b .b
    let x := v.read ua none
    let z := v.read ub none
    pipe v s { uses := [ua, ub], d := some (dUse d (intRegs m) false) } d true okay okay [x, z] v.active
      (.ok (intResult m [x, z] none fun l => bfxInt m (intVal m (x.lane l)) (z.lane l)))

/-- BFI (07 R173). -/
def execBfi (y : Bool) (d : BitVec 7) (a b : BitVec 9) (s : State) : Host.Outcome State Fault Refusal :=
  issue y s fun v =>
    let m := v.mode
    let ua := intUse m a .a
    let ub := wordUse b .b
    let x := v.read ua none
    let z := v.read ub none
    let w := v.readD d (intRegs m)
    pipe v s { uses := [ua, ub], d := some (dUse d (intRegs m) true) } d true okay okay [x, z, w] v.active
      (.ok (intResult m [x, z, w] none fun l =>
        bfiInt m (intVal m (w.lane l)) (intVal m (x.lane l)) (z.lane l)))

end Sys2Proof.Machine
end

