-- ==== Sys2Proof/Machine/Lane.lean ====
section
/-! DEFINITION. Lane operations, shuffles and bit-column exchanges (07 R174 to R178, 04 R97). -/

namespace Sys2Proof.Machine

open Sys2Proof

/-- Bits of a value that a lane operation tests (07 R174). -/
def valBits (m : Word) : Nat :=
  match floatFmt m with
  | some f => f.width
  | none => intWidth m

/-- Whether a lane holds a nonzero value (07 R174). -/
def laneNonzero (m : Word) (x : Opnd) (l : Nat) : Bool := (x.lane l).toNat % 2 ^ valBits m != 0

/-- A uniform result of 32 bits, or of a pair, that reads a source (03 R67, R69). -/
def uniResult (x : Opnd) (wide : Bool) (r : DWord) : Result :=
  let gsrc := x.shape == .g
  if wide then Result.uni64 r gsrc else Result.narrow (Value.uni (r.setWidth 32) gsrc)

/-- A lane operation on a moved value that gives one 32-bit value, or with `wide` a pair. -/
def laneUni (v : View) (s : State) (d : BitVec 7) (a : BitVec 9) (wide : Bool) (f : Opnd → DWord) : Except Stop State :=
  let ua := valUse v.mode a .a
  let x := v.read ua none
  pipe v s { uses := [ua], d := some (dUse d (if wide then 2 else 1) false) } d true okay okay [x] v.active
    (.ok (uniResult x wide (f x)))

/-- The active lanes that hold a nonzero value. -/
def View.nonzeroLanes (v : View) (x : Opnd) : List Nat := (lanesOf v.active v.width).filter (laneNonzero v.mode x)

/-- BALLOT (07 R175). -/
def execBallot (y : Bool) (d : BitVec 7) (a : BitVec 9) (s : State) : Host.Outcome State Fault Refusal :=
  issue y s fun v => laneUni v s d a (v.width == 64) fun x =>
    maskOf v.width fun l => v.active.getLsbD l && laneNonzero v.mode x l

/-- ANYL (07 R175). -/
def execAnyl (y : Bool) (d : BitVec 7) (a : BitVec 9) (s : State) : Host.Outcome State Fault Refusal :=
  issue y s fun v => laneUni v s d a false fun x => if v.nonzeroLanes x = [] then 0 else 1

/-- ALLL (07 R175). -/
def execAlll (y : Bool) (d : BitVec 7) (a : BitVec 9) (s : State) : Host.Outcome State Fault Refusal :=
  issue y s fun v => laneUni v s d a false fun x =>
    if (lanesOf v.active v.width).all (laneNonzero v.mode x) then 1 else 0

/-- POPL (07 R175). -/
def execPopl (y : Bool) (d : BitVec 7) (a : BitVec 9) (s : State) : Host.Outcome State Fault Refusal :=
  issue y s fun v => laneUni v s d a false fun x => BitVec.ofNat 64 (v.nonzeroLanes x).length

/-- FIRSTL (07 R175). -/
def execFirstl (y : Bool) (d : BitVec 7) (a : BitVec 9) (s : State) : Host.Outcome State Fault Refusal :=
  issue y s fun v => laneUni v s d a false fun x =>
    match v.nonzeroLanes x with
    | l :: _ => BitVec.ofNat 64 l
    | [] => 0xFFFFFFFF

/-- The lowest active lane, or lane 0 (07 R175, R176). -/
def View.lowLane (v : View) : Nat := (lanesOf v.active v.width).headD 0

/-- READL (07 R175). An inline constant gives its sign-extended integer under a float TYPE too (DESIGN CHOICE, log 94). -/
def execReadl (y : Bool) (d : BitVec 7) (a : BitVec 9) (s : State) : Host.Outcome State Fault Refusal :=
  issue y s fun v => laneUni v s d a (valRegs v.mode == 2) fun x => x.lane v.lowLane

/-- The exact sum over lanes (07 R175). -/
def sumLanes (m : Word) (x : Opnd) (ls : List Nat) : Int := ls.foldl (fun t l => t + intVal m (x.lane l)) 0

/-- PSUMI (07 R175): always G. -/
def execPsumi (y : Bool) (d : BitVec 7) (a : BitVec 9) (s : State) : Host.Outcome State Fault Refusal :=
  issue y s fun v =>
    let m := v.mode
    let ua := intUse m a .a
    let x := v.read ua none
    let f := fun l => intBits m (fitInt m (sumLanes m x ((lanesOf v.active v.width).filter (· ≤ l))))
    pipe v s { uses := [ua], d := some (dUse d (intRegs m) false) } d true okay okay [x] v.active
      (.ok (if intRegs m = 2 then Result.per64 f else Result.narrow (Value.per fun l => (f l).setWidth 32)))

/-- RSUMI (07 R175). -/
def execRsumi (y : Bool) (d : BitVec 7) (a : BitVec 9) (s : State) : Host.Outcome State Fault Refusal :=
  issue y s fun v =>
    let m := v.mode
    let ua := intUse m a .a
    let x := v.read ua none
    pipe v s { uses := [ua], d := some (dUse d (intRegs m) false) } d true okay okay [x] v.active
      (.ok (uniResult x (intRegs m == 2) (intBits m (fitInt m (sumLanes m x (lanesOf v.active v.width))))))

/-- The extreme of float lanes, with the exceptions of the lanes (07 R175, R181). -/
def extremeF (f : Fmt) (mx : Bool) (x : Opnd) (ls : List Nat) : DWord :=
  match ls with
  | [] => infBits f mx
  | l :: more =>
    encodeF f (more.foldl (fun t k => decodeF f (minMaxF f mx t (decodeF f (x.lane k))).1) (decodeF f (x.lane l)))

/-- RMIN, and RMAX when `mx` (07 R175, R176). -/
def laneExtreme (v : View) (s : State) (mx : Bool) (d : BitVec 7) (a : BitVec 9) : Except Stop State :=
  let m := v.mode
  let ls := lanesOf v.active v.width
  match floatFmt m with
  | some f =>
    let ua := valUse m a .a
    let x := v.read ua (some f)
    pipe v s { uses := [ua], d := some (dUse d (valRegs m) false) } d true okay okay [x] v.active do
      v.math v.active fun l => if (decodeF f (x.lane l)).snan then excInv else 0
      .ok (uniResult x (valRegs m == 2) (extremeF f mx x ls))
  | none =>
    let ua := intUse m a .a
    let x := v.read ua none
    let r := if mx then ls.foldl (fun t l => max t (intVal m (x.lane l))) (intMin m)
             else ls.foldl (fun t l => min t (intVal m (x.lane l))) (intMax m)
    pipe v s { uses := [ua], d := some (dUse d (intRegs m) false) } d true okay okay [x] v.active
      (.ok (uniResult x (intRegs m == 2) (intBits m r)))

/-- RMIN (07 R175). -/
def execRmin (y : Bool) (d : BitVec 7) (a : BitVec 9) (s : State) : Host.Outcome State Fault Refusal :=
  issue y s fun v => laneExtreme v s false d a

/-- RMAX (07 R175). -/
def execRmax (y : Bool) (d : BitVec 7) (a : BitVec 9) (s : State) : Host.Outcome State Fault Refusal :=
  issue y s fun v => laneExtreme v s true d a

/-! ### Float sums over lanes (04 R97) -/

/-- Two results added, the exceptions collected. -/
def addNode (f : Fmt) (r : Rnd) (a b : FRes) : FRes :=
  let c := addF f r (decodeF f a.1) (decodeF f b.1)
  (c.1, a.2 ||| b.2 ||| c.2)

/-- A leaf by itself: a NaN is canonical, and a signalling one is invalid (04 R82, R83). -/
def leafF (f : Fmt) (x : DWord) : FRes :=
  match decodeF f x with
  | .nan s => nanF f s
  | _ => (x, 0)

/-- Node S(k, i) of the tree over lanes (04 R97). -/
def treeNode (f : Fmt) (r : Rnd) (leaf : Nat → DWord) : Nat → Nat → FRes
  | 0, i => leafF f (leaf i)
  | k + 1, i => addNode f r (treeNode f r leaf k (2 * i)) (treeNode f r leaf k (2 * i + 1))

/-- The nodes that cover lanes `from` to `from + n − 1`, `n` below 2^k, in ascending lane order: level and number. -/
def coverNodes : Nat → Nat → Nat → List (Nat × Nat)
  | 0, _, _ => []
  | k + 1, start, n =>
    if n.testBit k then (k, start / 2 ^ k) :: coverNodes k (start + 2 ^ k) n else coverNodes k start n

/-- The prefix sum of a lane (04 R97). -/
def prefixNode (f : Fmt) (r : Rnd) (leaf : Nat → DWord) (l : Nat) : FRes :=
  match coverNodes 7 0 (l + 1) with
  | [] => (0, 0)
  | (k, i) :: more =>
    more.foldl (fun t p => addNode f r t (treeNode f r leaf p.1 p.2)) (treeNode f r leaf k i)

/-- The leaves: the source in active lanes, +0 in others. -/
def View.leaves (v : View) (x : Opnd) (f : Fmt) (l : Nat) : DWord :=
  if v.active.getLsbD l then BitVec.ofNat 64 ((x.lane l).toNat % 2 ^ f.width) else 0

/-- RSUMF, and PSUMF when `pre` (07 R175, R176, 04 R97).  DEDUCED: the tree of a `PSUMF`, for its exceptions, holds the
nodes of the prefixes of the active lanes (log 84). -/
def laneSumF (v : View) (s : State) (pre : Bool) (d : BitVec 7) (a : BitVec 9) : Except Stop State :=
  let m := v.mode
  let f := (floatFmt m).getD .f32
  let r := Rnd.ofCode (modeRnd m)
  let ua := valUse m a .a
  let x := v.read ua (some f)
  let leaf := v.leaves x f
  let all := treeNode f r leaf v.width.log2 0
  let lane := fun l => prefixNode f r leaf l
  let exc := if pre then (lanesOf v.active v.width).foldl (fun e l => e ||| (lane l).2) 0 else all.2
  let g := fun l => (lane l).1
  pipe v s { uses := [ua], d := some (dUse d (valRegs m) false) } d true
    (need (floatFmt m).isSome illState) okay [x] v.active do
    v.math v.active fun _ => exc
    .ok (if pre then
        (if valRegs m = 2 then Result.per64 g else Result.narrow (Value.per fun l => (g l).setWidth 32))
      else uniResult x (valRegs m == 2) all.1)

/-- PSUMF (07 R175). -/
def execPsumf (y : Bool) (d : BitVec 7) (a : BitVec 9) (s : State) : Host.Outcome State Fault Refusal :=
  issue y s fun v => laneSumF v s true d a

/-- RSUMF (07 R175). -/
def execRsumf (y : Bool) (d : BitVec 7) (a : BitVec 9) (s : State) : Host.Outcome State Fault Refusal :=
  issue y s fun v => laneSumF v s false d a

/-! ### Shuffles (07 R177) -/

/-- SHUF (07 R177). An inline constant gives its sign-extended integer under a float TYPE too (DESIGN CHOICE, log 94). -/
def execShuf (y : Bool) (d : BitVec 7) (a b : BitVec 9) (s : State) : Host.Outcome State Fault Refusal :=
  issue y s fun v => do
    let m := v.mode
    let ua := valUse m a .a
    let ub := wordUse b .b
    let x := v.read ua none
    let z := v.read ub none
    let src := fun l => (z.lane l).toNat % v.width
    let fm : Form := { uses := [ua, ub], d := some (dUse d (valRegs m) false) }
    v.check fm true okay okay
    needClean [z] v.active
    needClean [x] (maskOf v.width fun q => (lanesOf v.active v.width).any fun l => src l == q)
    s.finish v fm d (plainResult (valRegs m == 2) [x, z] fun l => x.lane (src l))

/-! ### Bit-column exchange (07 R178) -/

/-- One lane of BFLYX. -/
def bflyx (j l : Nat) (mask own other : Word) : Word :=
  if l &&& j = 0 then (own &&& mask) ||| ((if j < 32 then other <<< j else 0) &&& ~~~mask)
  else (own &&& ~~~mask) ||| ((if j < 32 then other >>> j else 0) &&& mask)

/-- BFLYX (07 R178).  An immediate that is no power of two is an ILL of the word; one that W does not admit is an ILL of the
issue state (log 41). -/
def execBflyx (y : Bool) (d : BitVec 7) (a j : BitVec 9) (s : State) : Host.Outcome State Fault Refusal :=
  issue y s fun v => do
    let ua := wordUse a .a
    let x := v.read ua none
    let w := v.readD d 1
    let k := j.toNat
    let fm : Form := { uses := [ua], d := some (dUse d 1 true) }
    v.check fm ((List.range 6).any fun e => k == 2 ^ e) (need (decide (k < v.width)) illState) do
      needU x a
      need (w.shape == .g) (shapeTrap (dField d))
    needClean [x] v.active
    needClean [w] (v.active ||| maskOf v.width fun q => v.active.getLsbD (q ^^^ k))
    let mask : Word := (x.lane 0).setWidth 32
    s.finish v fm d (Result.narrow (Value.per fun l =>
      bflyx k l mask ((w.lane l).setWidth 32) ((w.lane (l ^^^ k)).setWidth 32)))

end Sys2Proof.Machine
end

