-- ==== Sys2Proof/Machine/FloatInstr.lean ====
section
/-! DEFINITION. Float arithmetic, compare and unary functions (07 R169, R179 to R185). -/

namespace Sys2Proof.Machine

open Sys2Proof

/-- A float operand's field. -/
def fltUse (m : Word) (f : BitVec 9) (p : Pos) : Use := { field := f, pos := p, n := fltRegs m, fixed := false }

/-- A trap of the result of an evaluation whose retry has passed: the retry counts all the same (17 R366). -/
def View.afterRetry (v : View) (s : State) (x : Except Stop State) : Except Stop State :=
  match x with
  | .error (.trap t) => if v.core.shadow = 0 then .error (.trap t) else .ok ((s.shadowPassed v).takeTrap v t)
  | y => y

/-- The end of a float instruction: SHADOW, MATH, the result (04 R83, 17 R366).  `f` is the result of a lane; `up` is
what it does to the state beside its result. -/
def fltFinish (v : View) (s : State) (up : State → State) (fm : Form) (d : BitVec 7) (wide : Bool) (xs : List Opnd)
    (f : Nat → FRes) : Except Stop State := do
  v.shadow
  v.afterRetry s do
    v.math v.active fun l => (f l).2
    (up (s.shadowPassed v)).finish v fm d (plainResult wide xs fun l => (f l).1)

/-- A float instruction on sources A and B, and on D when `reads` (07 R179, R180). -/
def fltRR (v : View) (s : State) (d : BitVec 7) (a b : BitVec 9) (reads : Bool)
    (op : Fmt → Rnd → FVal → FVal → FVal → FRes) : Except Stop State := do
  let m := v.mode
  let f := (floatFmt m).getD .f32
  let ua := fltUse m a .a
  let ub := fltUse m b .b
  let x := v.read ua (some f)
  let z := v.read ub (some f)
  let w := if reads then v.readD d (fltRegs m) else Opnd.uni 0
  let fm : Form := { uses := [ua, ub], d := some (dUse d (fltRegs m) reads) }
  v.check fm true (need (floatFmt m).isSome illState) okay
  needClean [x, z, w] v.active
  fltFinish v s id fm d (fltRegs m == 2) [x, z, w] fun l =>
    op f (Rnd.ofCode (modeRnd m)) (decodeF f (w.lane l)) (decodeF f (x.lane l)) (decodeF f (z.lane l))

/-- FADD (07 R180). -/
def execFadd (y : Bool) (d : BitVec 7) (a b : BitVec 9) (s : State) : Host.Outcome State Fault Refusal :=
  issue y s fun v => fltRR v s d a b false fun f r _ x z => addF f r x z

/-- FSUB (07 R180). -/
def execFsub (y : Bool) (d : BitVec 7) (a b : BitVec 9) (s : State) : Host.Outcome State Fault Refusal :=
  issue y s fun v => fltRR v s d a b false fun f r _ x z => addF f r x z.negate

/-- FMUL (07 R180). -/
def execFmul (y : Bool) (d : BitVec 7) (a b : BitVec 9) (s : State) : Host.Outcome State Fault Refusal :=
  issue y s fun v => fltRR v s d a b false fun f r _ x z => mulF f r x z

/-- FMA (07 R180). -/
def execFma (y : Bool) (d : BitVec 7) (a b : BitVec 9) (s : State) : Host.Outcome State Fault Refusal :=
  issue y s fun v => fltRR v s d a b true fun f r w x z => fmaF f r w x z

/-- FDIV (07 R180). -/
def execFdiv (y : Bool) (d : BitVec 7) (a b : BitVec 9) (s : State) : Host.Outcome State Fault Refusal :=
  issue y s fun v => fltRR v s d a b false fun f r _ x z => divF f r x z

/-- FMIN (07 R181). -/
def execFmin (y : Bool) (d : BitVec 7) (a b : BitVec 9) (s : State) : Host.Outcome State Fault Refusal :=
  issue y s fun v => fltRR v s d a b false fun f _ _ x z => minMaxF f false x z

/-- FMAX (07 R181). -/
def execFmax (y : Bool) (d : BitVec 7) (a b : BitVec 9) (s : State) : Host.Outcome State Fault Refusal :=
  issue y s fun v => fltRR v s d a b false fun f _ _ x z => minMaxF f true x z

/-- FCMP (07 R169): a predicate is no result of a float unit, and its shadow does not check it (DEDUCED, log 43). -/
def execFcmp (y : Bool) (c : BitVec 4) (p : BitVec 3) (a b : BitVec 9) (s : State) : Host.Outcome State Fault Refusal :=
  issue y s fun v => do
    let m := v.mode
    let f := (floatFmt m).getD .f32
    let ua := fltUse m a .a
    let ub := fltUse m b .b
    let x := v.read ua (some f)
    let z := v.read ub (some f)
    let fm : Form := { uses := [ua, ub], d := none }
    v.check fm (decide (c.toNat ≤ 11)) (need (floatFmt m).isSome illState) okay
    needClean [x, z] v.active
    v.math v.active fun l => fltCondExc c.toNat (decodeF f (x.lane l)) (decodeF f (z.lane l))
    let s1 := (s.lastUses v fm).writePred v p.toNat v.active fun l =>
      (fltCond c.toNat (decodeF f (x.lane l)) (decodeF f (z.lane l))).getD false
    .ok (s1.retire v)

/-- A float unary function; `no64` where f64 is ILL (07 R182). -/
def fltUnary (v : View) (s : State) (d : BitVec 7) (a : BitVec 9) (no64 : Bool)
    (op : Fmt → Rnd → FVal → FRes) : Except Stop State := do
  let m := v.mode
  let f := (floatFmt m).getD .f32
  let ua := fltUse m a .a
  let x := v.read ua (some f)
  let fm : Form := { uses := [ua], d := some (dUse d (fltRegs m) false) }
  v.check fm true (need ((floatFmt m).isSome && !(no64 && f == .f64)) illState) okay
  needClean [x] v.active
  fltFinish v s id fm d (fltRegs m == 2) [x] fun l => op f (Rnd.ofCode (modeRnd m)) (decodeF f (x.lane l))

/-- The rounding of FSQRT and FRCP: MODE.RND under f64, RNE otherwise (07 R183). -/
def rootRnd (f : Fmt) (r : Rnd) : Rnd := if f = .f64 then r else .rne

/-- A sign change: exact, a NaN canonical (07 R182). -/
def signF (f : Fmt) (set : Bool → Bool) (x : FVal) : FRes :=
  match x with
  | .nan s => nanF f s
  | .inf n => (infBits f (set n), 0)
  | .fin n m e => (encodeF f (.fin (set n) m e), 0)

/-- FNEG (07 R182). -/
def execFneg (y : Bool) (d : BitVec 7) (a : BitVec 9) (s : State) : Host.Outcome State Fault Refusal :=
  issue y s fun v => fltUnary v s d a false fun f _ x => signF f (!·) x

/-- FABS (07 R182). -/
def execFabs (y : Bool) (d : BitVec 7) (a : BitVec 9) (s : State) : Host.Outcome State Fault Refusal :=
  issue y s fun v => fltUnary v s d a false fun f _ x => signF f (fun _ => false) x

/-- FSQRT (07 R183, R184). -/
def execFsqrt (y : Bool) (d : BitVec 7) (a : BitVec 9) (s : State) : Host.Outcome State Fault Refusal :=
  issue y s fun v => fltUnary v s d a false fun f r x => sqrtF f (rootRnd f r) x

/-- FRCP (07 R183, R184). -/
def execFrcp (y : Bool) (d : BitVec 7) (a : BitVec 9) (s : State) : Host.Outcome State Fault Refusal :=
  issue y s fun v => fltUnary v s d a false fun f r x => rcpF f (rootRnd f r) x

/-- FRSQ (07 R183, R184). -/
def execFrsq (y : Bool) (d : BitVec 7) (a : BitVec 9) (s : State) : Host.Outcome State Fault Refusal :=
  issue y s fun v => fltUnary v s d a true fun f _ x => rsqF f x

/-- FEXP2 (07 R183, R184). -/
def execFexp2 (y : Bool) (d : BitVec 7) (a : BitVec 9) (s : State) : Host.Outcome State Fault Refusal :=
  issue y s fun v => fltUnary v s d a true fun f _ x => exp2F f x

/-- FLOG2 (07 R183, R184). -/
def execFlog2 (y : Bool) (d : BitVec 7) (a : BitVec 9) (s : State) : Host.Outcome State Fault Refusal :=
  issue y s fun v => fltUnary v s d a true fun f _ x => log2F f x

/-- FSINP (07 R183, R184). -/
def execFsinp (y : Bool) (d : BitVec 7) (a : BitVec 9) (s : State) : Host.Outcome State Fault Refusal :=
  issue y s fun v => fltUnary v s d a true fun f _ x => sinpF f x

/-- FCOSP (07 R183, R184). -/
def execFcosp (y : Bool) (d : BitVec 7) (a : BitVec 9) (s : State) : Host.Outcome State Fault Refusal :=
  issue y s fun v => fltUnary v s d a true fun f _ x => cospF f x

/-- FFLOOR (07 R183, R184). -/
def execFfloor (y : Bool) (d : BitVec 7) (a : BitVec 9) (s : State) : Host.Outcome State Fault Refusal :=
  issue y s fun v => fltUnary v s d a false fun f _ x => integralF f .rd true x

/-- FCEIL (07 R183, R184). -/
def execFceil (y : Bool) (d : BitVec 7) (a : BitVec 9) (s : State) : Host.Outcome State Fault Refusal :=
  issue y s fun v => fltUnary v s d a false fun f _ x => integralF f .ru true x

/-- FTRUNC (07 R183, R184). -/
def execFtrunc (y : Bool) (d : BitVec 7) (a : BitVec 9) (s : State) : Host.Outcome State Fault Refusal :=
  issue y s fun v => fltUnary v s d a false fun f _ x => integralF f .rz true x

/-- FRINT (07 R183, R184). -/
def execFrint (y : Bool) (d : BitVec 7) (a : BitVec 9) (s : State) : Host.Outcome State Fault Refusal :=
  issue y s fun v => fltUnary v s d a false fun f r x => integralF f r false x

/-- FCLASS (07 R185): one register under every format, and no exception; its mask is no float number, and the shadow does not
check it (DEDUCED, log 43). -/
def execFclass (y : Bool) (d : BitVec 7) (a : BitVec 9) (s : State) : Host.Outcome State Fault Refusal :=
  issue y s fun v =>
    let m := v.mode
    let f := (floatFmt m).getD .f32
    let ua := fltUse m a .a
    let x := v.read ua (some f)
    pipe v s { uses := [ua], d := some (dUse d 1 false) } d true (need (floatFmt m).isSome illState) okay [x] v.active
      (.ok (plainResult false [x] fun l => BitVec.ofNat 64 (classF f (decodeF f (x.lane l)))))

end Sys2Proof.Machine
end

