-- ==== Sys2Proof/Machine/Cvt.lean ====
section
/-! DEFINITION. Quasi-random draws and conversions (07 R186 to R193, 04 R85 to R95). -/

namespace Sys2Proof.Machine

open Sys2Proof

/-! ### Quasi-random draws (07 R192, 11 R298) -/

/-- The parity of the bits of a number. -/
def parity (n : Nat) : Bool := (bitsOf 32 n).count true % 2 == 1

/-- Word `i` of dimension `d` of a table (11 R298). -/
def tableWord (t : List Byte) (d i : Nat) : Nat := leAt t (260 * d + 4 * i) 4

/-- The draw for an index in a dimension (07 R192). -/
def draw (t : List Byte) (n d : Nat) : Nat :=
  let g := n ^^^ (n / 2)
  let x := (List.range 32).foldl (fun x i => if g.testBit i then x ^^^ tableWord t d i else x) 0
  let y := (List.range 32).foldl (fun y r =>
    let row := tableWord t d (32 + r) / 2 ^ (31 - r) * 2 ^ (31 - r)
    if parity (row &&& x) then y + 2 ^ (31 - r) else y) 0
  tableWord t d 64 ^^^ y

/-- The bytes of a fibre's current table; no byte for the all-zero table (07 R192, 11 R299). -/
def View.table (v : View) : List Byte :=
  match v.fib.spec.table with
  | some t => ((kget v.res.qslots t.slot).map (·.bytes)).getD []
  | none => []

/-- Whether a table load of the fibre is still to return (11 R299). -/
def View.tableBusy (v : View) : Bool :=
  v.core.ops.any fun p => !p.2.done && p.2.res == v.who.res && p.2.slot == v.who.slot &&
    (match p.2.body with | .tableLoad _ _ _ => true | _ => false)

/-- The draw of a conversion for a lane (04 R87). -/
def View.cvtDraw (v : View) (l : Nat) : Nat :=
  draw v.table ((v.fib.spec.rcnt.toNat * v.width + l) % 2 ^ 32) 31

/-- RCNT advances by one (04 R88). -/
def State.rcntUp (s : State) (v : View) : State :=
  s.onFibre v fun f => { f with spec := { f.spec with rcnt := f.spec.rcnt + 1 } }

/-- QRND (07 R192). -/
def execQrnd (y : Bool) (d : BitVec 7) (a b : BitVec 9) (s : State) : Host.Outcome State Fault Refusal :=
  issue y s fun v => do
    let ua := wordUse a .a
    let ub := wordUse b .b
    let x := v.read ua none
    let z := v.read ub none
    let ty := modeType v.mode
    let fm : Form := { uses := [ua, ub], d := some (dUse d 1 false) }
    v.check fm true (need (!(ty == 8 || ty == 9 || ty == 11)) illState) okay
    need (!v.tableBusy) .stall
    needClean [x, z] v.active
    s.finish v fm d (plainResult false [x, z] fun l =>
      let u := draw v.table (x.lane l).toNat ((z.lane l).toNat % 32)
      if ty = 10 then (roundF .f32 .rne false (u / 256) (-24) false).1 else BitVec.ofNat 64 u)

/-! ### Conversion targets and sources (07 R186, R187) -/

/-- The format of a type code. -/
def fmtOfType : Nat → Option Fmt
  | 8 => some .f16 | 9 => some .bf16 | 10 => some .f32 | 11 => some .f64 | _ => none

/-- Bits of an integer type code. -/
def intTypeBits : Nat → Nat
  | 0 => 8 | 4 => 8 | 1 => 16 | 5 => 16 | 3 => 64 | 7 => 64 | _ => 32

/-- Whether an integer type code is signed. -/
def intTypeSigned (t : Nat) : Bool := decide (t ≤ 3)

/-- Registers of a type code. -/
def typeRegs (t : Nat) : Nat := if t = 3 ∨ t = 7 ∨ t = 11 then 2 else 1

/-- Rounding of a conversion: a mode, or stochastic (06 R148, 04 R85). -/
inductive CvtRnd where
  | mode (r : Rnd)
  | sr
  deriving DecidableEq, Repr

/-- The rounding field of CVT (06 R148). -/
def CvtRnd.ofField (r m : Nat) : CvtRnd := if r = 0 then .mode (Rnd.ofCode m) else if r = 6 then .sr else .mode (Rnd.ofCode (r - 1))

/-- Whether a cut goes up. -/
def CvtRnd.up (r : CvtRnd) (neg : Bool) (u : Nat) (c : Cut) : Bool :=
  match r with
  | .mode k => c.up k neg false
  | .sr => c.drawUp u

/-- What an overflow delivers. -/
def CvtRnd.over (r : CvtRnd) (f : Fmt) (neg : Bool) : DWord :=
  match r with
  | .mode k => overflowBits f k neg
  | .sr => infBits f neg

/-- The bits of an integer of a type: cut, and extended to the lane (04 R78, R79). -/
def typeBits (t : Nat) (n : Nat) : DWord :=
  let b := intTypeBits t
  let p := n % 2 ^ b
  if b = 64 then BitVec.ofNat 64 p
  else (BitVec.ofInt 32 (if intTypeSigned t then toSigned b p else (p : Int))).setWidth 64

/-- The ends of a type's range. -/
def typeMin (t : Nat) : Int := if intTypeSigned t then -(2 ^ (intTypeBits t - 1) : Int) else 0
def typeMax (t : Nat) : Int := if intTypeSigned t then 2 ^ (intTypeBits t - 1) - 1 else 2 ^ intTypeBits t - 1

/-- An exact finite number into a float format (04 R84 to R87). -/
def finToFloat (f : Fmt) (r : CvtRnd) (sat : Bool) (u : Nat) (neg : Bool) (m : Nat) (e : Int) : FRes :=
  let c := cutAt m e f.qmin
  if (f == .f16 || f == .bf16) && m != 0 && c.m == 0 then
    (if c.drawUp u then BitVec.ofNat 64 (signBits f neg + 1) else zeroBits f neg, excUnf ||| excInx)
  else
    roundBy f (r.up neg u) (if sat then maxBits f neg else r.over f neg) neg m e false

/-- A float value into a float format (07 R187).  DEDUCED: under SAT an infinity gives ± the largest finite value into
every float format, the same and a wider one too (04 R85; log 85). -/
def floatToFloat (f : Fmt) (r : CvtRnd) (sat : Bool) (u : Nat) (x : FVal) : FRes :=
  match x with
  | .nan s => nanF f s
  | .inf n => (if sat then maxBits f n else infBits f n, 0)
  | .fin n m e => finToFloat f r sat u n m e

/-- A float value rounded to an integer in a range; `lo` and `hi` its ends (07 R187). -/
def floatToRange (r : CvtRnd) (u : Nat) (lo hi : Int) (x : FVal) : Int × Exc :=
  match x with
  | .nan _ => (0, excInv)
  | .inf n => (if n then lo else hi, excInv)
  | .fin n m e =>
    let c := cutAt m e 0
    let k := c.m + if r.up n u c then 1 else 0
    let i : Int := if n then -(k : Int) else k
    if i < lo then (lo, excInv) else if hi < i then (hi, excInv)
    else (i, if c.rem ≠ 0 then excInx else 0)

/-- A float value into a plane byte (07 R187, 04 R86). -/
def floatToPlane (r : CvtRnd) (u : Nat) (x : FVal) : Int × Exc :=
  match x with
  | .fin n m e =>
    let c := cutAt m e 0
    if m ≠ 0 ∧ c.m = 0 then (if c.drawUp u then (if n then -1 else 1) else 0, excUnf ||| excInx)
    else floatToRange r u (-128) 127 (.fin n m e)
  | y => floatToRange r u (-128) 127 y

/-- A plane byte in a lane (07 R186). -/
def planeBits (i : Int) : DWord := BitVec.ofNat 64 (ofInt 8 i)

/-- The raw bits of a source lane at its own width (07 R187). -/
def rawBits (src : Nat) (x : DWord) : Nat :=
  if src = 8 ∨ src = 9 then x.toNat % 2 ^ 16 else if typeRegs src = 2 then x.toNat else x.toNat % 2 ^ 32

/-- Raw bits in a destination (07 R187). -/
def rawInto (dst n : Nat) : DWord :=
  if dst = 13 then BitVec.ofNat 64 (n % 2 ^ 8)
  else if dst = 8 ∨ dst = 9 then BitVec.ofNat 64 (n % 2 ^ 16)
  else if dst < 8 then typeBits dst n
  else if dst = 11 then BitVec.ofNat 64 n
  else BitVec.ofNat 64 (n % 2 ^ 32)

/-- One lane of a conversion (07 R187). -/
def cvtLane (src dst : Nat) (r : CvtRnd) (sat : Bool) (u : Nat) (x : DWord) : FRes :=
  if src = 12 ∨ dst = 12 then (rawInto dst (rawBits src x), 0)
  else
    match fmtOfType src, fmtOfType dst with
    | some g, some f => floatToFloat f r sat u (decodeF g x)
    | some g, none =>
      if dst = 13 then let (i, e) := floatToPlane r u (decodeF g x); (planeBits i, e)
      else let (i, e) := floatToRange r u (typeMin dst) (typeMax dst) (decodeF g x); (typeBits dst (ofInt 64 i), e)
    | none, some f =>
      let p := x.toNat % 2 ^ intTypeBits src
      let i : Int := if intTypeSigned src then toSigned (intTypeBits src) p else p
      finToFloat f r sat u (decide (i < 0)) i.natAbs 0
    | none, none =>
      let p := x.toNat % 2 ^ intTypeBits src
      let i : Int := if intTypeSigned src then toSigned (intTypeBits src) p else p
      if dst = 13 then (planeBits (max (-128) (min i 127)), 0)
      else (typeBits dst (ofInt 64 (if sat then max (typeMin dst) (min i (typeMax dst)) else i)), 0)

/-- CVT (07 R186, R187, R189).  DEDUCED: a float unit computes each result that is a float number, and its shadow
checks it; conversions to integers and planes and raw copies have none (log 43).  Destination W with a rounding or SAT that 07 R188 refuses is ILL. -/
def execCvt (y : Bool) (d : BitVec 7) (a : BitVec 9) (t : BitVec 4) (r : BitVec 3) (q : BitVec 1) (s : State) :
    Host.Outcome State Fault Refusal :=
  issue y s fun v => do
    let m := v.mode
    let src := modeType m
    let dst := t.toNat
    let rnd := CvtRnd.ofField r.toNat (modeRnd m)
    let ua := valUse m a .a
    let x := v.read ua (floatFmt m)
    let fm : Form := { uses := [ua], d := some { dUse d (typeRegs dst) false with fixed := true } }
    v.check fm (decide (dst ≤ 13) && r != 7) okay okay
    need (!v.tableBusy) .stall
    needClean [x] v.active
    let lane := fun l => cvtLane src dst rnd (q == 1) (v.cvtDraw (if x.shape = .u then 0 else l)) (x.lane l)
    let counts := dst == 8 || dst == 9 || dst == 13 || rnd == .sr
    let up := fun (s : State) => if counts then s.rcntUp v else s
    if (fmtOfType dst).isSome && src != 12 then
      fltFinish v s up fm d (typeRegs dst == 2) [x] lane
    else do
      v.math v.active fun l => (lane l).2
      (up s).finish v fm d (plainResult (typeRegs dst == 2) [x] fun l => (lane l).1)

/-! ### Collecting a wide cell (07 R188, 04 R93 to R95) -/

/-- The f32 value of a wide cell under an exponent (04 R95). -/
def collect (cell : Nat) (e : Int) : FRes :=
  if e < -160 ∨ 0 < e then invalidF .f32
  else if cell.testBit 127 || (cell.testBit 126 && cell.testBit 125) then (nanBits .f32, 0)
  else if cell.testBit 126 then (infBits .f32 false, 0)
  else if cell.testBit 125 then (infBits .f32 true, 0)
  else if cell.testBit 124 then (0x7FC00001, 0)
  else
    let n := toSigned 124 (cell % 2 ^ 124)
    roundF .f32 .rne (decide (n < 0)) n.natAbs e false

/-- The four registers of a quad, read one by one (03 R57). -/
def View.readQuad (v : View) (src : Src) : List Opnd :=
  (src.regs 4).map fun r => Opnd.ofReg (v.reg r) v.width

/-- A quad's lane as a number. -/
def quadLane (xs : List Opnd) (l : Nat) : Nat :=
  xs.foldr (fun x n => n * 2 ^ 32 + (x.lane l).toNat) 0

/-- CVT.w (07 R188). -/
def execCvtW (y : Bool) (d : BitVec 7) (a : BitVec 9) (_r : BitVec 1) (s : State) : Host.Outcome State Fault Refusal :=
  issue y s fun v => do
    let ua : Use := { field := a, pos := .a, n := 4, fixed := true }
    let xs := v.readQuad (v.srcOf ua)
    let w := v.readD d 1
    let fm : Form := { uses := [ua], d := some (dUse d 1 true) }
    v.check fm true okay okay
    needClean (w :: xs) v.active
    fltFinish v s id fm d false (w :: xs) fun l => collect (quadLane xs l) (toSigned 32 (w.lane l).toNat)

end Sys2Proof.Machine
end

