-- ==== Sys2Proof/Machine/Special.lean ====
section
/-! DEFINITION. Moves, special registers, and draft-tree masks (07 R190, R191, 10 R268, R269). -/

namespace Sys2Proof.Machine

open Sys2Proof

/-! ### Moves (07 R190) -/

/-- A 32-bit operand copied with its shape (03 R66). -/
def Opnd.copy (x : Opnd) : Value :=
  match x.shape with
  | .u => Value.uni x.base false
  | .a => Value.aff x.base x.stride
  | .g => Value.per fun l => (x.lane l).setWidth 32

/-- MOV (07 R190): the source's shape, a pair being U or G. An inline constant is moved as its sign-extended integer under
a float type too (DESIGN CHOICE, log 94). -/
def execMov (y : Bool) (d : BitVec 7) (a : BitVec 9) (s : State) : Host.Outcome State Fault Refusal :=
  issue y s fun v =>
    let m := v.mode
    let ua := valUse m a .a
    let x := v.read ua none
    pipe v s { uses := [ua], d := some (dUse d (valRegs m) false) } d true okay okay [x] v.active
      (.ok (if valRegs m = 2 then plainResult true [x] x.lane else Result.narrow x.copy))

/-- A special register of 32 bits into D (07 R190). -/
def getWord (v : View) (s : State) (d : BitVec 7) (x : Word) : Except Stop State :=
  pipe v s { uses := [], d := some { dUse d 1 false with fixed := true } } d true okay okay [] v.active
    (.ok (Result.narrow (Value.uni x false)))

/-- A special register of 64 bits into a pair (07 R190). -/
def getPair (v : View) (s : State) (d : BitVec 7) (x : DWord) : Except Stop State :=
  pipe v s { uses := [], d := some { dUse d 2 false with fixed := true } } d true okay okay [] v.active
    (.ok (Result.uni64 x false))

/-- GETM (07 R190). -/
def execGetm (y : Bool) (d : BitVec 7) (s : State) : Host.Outcome State Fault Refusal :=
  issue y s fun v => getWord v s d v.fib.spec.mode

/-- GETF (07 R190). -/
def execGetf (y : Bool) (d : BitVec 7) (s : State) : Host.Outcome State Fault Refusal :=
  issue y s fun v => getWord v s d v.fib.spec.fmt

/-- GETX (07 R190, 03 R75). -/
def execGetx (y : Bool) (d : BitVec 7) (s : State) : Host.Outcome State Fault Refusal :=
  issue y s fun v => getPair v s d v.ply.exec

/-- GETG (07 R190). -/
def execGetg (y : Bool) (d : BitVec 7) (s : State) : Host.Outcome State Fault Refusal :=
  issue y s fun v => getWord v s d v.fib.spec.gang

/-- GETL (07 R190, 03 R76). -/
def execGetl (y : Bool) (d : BitVec 7) (s : State) : Host.Outcome State Fault Refusal :=
  issue y s fun v => getPair v s d v.ply.link

/-! ### Setting special registers (07 R190, R191) -/

/-- An instruction that sets fibre or ply state from a U operand of `n` registers. -/
def setFrom (v : View) (s : State) (a : BitVec 9) (n : Nat) (fixed : Bool) (legal : DWord → Bool)
    (f : DWord → Fibre → Fibre) : Except Stop State := do
  let ua : Use := { field := a, pos := .a, n := n, fixed := fixed }
  let x := v.read ua none
  let fm : Form := { uses := [ua], d := none }
  v.check fm true okay (needU x a)
  need (legal (x.lane 0)) illState
  needClean [x] (fullMask v.width)
  .ok (((s.lastUses v fm).onFibre v (f (x.lane 0))).retire v)

/-- SETL (07 R190, 03 R76). -/
def execSetl (y : Bool) (a : BitVec 9) (s : State) : Host.Outcome State Fault Refusal :=
  issue y s fun v => setFrom v s a 2 true
    (fun x => x.extractLsb' 0 2 == 0 && x.extractLsb' 56 8 == 0)
    (fun x f => f.setPly v.who.ply { f.ply v.who.ply with link := x })

/-- SETMODE (07 R191, 03 R71). -/
def execSetmode (y : Bool) (a : BitVec 9) (s : State) : Host.Outcome State Fault Refusal :=
  issue y s fun v => setFrom v s a 1 true (fun x => modeLegal (x.setWidth 32))
    (fun x f => { f with spec := { f.spec with mode := x.setWidth 32 } })

/-- SETFMT (07 R191, 03 R73). -/
def execSetfmt (y : Bool) (a : BitVec 9) (s : State) : Host.Outcome State Fault Refusal :=
  issue y s fun v => setFrom v s a 1 true (fun x => fmtLegal (x.setWidth 32))
    (fun x f => { f with spec := { f.spec with fmt := x.setWidth 32 } })

/-- SETEXEC (07 R191, 03 R75): a pair when W is 64. -/
def execSetexec (y : Bool) (a : BitVec 9) (s : State) : Host.Outcome State Fault Refusal :=
  issue y s fun v => setFrom v s a (if v.width = 64 then 2 else 1) false (fun _ => true)
    (fun x f => f.setPly v.who.ply { f.ply v.who.ply with exec := x &&& (f.ply v.who.ply).mask })

/-- SETGANG (07 R191, 03 R74). -/
def execSetgang (y : Bool) (a : BitVec 9) (s : State) : Host.Outcome State Fault Refusal :=
  issue y s fun v => setFrom v s a 1 true (fun x => gangLegal (x.setWidth 32) (quadOf v.who.slot))
    (fun x f => { f with spec := { f.spec with gang := x.setWidth 32 } })

/-! ### Draft trees (10 R268, R269) -/

/-- The ancestor-or-self set of a lane, by at most `fuel` steps up; none when invalid (10 R268). -/
def ancestors (p : Nat → Nat) : Nat → Nat → Option Nat
  | 0, _ => none
  | k + 1, j =>
    if p j = j then some (2 ^ j)
    else if p j < j then (ancestors p k (p j)).map (· + 2 ^ j)
    else none

/-- The set of a lane of W lanes. -/
def ancOf (w : Nat) (p : Nat → Nat) (j : Nat) : Option Nat := if j < w then ancestors p (w + 1) j else none

/-- The number of elements of a set of lanes. -/
def setSize (n : Nat) : Nat := (bitsOf 64 n).count true

/-- TANC and TDEP: every lane of A is read (10 R268). -/
def treeLane (v : View) (s : State) (d : BitVec 7) (a : BitVec 9) (n : Nat) (f : Option Nat → Nat) : Except Stop State :=
  let ua := wordUse a .a
  let x := v.read ua none
  let lane := fun l => BitVec.ofNat 64 (f (ancOf v.width (fun j => (x.lane j).toNat) l))
  pipe v s { uses := [ua], d := some (dUse d n false) } d true okay okay [x] (if v.active = 0 then 0 else fullMask v.width)
    (.ok (if n = 2 then Result.per64 lane else Result.narrow (Value.per fun l => (lane l).setWidth 32)))

/-- TANC (10 R268). -/
def execTanc (y : Bool) (d : BitVec 7) (a : BitVec 9) (s : State) : Host.Outcome State Fault Refusal :=
  issue y s fun v => treeLane v s d a (if v.width = 64 then 2 else 1) fun r => r.getD 0

/-- TDEP (10 R268). -/
def execTdep (y : Bool) (d : BitVec 7) (a : BitVec 9) (s : State) : Host.Outcome State Fault Refusal :=
  issue y s fun v => treeLane v s d a 1 fun r => (r.map fun n => setSize n - 1).getD 0xFFFFFFFF

/-- TPATH (10 R269): the parents come from D's first register, the mask replaces D. -/
def execTpath (y : Bool) (d : BitVec 7) (a : BitVec 9) (s : State) : Host.Outcome State Fault Refusal :=
  issue y s fun v => do
    let ua := wordUse a .a
    let x := v.read ua none
    let p := v.readD d 1
    let n := if v.width = 64 then 2 else 1
    let fm : Form := { uses := [ua], d := some { dUse d n true with reads := false } }
    v.check fm true okay (needU x a)
    need (v.liveAll ((v.dest d).regs 1)) (deadTrap (dField d))
    needClean [x] v.active
    needClean [p] (if v.active = 0 then 0 else fullMask v.width)
    let leaf := (x.lane 0).toNat
    let mask := BitVec.ofNat 64 ((ancOf v.width (fun j => (p.lane j).toNat) leaf).getD 0)
    s.finish v fm d (uniResult p (n == 2) mask)

end Sys2Proof.Machine
end

