-- ==== Sys2Proof/Machine/Control.lean ====
section
/-! DEFINITION. Branches, divergence, loops, ending and creating fibres, traps and handlers, the clock and
pre-emption control (02 R31 to R41, R48 to R51; 08 R194 to R211). -/

namespace Sys2Proof.Machine

open Sys2Proof

/-- ILL of every word that no row of the table gives a form, and of major 0 (06 R143, R147, R150). -/
def execIll (y : Bool) (_x : BitVec 25) (s : State) : Host.Outcome State Fault Refusal :=
  issue y s fun _ => .error illEncoding

/-- ILL of an unassigned code (06 R147, R150); Y is bit 31. -/
def execUnassignedFunctionCode (w : BitVec 32) (s : State) : Host.Outcome State Fault Refusal :=
  issue (w.getLsbD 31) s fun _ => .error illEncoding

/-! ### Branches (08 R194 to R197) -/

/-- X of a `BR` (08 R194). -/
def View.brTarget (v : View) (o : BitVec 18) : Addr :=
  BitVec.ofNat 64 (((v.ply.pc.toNat : Int) + 4 * o.toInt) % (2 ^ 56 : Int)).toNat

/-- The EXEC lanes that take a branch (08 R195). -/
def View.takers (v : View) (p : BitVec 3) (n : BitVec 1) : Mask :=
  let q := v.fib.regs.preds.getD p.toNat 0
  v.ply.exec &&& (if n = 1 then ~~~q else q)

/-- A call sets the issuing ply's LINK to the address after its word; bits [63:56] read 0 (03 R76, 08 R195, R197). -/
def State.setLink (s : State) (v : View) : State :=
  s.onPly v fun p => { p with link := (v.ply.pc + 4).setWidth 56 |>.setWidth 64 }

/-- JMP (08 R195). -/
def execJmp (y : Bool) (o : BitVec 18) (s : State) : Host.Outcome State Fault Refusal :=
  issue y s fun v => do
    needTarget (v.brTarget o)
    .ok (s.retireTo v (v.brTarget o))

/-- CALL (08 R195). -/
def execCall (y : Bool) (o : BitVec 18) (s : State) : Host.Outcome State Fault Refusal :=
  issue y s fun v => do
    needTarget (v.brTarget o)
    .ok ((s.setLink v).retireTo v (v.brTarget o))

/-- BRA (08 R195). -/
def execBra (y : Bool) (p : BitVec 3) (n : BitVec 1) (o : BitVec 18) (s : State) : Host.Outcome State Fault Refusal :=
  issue y s fun v => do
    needTarget (v.brTarget o)
    .ok (s.retireTo v (if v.takers p n = 0 then v.ply.pc + 4 else v.brTarget o))

/-- BRL (08 R195). -/
def execBrl (y : Bool) (p : BitVec 3) (n : BitVec 1) (o : BitVec 18) (s : State) : Host.Outcome State Fault Refusal :=
  issue y s fun v => do
    needTarget (v.brTarget o)
    .ok (s.retireTo v (if v.ply.exec ≠ 0 ∧ v.takers p n = v.ply.exec then v.brTarget o else v.ply.pc + 4))

/-- The issuing ply goes on at an address with a ply mask and EXEC (03 R75), the instruction retired. -/
def State.goWith (s : State) (v : View) (pc : Addr) (m : Mask) : State :=
  s.onFibre v fun f =>
    (f.setPly v.who.ply { f.ply v.who.ply with pc := pc, exec := m, mask := m, stall := none }).count v.who.ply

/-- A topmost divergence: the other ply takes T, and the merge record is made (02 R31). -/
def State.splitPly (s : State) (v : View) (x : Addr) (t n : Mask) : State :=
  s.onFibre v fun f =>
    let p := f.ply v.who.ply
    let other : Ply := { Ply.empty with pc := x, exec := t, mask := t, link := p.link }
    let f1 := f.setPly v.who.ply { p with pc := p.pc + 4, exec := n, mask := n, stall := none }
    { (f1.setPly (1 - v.who.ply) other).count v.who.ply with
      merge := some { mode := f.spec.mode, fmt := f.spec.fmt, owner := v.who.ply } }

/-- BRD (02 R31, 08 R196). -/
def execBrd (y : Bool) (p : BitVec 3) (n : BitVec 1) (o : BitVec 18) (s : State) : Host.Outcome State Fault Refusal :=
  issue y s fun v => do
    let x := v.brTarget o
    needTarget x
    let t := v.takers p n
    let nn := v.ply.mask &&& ~~~t
    let next := v.ply.pc + 4
    let topmost := !(v.fib.ply (1 - v.who.ply)).live && v.ply.depth == 0
    let entry : StackEntry :=
      { arm := false, mask := v.ply.mask, addr := none, mode := v.fib.spec.mode, fmt := v.fib.spec.fmt, bad := false }
    if t = 0 then .ok (s.goWith v next nn)
    else if topmost then
      .ok (if nn = 0 then s.goWith v x t else s.splitPly v x t nn)
    else if nn = 0 then do
      need (decide (v.ply.depth + 1 ≤ 32)) illStack
      .ok ((s.pushEntry v entry).goWith v x t)
    else do
      need (decide (v.ply.depth + 2 ≤ 32)) illStack
      .ok (((s.pushEntry v entry).pushEntry v { entry with arm := true, mask := t, addr := some x }).goWith v next nn)

/-- A target operand: an address read from a U operand, with the check of 08 R194, or of `ok`; `m` is the mask under
which its poison counts (03 R77).  ILL comes before POISON (06 R151, 17 R369). -/
def targetOperand (v : View) (a : BitVec 9) (ok : Addr → Bool) (m : Mask) : Except Stop (Form × Addr) := do
  let ua := v.addrUse a .a
  let x := v.read ua none
  let fm : Form := { uses := [ua], d := none }
  v.check fm true okay (needU x a)
  need (ok (x.lane 0)) illTarget
  needClean [x] m
  .ok (fm, x.lane 0)

/-- JMPR (08 R197). -/
def execJmpr (y : Bool) (a : BitVec 9) (s : State) : Host.Outcome State Fault Refusal :=
  issue y s fun v => do
    let (fm, x) ← targetOperand v a targetOk (fullMask v.width)
    .ok ((s.lastUses v fm).retireTo v x)

/-- CALLR (08 R197). -/
def execCallr (y : Bool) (a : BitVec 9) (s : State) : Host.Outcome State Fault Refusal :=
  issue y s fun v => do
    let (fm, x) ← targetOperand v a targetOk (fullMask v.width)
    .ok (((s.lastUses v fm).setLink v).retireTo v x)

/-- RET (08 R197). -/
def execRet (y : Bool) (s : State) : Host.Outcome State Fault Refusal :=
  issue y s fun v => do
    needTarget v.ply.link
    .ok (s.retireTo v v.ply.link)

/-! ### The end of plies and fibres (02 R32, R41; 08 R205) -/

/-- Detach a slot's outstanding accesses from it: what returns after the fibre is DONE is discarded (08 R205). -/
def Core.detach (c : Core) (r slot : Nat) : Core :=
  { c with ops := c.ops.map fun p => if p.2.res = r ∧ p.2.slot = slot then (p.1, { p.2 with slot := 99 }) else p }

/-- Give up the pseudo-channels of a fibre that have no command left; the others follow at their last
completion (08 R205, 11 R293). -/
def State.giveUpChannels (s : State) (ctx launch team fibre : Nat) : State :=
  let me : ChOwner := { ctx := ctx, launch := launch, team := team, fibre := fibre, gone := false }
  { s with
    channels := s.channels.map fun p =>
      if p.2.owner = some me then
        (p.1, if p.2.queue.any (·.by_ == me) then { p.2 with owner := some { me with gone := true } }
          else { p.2 with owner := none, allBank := false })
      else p }

/-- A fibre becomes DONE: its slot is free, its pending bits clear, its monitor and its channels go, and
the latches and `FBAR`s that counted on it see it gone (02 R41, R43; 08 R205; 10 R255; 02 R30). -/
def State.fibreDone (s : State) (v : View) : State :=
  let n := v.who.core
  let r := v.who.res
  let slot := v.who.slot
  let gone := fun (m : MmaRun) => { m with shares := m.shares.filter fun h => h.slot != slot }
  let s1 := (s.modRes n r fun x =>
    { x with slots := kerase x.slots slot, mmas := x.mmas.map fun p => (p.1, gone p.2) }).modCore n fun c => c.detach r slot
  let ids := ((v.team.barriers.filter fun b => b.2.pend.contains v.fib.num).map (·.1))
  let s2 := ids.foldl (fun s id => s.barLeave n r id v.fib.num) s1
  let s3 := s2.giveUpChannels v.team.ctx v.team.launch v.team.num v.fib.num
  let (s4, jobs) := (s3.fbarSettle n r (spindleKey slot)).gangAbandon n r slot
  settle settleFuel jobs s4

/-- A ply holds no lane any more (02 R32, 08 R198, R205). -/
def State.plyEmpties (s : State) (v : View) : State :=
  match s.fibre v.who.core v.who.res v.who.slot with
  | none => s
  | some f =>
    let o := f.ply (1 - v.who.ply)
    let f1 := f.setPly v.who.ply Ply.empty
    if !o.live then s.fibreDone v
    else if o.atJoin then
      let f2 := f1.setPly (1 - v.who.ply) { o with atJoin := false, pc := o.pc + 4, stall := none }
      let spec := match f.merge with
        | some m => { f.spec with mode := m.mode, fmt := m.fmt }
        | none => f.spec
      s.putFibre v { f2 with merge := none, spec := spec }
    else s.putFibre v { f1 with merge := none }

/-- Give the merge entry on top the address after an arm's `JOIN` (02 R32). -/
def Ply.setMergeAddr (p : Ply) (x : Addr) : Ply :=
  match p.stack with
  | e :: es => { p with stack := { e with addr := some x } :: es }
  | [] => p

/-- The effect of a `JOIN` at address `j` on a stack; `first` while the entry is the one that was on top
when the `JOIN` issued (02 R32, 08 R205). -/
def joinEffect : Nat → State → View → Addr → Bool → State
  | 0, s, _, _, _ => s
  | fuel + 1, s, v, j, first =>
    match s.fibre v.who.core v.who.res v.who.slot with
    | none => s
    | some f =>
      match (f.ply v.who.ply).stack with
      | [] => s.plyEmpties v
      | e :: _ =>
        let s1 := s.popEntry v
        let s2 := if e.arm && first then s1.onPly v fun p => p.setMergeAddr (j + 4) else s1
        let m := e.mask &&& f.lanes
        if m = 0 then joinEffect fuel s2 v j false
        else
          let pc := if e.arm then e.addr.getD 0 else e.addr.getD (j + 4)
          s2.onFibre v fun g =>
            { g.setPly v.who.ply { g.ply v.who.ply with pc := pc, exec := m, mask := m, stall := none } with
              spec := { g.spec with mode := e.mode, fmt := e.fmt } }

/-- More than a stack holds. -/
def stackFuel : Nat := 40

/-- Whether a `JOIN` or an exit that leaves some lanes takes a poisoned entry: the top one, or one below it where every
entry above holds no lane (02 R32, 17 R363; log 95). -/
def popsBad (lanes : Mask) : List StackEntry → Bool
  | [] => false
  | e :: es => e.bad || (e.mask &&& lanes == 0 && popsBad lanes es)

/-- POISON where the effect of a `JOIN` on the issuing ply takes a poisoned entry (17 R363). -/
def State.needStack (s : State) (v : View) (lanes : Mask) : Except Stop Unit :=
  need (!popsBad lanes (s.wholeStack v.who.core v.who.res v.who.slot v.who.ply v.ply)) (.trap (Trap.plain .poison 0))

/-- Both plies wait at a `JOIN` with an empty stack and merge into the one that diverged (02 R32). -/
def Fibre.mergePlies (f : Fibre) : Fibre :=
  let own := (f.merge.map (·.owner)).getD 0
  let p := f.ply own
  let m := f.p0.mask ||| f.p1.mask
  let f1 := f.setPly own { p with pc := p.pc + 4, exec := m, mask := m, atJoin := false, stall := none }
  let spec := match f.merge with
    | some r => { f.spec with mode := r.mode, fmt := r.fmt }
    | none => f.spec
  { f1.setPly (1 - own) Ply.empty with merge := none, spec := spec }

/-- JOIN (02 R32, 08 R198). -/
def execJoin (y : Bool) (s : State) : Host.Outcome State Fault Refusal :=
  issue y s fun v =>
    let o := v.fib.ply (1 - v.who.ply)
    if v.ply.depth ≠ 0 then do
      s.needStack v v.fib.lanes
      .ok ((joinEffect stackFuel s v v.ply.pc true).onFibre v fun f => f.count v.who.ply)
    else if !o.live then .ok (s.retire v)
    else if o.atJoin then .ok (s.onFibre v fun f => f.mergePlies.count v.who.ply)
    else .ok (s.onFibre v fun f =>
      (f.setPly v.who.ply { f.ply v.who.ply with atJoin := true, stall := none }).count v.who.ply)

/-- Lanes leave the fibre, the instruction retired; a ply left without any takes the effect of 08 R205. -/
def State.leaveLanes (s : State) (v : View) (m : Mask) : State :=
  let s1 := s.onFibre v fun f =>
    let p := f.ply v.who.ply
    { (f.setPly v.who.ply { p with mask := p.mask &&& ~~~m, exec := p.exec &&& ~~~m, stall := none }).count v.who.ply with
      lanes := f.lanes &&& ~~~m }
  if v.ply.mask &&& ~~~m ≠ 0 then s1.onPly v fun p => { p with pc := p.pc + 4 }
  else joinEffect stackFuel s1 v v.ply.pc false

/-- EXIT (08 R202, R205). -/
def execExit (y : Bool) (s : State) : Host.Outcome State Fault Refusal :=
  issue y s fun v => do
    s.needStack v (v.fib.lanes &&& ~~~v.ply.mask)
    .ok (s.leaveLanes v v.ply.mask)

/-! ### Spawn bins (02 R38, R39; 08 R203, R204) -/

/-- The values of v0 to v3 in a lane; a dead or undeclared register contributes 0 (02 R38). -/
def View.binValues (v : View) (l : Nat) : List Word :=
  (List.range 4).map fun i =>
    if i < v.declared ∧ (v.reg (.v i)).live then (v.reg (.v i)).val.lane l else 0

/-- The entries of some lanes. -/
def View.binEntries (v : View) (ls : List Nat) : List BinEntry :=
  ls.map fun l => { v := v.binValues l, fibre := v.fib.num, lane := l }

/-- A bin that nothing is in. -/
def Bin.empty : Bin := { state := .empty, target := 0, entries := [], since := 0, order := 0 }

/-- The eight bins of a team. -/
def Team.allBins (t : Team) : List Bin := (List.range 8).map fun i => t.bins.getD i Bin.empty

/-- The bin that a group goes to: the one keyed by its target, else an empty one, of which the model takes the lowest
(02 R38; DESIGN CHOICE, log 108). -/
def binFor (bins : List Bin) (target : Addr) : Option Nat :=
  match bins.findIdx? fun b => b.state != .empty && b.target == target with
  | some i => some i
  | none => bins.findIdx? fun b => b.state == .empty

/-- A bin after a group has entered (02 R39). -/
def Bin.push (b : Bin) (w now : Nat) (target : Addr) (es : List BinEntry) : Bin :=
  let all := b.entries ++ es
  let since := if b.state = .empty then now else b.since
  if w ≤ all.length ∧ (b.state = .empty ∨ b.state = .filling) then
    { state := .full, target := target, entries := all, since := since, order := now }
  else { b with state := if b.state = .empty then .filling else b.state, target := target, entries := all, since := since }

/-- Push a group; none where it does not fit (02 R38). -/
def pushGroup (bins : List Bin) (w now : Nat) (target : Addr) (es : List BinEntry) : Option (List Bin) :=
  match binFor bins target with
  | some i =>
    let b := bins.getD i Bin.empty
    if b.entries.length + es.length ≤ 2 * w then some (bins.set i (b.push w now target es)) else none
  | none => none

/-- Push every group, or none. -/
def pushGroups (w now : Nat) : List (Addr × List BinEntry) → List Bin → Option (List Bin)
  | [], bins => some bins
  | (x, es) :: more, bins =>
    match pushGroup bins w now x es with
    | some bins' => pushGroups w now more bins'
    | none => none

/-- The poison of v0 to v3 in the lanes that are read (17 R363). -/
def View.binClean (v : View) : Except Stop Unit :=
  needClean ((List.range 4).filterMap fun i =>
    if i < v.declared ∧ (v.reg (.v i)).live then some (Opnd.ofReg (v.reg (.v i)) v.width) else none) v.active

/-- A `SPAWN` or an `EXITN` reads v0 to v3, and waits for an access that is still to write one (06 R151, 08 R203, R204). -/
def View.binWait (v : View) : Except Stop Unit := do
  let ids := ((List.range 4).filter fun i => decide (i < v.declared)).map RegId.v
  need (!v.owed ids) .halt
  need (!v.busy ids) .stall

/-- The bins that the issuing fibre reaches, those of the even core for a paired team (02 R23). -/
def View.pushBins (v : View) (s : State) (groups : List (Addr × List BinEntry)) : Except Stop State :=
  if groups = [] then .ok s
  else match pushGroups v.width s.clock groups v.team.allBins with
  | some bins => .ok (s.modTeam v.who.core v.who.res fun t => { t with bins := bins })
  | none => .error .stall

/-- What a `SPAWN` pushes (08 R204). -/
def View.spawnPlan (v : View) (a : BitVec 9) : Except Stop (Form × List (Addr × List BinEntry)) := do
  let (fm, x) ← targetOperand v a targetOk v.active
  v.binWait
  v.binClean
  let ls := lanesOf v.active v.width
  .ok (fm, if ls = [] then [] else [(x, v.binEntries ls)])

/-- SPAWN (08 R204). -/
def execSpawn (y : Bool) (a : BitVec 9) (s : State) : Host.Outcome State Fault Refusal :=
  issue y s fun v => do
    let (fm, groups) ← v.spawnPlan a
    let s1 ← v.pushBins s groups
    .ok ((s1.lastUses v fm).retire v)

/-- What an `EXITN` pushes: groups in ascending lane order; ILL names the lanes whose successor address is no target (08 R203,
17 R358). -/
def View.exitnPlan (v : View) (a : BitVec 9) : Except Stop (Form × List (Addr × List BinEntry)) := do
  let ua : Use := { field := a, pos := .a, n := 2, fixed := true }
  let x := v.read ua none
  let fm : Form := { uses := [ua], d := none }
  v.check fm true okay okay
  v.binWait
  let ls := lanesOf v.active v.width
  let bad := maskOf v.width fun l => v.active.getLsbD l && !targetOk (x.lane l)
  need (bad == 0) (.trap { Trap.plain .ill 7 with lanes := bad })
  let targets := (ls.map x.lane).foldl (fun ts t => if ts.contains t then ts else ts ++ [t]) []
  need (decide (targets.length ≤ 8)) illState
  needClean [x] v.active
  v.binClean
  .ok (fm, targets.map fun t => (t, v.binEntries (ls.filter fun l => x.lane l == t)))

/-- EXITN (08 R203). -/
def execExitn (y : Bool) (a : BitVec 9) (s : State) : Host.Outcome State Fault Refusal :=
  issue y s fun v => do
    let (fm, groups) ← v.exitnPlan a
    if v.active = 0 then .ok ((s.lastUses v fm).retire v)
    else do
      let s1 ← v.pushBins s groups
      if v.ply.mask &&& ~~~v.active = 0 then s.needStack v (v.fib.lanes &&& ~~~v.active) else .ok ()
      .ok ((s1.lastUses v fm).leaveLanes v v.active)

/-! ### Loops (02 R48 to R51, 08 R199) -/

/-- Whether a word may not stand in a loop body: `BR`, `JX`, `LOOP` by their majors, `JOIN`, `EXIT`,
`EXITN`, `SPAWN`, `TRAP` (02 R51). -/
def loopForbids (w : Word) : Bool :=
  let op := (w.extractLsb' 25 6).toNat
  op == 0x3C || op == 0x3D || op == 0x3E ||
    match decodeWord w 0 with
    | .join _ => true
    | .exit _ => true
    | .exitn _ _ => true
    | .spawn _ _ => true
    | .trap _ _ => true
    | _ => false

/-- The body of a loop, fetched (08 R199). -/
def State.fetchBody (s : State) (v : View) (laddr : Addr) (len : Nat) : Except Stop (List Word) :=
  (List.range len).mapM fun k => s.fetchWord v ((laddr.toNat + 8 + 4 * k) % 2 ^ 56)

/-- Whether a body and its step word may be captured (02 R49, R51). -/
def captureOk (body : List Word) (step : Word) : Bool := !(body.any loopForbids) && decide (stepStart step < 64)

/-- LOOP (08 R199, 02 R48 to R51). -/
def execLoop (y : Bool) (c : BitVec 6) (l : BitVec 5) (step : BitVec 32) (s : State) : Host.Outcome State Fault Refusal :=
  issue y s fun v => do
    let d : BitVec 7 := c.setWidth 7
    let x := v.readD d 1
    let len := l.toNat + 1
    need (decide (stepStart step < 64)) illEncoding
    let body ← s.fetchBody v v.ply.pc len
    let fm : Form := { uses := [], d := some { field := d, n := 1, fixed := true, reads := true, discard := false } }
    v.check fm true (need (captureOk body step) illLoop) (need (x.shape == .u) (shapeTrap (dField d)))
    needClean [x] (fullMask v.width)
    let n := (x.lane 0).toNat
    let first := v.ply.pc + 8
    if n = 0 then .ok (s.retireTo v (first + BitVec.ofNat 64 (4 * len)))
    else
      .ok ((s.retireTo v first).onPly v fun p =>
        { p with loop := some { laddr := v.ply.pc, body := body, step := step, pass := 0, count := n, idx := 0, loff := 0 } })

/-! ### Small instructions (08 R201, R206, R211) -/

/-- NOP (08 R201). -/
def execNop (y : Bool) (s : State) : Host.Outcome State Fault Refusal :=
  issue y s fun v => .ok (s.retire v)

/-- YIELD (08 R206). -/
def execYield (y : Bool) (s : State) : Host.Outcome State Fault Refusal :=
  issue y s fun v =>
    .ok ((s.retire v).modRes v.who.core v.who.res fun r => r.passSpindle (spindleKey v.who.slot))

/-- What `RDCLK` reads: the core's cycles, or in a deterministic launch the fibre's retired instructions
(08 R206, 18 R371). -/
def View.clock (v : View) (s : State) : Nat :=
  if v.team.det.isSome then v.fib.sched.retired else s.cycles v.who.core

/-- RDCLK (08 R206). -/
def execRdclk (y : Bool) (d : BitVec 7) (s : State) : Host.Outcome State Fault Refusal :=
  issue y s fun v => do
    let fm : Form := { uses := [], d := some { dUse d 2 false with fixed := true } }
    v.check fm true okay okay
    s.finishPlain v fm d (Result.uni64 (BitVec.ofNat 64 (v.clock s)) false)

/-- What a `NOPRE` budget counts: cycles, or in a deterministic launch retired instructions (08 R211, 18 R378). -/
def State.budgetNow (s : State) (t : Team) (f : Fibre) : Nat := if t.det.isSome then f.sched.retired else s.clock

/-- NOPRE (08 R211): the section is open, and its budget runs, once the instruction has retired. -/
def execNopre (y : Bool) (s : State) : Host.Outcome State Fault Refusal :=
  issue y s fun v => do
    need (v.team.hdr.flags.getLsbD 3) illState
    .ok ((s.retire v).onFibre v fun f =>
      { f with sched := { f.sched with nopre := if v.fib.sched.nopre.isSome then f.sched.nopre else some (s.budgetNow v.team f) } })

/-- PREOK (08 R211). -/
def execPreok (y : Bool) (s : State) : Host.Outcome State Fault Refusal :=
  issue y s fun v =>
    .ok ((s.onFibre v fun f => { f with sched := { f.sched with nopre := none } }).retire v)

/-! ### Traps and handlers (08 R207 to R209) -/

/-- SETTH (08 R207): the handler of the whole team; 0 removes it. -/
def execSetth (y : Bool) (a : BitVec 9) (s : State) : Host.Outcome State Fault Refusal :=
  issue y s fun v => do
    let (fm, x) ← targetOperand v a (fun x => x == 0 || targetOk x) (fullMask v.width)
    .ok (((s.lastUses v fm).modTeam v.who.core v.who.res fun t => { t with handler := x }).retire v)

/-- TRAP (08 R208): SOFT cause 0 with the code. -/
def execTrap (y : Bool) (a : BitVec 9) (s : State) : Host.Outcome State Fault Refusal :=
  issue y s fun v => do
    let ua := wordUse a .a
    let x := v.read ua none
    v.check { uses := [ua], d := none } true okay (needU x a)
    needClean [x] (fullMask v.width)
    .error (.trap { Trap.plain .soft 0 with code := (x.lane 0).setWidth 32 })

/-- The loop state of a frame, its body fetched again; ILL by 17 R358 where the word at LADDR is no
`LOOP`, its body may not be captured, or the pc lies outside the body. -/
def State.frameLoop (s : State) (v : View) (fr : Frame) : Except Stop (Option LoopState) :=
  if fr.looping then do
    need (targetOk fr.laddr) illState
    let w ← s.fetchWord v fr.laddr.toNat
    let step ← s.fetchWord v ((fr.laddr.toNat + 4) % 2 ^ 56)
    match decodeWord w step with
    | .loop _ _ l _ => do
      let body ← s.fetchBody v fr.laddr (l.toNat + 1)
      need (captureOk body step) illState
      match fr.loop body step with
      | some l => .ok (some l)
      | none => .error illState
    | _ => .error illState
  else .ok none

/-- Whether the instruction that a frame names is a `LOOP`, where the return goes on after it: its step word is no
instruction (06 R134, R142). -/
def State.frameAtLoop (s : State) (v : View) (fr : Frame) (after : Bool) : Except Stop Bool :=
  if after && !fr.looping then do
    let w ← s.fetchWord v fr.pc.toNat
    .ok (w.extractLsb' 25 6 == 0x3E)
  else .ok false

/-- TRET (08 R209, 17 R358). -/
def execTret (y : Bool) (a : BitVec 9) (s : State) : Host.Outcome State Fault Refusal :=
  issue y s fun v => do
    let ua := wordUse a .a
    let x := v.read ua none
    let fm : Form := { uses := [ua], d := none }
    v.check fm true (need v.ply.inHandler illState) (needU x a)
    need (decide ((x.lane 0).toNat ≤ 1)) illState
    needClean [x] (fullMask v.width)
    let as := span (s.framePa v.who.core v.who.res v.who.slot v.who.ply v.team.hdr.scratch) 128
    need (!s.mustWait v as) .stall
    let fr := frameOf (s.ownBytes v as)
    need fr.legal illState
    need (targetOk fr.pc) illTarget
    let loop ← s.frameLoop v fr
    need (!s.ownPoison v as) (.trap (Trap.plain .poison 0))
    let after := (x.lane 0).toNat == 1
    let isLoop ← s.frameAtLoop v fr after
    .ok ((s.lastUses v fm).onFibre v fun f => f.leaveHandler v.who.ply fr loop after isLoop)

end Sys2Proof.Machine
end

