-- ==== Sys2Proof/Machine/Fabric.lean ====
section
/-! DEFINITION. Far packets: senders, die links, home agents with their duplicate filters, the legs of a
`FETCH`, the scale-out ports and peers (05 R106 to R112; 09 R231, R234, R235; 17 R364; 19 R383 to R390). -/

namespace Sys2Proof.Machine

open Sys2Proof

/-! ### Tags, scopes and intervals (05 R107 to R109, R111; 19 R384) -/

/-- A tag (05 R107). -/
def tagOf (agent slot seq : Nat) : Nat := agent * 2 ^ 54 + slot * 2 ^ 48 + seq % 2 ^ 48
/-- AGENT and SLOT of a tag. -/
def tagAgent (t : Nat) : Nat := t / 2 ^ 54
def tagSlot (t : Nat) : Nat := t / 2 ^ 48 % 64

/-- The age a copy starts with, the delivery bound D, and the lifetime L, by scope. -/
def ageOf (sys : Bool) : Nat := if sys then Config.ageSystem else Config.agePackage
def boundOf (sys : Bool) : Nat := if sys then Config.boundSystem else Config.boundPackage
def lifeOf (sys : Bool) : Nat := if sys then Config.lifeSystem else Config.lifePackage

/-- The retransmission interval in cycles of 2.5 GHz (19 R384). -/
def Fabric.interval (f : Fabric) (sys : Bool) : Nat := if sys then f.rtis * 2500 else f.rtip * 25

/-- The SLOT of a reply that a die's link interface sends for a home that is down (17 R364): it counts apart from the home's
engines, and the reset of a base die leaves its count (DESIGN CHOICE, log 83). -/
def linkSlot : Nat := 63

/-- Whether a stack's packet is the reply of a `FETCH`. -/
def isReplyTag (t : Nat) : Bool := tagSlot t == 0 || tagSlot t == linkSlot

/-- A management core as an agent (05 R107). -/
def State.manager (s : State) (m : Nat) : ManagementCore := kgetD s.control.managers m ManagementCore.reset

/-- Change a management core. -/
def State.modManager (s : State) (m : Nat) (f : ManagementCore → ManagementCore) : State :=
  { s with control := { s.control with managers := kset s.control.managers m (f (s.manager m)) } }

/-- The next tag of an agent: a core, a port, a stack's base die or link interface, or a management core. -/
def State.nextTag (s : State) (agent slot : Nat) : State × Nat :=
  if agent < 640 then
    (s.modCore agent fun c => { c with seq := c.seq + 1 }, tagOf agent slot (s.core agent).seq)
  else if agent < 652 then
    (s.setPort (agent - 640) { s.port (agent - 640) with seq := (s.port (agent - 640)).seq + 1 },
      tagOf agent slot (s.port (agent - 640)).seq)
  else if 704 ≤ agent then
    (s.modManager (agent - 704) fun m => { m with seq := m.seq + 1 }, tagOf agent slot (s.manager (agent - 704)).seq)
  else if slot = linkSlot then
    (s.modAgent (agent - 672) fun h => { h with linkSeq := h.linkSeq + 1 }, tagOf agent slot (s.agent (agent - 672)).linkSeq)
  else
    (s.modAgent (agent - 672) fun h => { h with seq := h.seq + 1 }, tagOf agent slot (s.agent (agent - 672)).seq)

/-- Whether the agent of a tag may send far packets (05 R107). -/
def State.maySend (s : State) (tag : Nat) : Bool :=
  let a := tagAgent tag
  if a < 640 then (s.core a).farReady
  else if a < 652 then (s.port (a - 640)).farReady
  else if 704 ≤ a then (s.manager (a - 704)).farReady
  else tagSlot tag == linkSlot || (s.agent (a - 672)).farReady

/-- The dies of a device in a presentation mode (01 R14). -/
def deviceDies (mode device : Nat) : List Nat :=
  if mode = 1 then (List.range 8).map (·)
  else if mode = 2 then (List.range 4).map (device * 4 + ·)
  else [device]

/-- The context of an identifier. -/
def State.context (s : State) (ctx : Nat) : Option Context := kget s.control.contexts ctx

/-- The dies of a context's device. -/
def State.contextDies (s : State) (ctx : Nat) : List Nat :=
  match s.context ctx with
  | some c => deviceDies c.mode c.device
  | none => []

/-! ### Sending -/

/-- Whether a packet leaves the module through a port. -/
def Packet.leaves (p : Packet) : Bool := p.peer.isSome || p.remote.isSome

/-- A copy at its sender's die: at its home when the target is on that die, else about to cross a link. -/
def Packet.place (p : Packet) (home : Nat) : CopyPlace :=
  if p.leaves then .router p.srcDie
  else if dieOf p.target = p.srcDie then .home home
  else .router p.srcDie

/-- A copy enters the fabric with a fresh age. -/
def State.putCopy (s : State) (p : Packet) (via : Option Peer) : State :=
  { s with fabric := { s.fabric with
      copies := kset s.fabric.copies s.fabric.nextCopy
        { pkt := p, via := via, age := ageOf p.sys, place := p.place (stackOf p.target), since := s.clock }
      nextCopy := s.fabric.nextCopy + 1 } }

/-- When an agent last sent a copy is noted (05 R107). -/
def State.noteSend (s : State) (a : Nat) : State :=
  if a < 640 then s.modCore a fun c => { c with lastFar := s.clock }
  else if a < 652 then s.setPort (a - 640) { s.port (a - 640) with lastFar := s.clock }
  else if 672 ≤ a ∧ a < 688 then s.modAgent (a - 672) fun h => { h with lastFar := s.clock }
  else if 704 ≤ a ∧ a < 720 then s.modManager (a - 704) fun m => { m with lastFar := s.clock }
  else s

/-! ### Peers (19 R388 to R390) -/

/-- A peer-table entry from its 64 bytes; none where a field that is zero is not (19 R389). -/
def readPeer (bs : List Byte) : Option Peer :=
  let g := leAt bs
  let f := g 0 1
  let loc := f.testBit 2
  let zero (lo hi : Nat) : Bool := (sliceBytes bs lo (hi - lo)).all (· == 0)
  if bs.length = 64 ∧ f < 8 ∧ zero 2 8 ∧ zero 40 64 ∧ g 32 8 % 65536 = 0
      ∧ (if loc then g 1 1 ≤ 7 ∧ zero 8 24 else g 1 1 = 0) then
    some { valid := f.testBit 0, inbound := f.testBit 1, loc := loc, dev := g 1 1, addr := g 8 16, wbase := g 24 8, wsize := g 32 8 }
  else none

/-- The bytes of a row of the peer table in stack memory (19 R389; log 103). -/
def peerRow (pidx : Nat) : List Nat := span (Config.peerTable + 64 * pidx) 64

/-- A VALID entry of the peer table. -/
def State.peer (s : State) (pidx : Nat) : Option Peer := (readPeer (readAll s.mem (peerRow pidx))).filter (·.valid)

/-- Whether a sender may send to this module (19 R389). -/
def State.inboundFrom (s : State) (sender : Nat) : Bool :=
  s.fabric.peerRows.any fun i =>
    match s.peer i with
    | some e => e.inbound && !e.loc && e.addr == sender
    | none => false

/-- Whether firmware exports a target to remote peers; and from one device of this module to another (19 R389, R390). -/
def State.exported (s : State) (pa : Nat) : Bool :=
  s.fabric.exports.any fun e => e.todev == none && decide (e.base ≤ pa) && decide (pa < e.base + e.size)
def State.exportedTo (s : State) (dev from_ pa : Nat) : Bool :=
  s.fabric.exports.any fun e => e.dev == dev && e.todev == some from_ && decide (e.base ≤ pa) && decide (pa < e.base + e.size)

/-- Where a peer page leads: a physical address of another device of this module, a remote peer, or nowhere, with the
cause: 1 an invalid entry, 2 a page beyond the window. -/
inductive PeerTarget where
  | localTo (pa dev : Nat)
  | remote
  | invalid (cause : Nat)
  deriving DecidableEq, Repr

/-- The target of an offset in a peer's window, seen from a context: a LOCAL entry names another device
that the presentation mode has (19 R389, R390).  An entry of a remote peer is judged at the port. -/
def State.peerTarget (s : State) (ctx pidx off : Nat) : PeerTarget :=
  match s.peer pidx, s.context ctx with
  | some p, some c =>
    if p.loc then
      if p.dev = c.device ∨ c.mode ≤ p.dev then .invalid 1
      else if p.wsize ≤ off / 65536 * 65536 then .invalid 2
      else .localTo (p.wbase + off) p.dev
    else .remote
  | _, _ => .remote

/-- A copy of a packet leaves.  A packet through a peer page goes where its entry leads now (19 R390, R399). -/
def State.sendCopy (s : State) (p : Packet) : State :=
  let s1 := match p.peer with
    | none => s.putCopy p none
    | some pidx =>
      match s.peerTarget p.ctx pidx p.target with
      | .localTo pa dev =>
        s.putCopy { p with target := pa, peer := none, fromDev := (s.context p.ctx).map Context.device, toDev := some dev } none
      | _ => s.putCopy p (s.peer pidx)
  s1.noteSend (tagAgent p.tag)

/-! ### Packets and their senders -/

/-- A packet is sent for the first time. -/
def State.sendPacket (s : State) (p : Packet) : State :=
  let s1 := s.sendCopy p
  { s1 with fabric := { s1.fabric with
      sent := kset s1.fabric.sent p.tag
        { pkt := p, first := s.clock, last := s.clock, interval := s.fabric.interval p.sys } } }

/-- A packet leaves its sender's list. -/
def State.unsend (s : State) (tag : Nat) : State :=
  { s with fabric := { s.fabric with sent := kerase s.fabric.sent tag } }

/-! ### Who waits for a packet -/

/-- A far instruction no longer waits for a tag; with none left it has returned (05 R121). -/
def State.farEnd (s : State) (n tag : Nat) : State :=
  (s.core n).ops.foldl (fun s p =>
    match p.2.body with
    | .far tags =>
      if tags.contains tag then
        let left := tags.filter (· != tag)
        let s1 := s.modOp n p.1 fun o => { o with body := .far left }
        if left = [] then s1.opReturn n p.1 else s1
      else s
    | _ => s) s

/-- Change the engine command that waits for a result packet (11 R289). -/
def State.modCmdOfTag (s : State) (tag : Nat) (f : EngCmd → EngCmd) : State :=
  let change (r : Residency) : Residency :=
    { r with
      deps := r.deps.map fun p =>
        (p.1, { p.2 with
          cmd := p.2.cmd.map fun c => if c.packets.contains tag then f c else c }) }
  { s with
    cores := s.cores.map fun c => (c.1, { c.2 with r0 := change c.2.r0, r1 := change c.2.r1 }) }

/-- A condition of 11 R274 is met. -/
def EngCmd.note (c : EngCmd) (status : Nat) : EngCmd :=
  if c.conds.testBit status then c else { c with conds := c.conds + 2 ^ status }

/-- A result packet has ended. -/
def EngCmd.packetEnds (c : EngCmd) (tag : Nat) : EngCmd := { c with packets := c.packets.filter (· != tag) }

/-- An acknowledgement to a remote sender: it leaves as any packet does, through a port that is up, and is not sent again
(19 R386, R387). -/
def State.ackRemote (s : State) (sender tag : Nat) : State :=
  s.putCopy { tag := tag, sys := true, kind := .ack, code := 0, target := 0, landing := 0, size := 0, data := [], poison := []
              request := 0, ctx := noContext, peer := none, remote := some sender, srcDie := 8, fromDev := none, toDev := none }
    none

/-- A relayed packet has been acknowledged by its home: the remote sender is (19 R387). -/
def State.relayAcked (s : State) (tag : Nat) : State :=
  match s.fabric.portKeys.find? fun k => k.relay == tag with
  | some k =>
    let keys := s.fabric.portKeys.map fun x : PortKey => if x.relay = tag then { x with acked := true } else x
    ({ s with fabric := { s.fabric with portKeys := keys } } : State).ackRemote k.peer k.tag
  | none => s

/-- The sender of a packet learns that it was acknowledged. -/
def State.acked (s : State) (p : Packet) : State :=
  let a := tagAgent p.tag
  let s1 := s.unsend p.tag
  if a < 640 then (if p.kind = .op then s1.farEnd a p.tag else s1)
  else if a < 652 then s1.relayAcked p.tag
  else s1.modCmdOfTag p.tag fun c => c.packetEnds p.tag

/-- A packet fails: the delivery-failure event of 05 R109, but for a `FETCH` reply; the instruction or the
command that sent it goes on without it. -/
def State.fails (s : State) (p : Packet) (cause : List Nat) : State :=
  let a := tagAgent p.tag
  let s1 := s.unsend p.tag
  let s2 := if 672 ≤ a ∧ isReplyTag p.tag then s1 else s1.post .deliveryFailure a p.ctx ([p.tag, p.target] ++ cause)
  if a < 640 then (if p.kind = .op then s2.farEnd a p.tag else s2)
  else if a < 652 then s2
  else s2.modCmdOfTag p.tag fun c => (c.note 5).packetEnds p.tag

/-! ### Performing at a home (05 R110, R115; 09 R234; 17 R363, R364) -/

/-- A packet's operation code without the mark of an unsigned comparison (log 18). -/
def Packet.opCode (p : Packet) : Nat := p.code % 16

/-- The read-modify-write of a far `POST`. -/
def Packet.rmw (p : Packet) : Rmw :=
  { code := p.opCode, wide := p.data.length == 8, unsigned := decide (16 ≤ p.code), cas := false }

/-- The granules of a read that lie in poisoned atoms. -/
def State.poisonGranules (s : State) (pa n : Nat) : List Nat :=
  (List.range (n / 4)).filter fun g => s.poisoned [pa + 4 * g]

/-- The reply of a `FETCH` leaves the source's home, or the link interface of its die (09 R234, 17 R364). -/
def State.sendReply (s : State) (st slot : Nat) (q : Packet) (data : List Byte) (poison : List Nat) : State :=
  let (s1, tag) := s.nextTag (672 + st) slot
  s1.sendPacket
    { tag := tag, sys := q.sys, kind := .reply, code := 0, target := q.landing, landing := 0, size := q.size
      data := data, poison := poison, request := q.tag, ctx := q.ctx
      peer := none, remote := (s.fabric.portKeys.find? fun k => k.relay == q.tag).map (·.peer)
      srcDie := st / 2, fromDev := none, toDev := none }

/-- The report of a landing, due at the requesting core (09 R234). -/
def State.reportLeg (s : State) (tag : Nat) : State :=
  { s with fabric := { s.fabric with legs := kmod s.fabric.legs tag fun l => { l with reported := true } } }

/-- A packet performed at its home. -/
def State.homePerform (s : State) (st : Nat) (p : Packet) : State :=
  let barred := match p.fromDev with
    | some d => !s.exportedTo (p.toDev.getD 8) d p.target
    | none => false
  if barred then s.post .peerAccess (stackSource st) p.ctx [p.tag, p.target]
  else match p.kind with
  | .op =>
    if 11 ≤ p.opCode then (s.regionOp p.opCode p.ctx p.tag p.target p.data).1
    else (s.rmwAt p.ctx p.rmw (span p.target p.data.length) (BitVec.ofNat 64 (leNat p.data)) 0).1
  | .request =>
    s.sendReply st 0 p (readAll s.mem (span p.target p.size)) (s.poisonGranules p.target p.size)
  | .reply =>
    let (s1, took) := s.land p.ctx p.tag p.target p.data p.poison true
    if isReplyTag p.tag then s1.reportLeg p.request
    else if took then s1 else s1.modCmdOfTag p.tag fun c => c.note 4
  | .ack => s

/-- An acknowledgement leaves for the sender of a tag. -/
def State.acknowledge (s : State) (tag : Nat) : State :=
  { s with fabric := { s.fabric with
      acks := kset s.fabric.acks s.fabric.nextAck { tag := tag }, nextAck := s.fabric.nextAck + 1 } }

/-- Whether a filter still keeps a tag (05 R111). -/
def FilterTag.kept (f : FilterTag) (now : Nat) : Bool := decide (now < f.first + 3 * lifeOf f.sys)

/-- Whether a filter has room for a tag of a scope (05 R110). -/
def Home.room (h : Home) (sys : Bool) (now : Nat) : Bool :=
  decide ((h.filter.filter fun f => f.sys == sys && f.kept now).length < Config.filterRoom)

/-- A tag enters a home's filter. -/
def State.filterTag (s : State) (st : Nat) (p : Packet) : State :=
  s.modAgent st fun h => { h with filter := { tag := p.tag, sys := p.sys, first := s.clock } :: h.filter }

/-- A home receives a copy (05 R110, 17 R364).  A home that is down leaves a request to its die's link
interface, which keeps the tags that it has answered in the home's filter, so that a further copy gets its acknowledgement
and no second reply (09 R234; DEDUCED, log 83); one in its discard period takes nothing; one that may not send yet takes no
request (log 17). -/
def State.homeReceive (s : State) (st : Nat) (p : Packet) : State :=
  let h := s.agent st
  if h.down then
    if p.kind ≠ .request then s
    else if h.filter.any fun f => f.tag == p.tag && f.kept s.clock then s.acknowledge p.tag
    else if !h.room p.sys s.clock then s
    else
      ((s.filterTag st p).sendReply st linkSlot p (List.replicate p.size 0) (List.range (p.size / 4))).acknowledge p.tag
  else if h.discardUntil.isSome then s
  else if h.filter.any fun f => f.tag == p.tag && f.kept s.clock then s.acknowledge p.tag
  else if !h.room p.sys s.clock then s
  else if p.kind = .request && !h.farReady then s
  else ((s.filterTag st p).homePerform st p).acknowledge p.tag

/-! ### Copies (05 R108, 19 R383) -/

/-- A copy. -/
def State.copy (s : State) (k : Nat) : Option Copy := kget s.fabric.copies k

/-- Remove a copy. -/
def State.dropCopy (s : State) (k : Nat) : State := { s with fabric := { s.fabric with copies := kerase s.fabric.copies k } }

/-- Replace a copy. -/
def State.setCopy (s : State) (k : Nat) (c : Copy) : State :=
  { s with fabric := { s.fabric with copies := kset s.fabric.copies k c } }

/-- What a router or a home that holds a copy has charged: 1 for its entry, 1 for each started 256 cycles (05 R108); the
ports' router is the control die's. -/
def Copy.charge (c : Copy) (now : Nat) : Nat := 1 + (now - c.since + 255) / 256

/-- Whether a copy's age has reached 0. -/
def Copy.expired (c : Copy) (now : Nat) : Bool := decide (c.age ≤ c.charge now)

/-- Row and column of a die in the 2×4 arrangement (row-major; PRESUMED, log 19). -/
def dieRow (d : Nat) : Nat := d / 4
def dieCol (d : Nat) : Nat := d % 4

/-- The number of links between two compute dies, diagonals included. -/
def gridDist (d e : Nat) : Nat :=
  max (max (dieRow d - dieRow e) (dieRow e - dieRow d)) (max (dieCol d - dieCol e) (dieCol e - dieCol d))

/-- Whether a link joins two dies and leads toward a target die (19 R383). -/
def leadsTo (d next target : Nat) : Bool :=
  if d = 8 then decide (next < 8) && next == target
  else if target = 8 then next == 8
  else decide (next < 8) && decide (gridDist d next = 1) && decide (gridDist next target < gridDist d target)

/-- The die a copy goes to: the control die for a remote peer. -/
def Copy.die (c : Copy) : Nat := if c.pkt.leaves then 8 else dieOf c.pkt.target

/-- Whether a port may send. -/
def Port.usable (p : Port) : Bool := p.enable && p.up

/-- An immediate failure with its cause, unless the packet has ended already (19 R389). -/
def State.failsOnce (s : State) (p : Packet) (cause : Nat) : State :=
  if (kget s.fabric.sent p.tag).isSome then s.fails p [cause] else s

/-- KIND of a fabric header (19 R386). -/
def PktKind.code : PktKind → Nat
  | .op => 0 | .ack => 1 | .request => 2 | .reply => 3

/-- The UDP payload of a packet: fabric header and data (19 R386); LEN of a `FETCH` request is what it reads (log 20). -/
def Packet.payload (p : Packet) (age target : Nat) : List Byte :=
  let len := if p.kind = .request then p.size else p.data.length
  bytesOfNat 1 1 ++ bytesOfNat 1 p.kind.code ++ bytesOfNat 1 (p.code % 16) ++ bytesOfNat 1 len ++ bytesOfNat 2 age
    ++ bytesOfNat 2 0 ++ bytesOfNat 8 p.tag ++ bytesOfNat 8 target
    ++ bytesOfNat 8 (if p.kind = .request then p.landing else 0) ++ p.data

/-- The ones'-complement sum of bytes taken as 16-bit numbers, high byte first. -/
def onesSum (bs : List Byte) : Nat :=
  let t := ((List.range ((bs.length + 1) / 2)).map fun i => 256 * leAt bs (2 * i) 1 + leAt bs (2 * i + 1) 1).sum
  let fold (x : Nat) : Nat := x % 65536 + x / 65536
  fold (fold (fold t))

/-- A number of two bytes in network order. -/
def netBytes (x : Nat) : List Byte := bytesOfNat 1 (x / 256) ++ bytesOfNat 1 x

/-- What the UDP checksum over IPv6 covers before the UDP header: addresses, length, next header 17. -/
def pseudoHeader (source dest n : Nat) : List Byte :=
  bytesOfNat 16 source ++ bytesOfNat 16 dest ++ netBytes (n / 65536) ++ netBytes n ++ netBytes 0 ++ netBytes 17

/-- The UDP ports of a fabric packet (19 R385). -/
def fabricPort : Nat := 22344
def sourcePort (tag : Nat) : Nat := (BitVec.ofNat 16 tag ^^^ BitVec.ofNat 16 (tag / 65536)).toNat

/-- A UDP datagram with its checksum (19 R385; the layout of its header is UDP's, log 103). -/
def udpBytes (source dest sport : Nat) (payload : List Byte) : List Byte :=
  let n := 8 + payload.length
  let ports := netBytes sport ++ netBytes fabricPort ++ netBytes n
  let sum := 65535 - onesSum (pseudoHeader source dest n ++ ports ++ netBytes 0 ++ payload)
  ports ++ netBytes (if sum = 0 then 65535 else sum) ++ payload

/-- The payload of a datagram that arrives: none where its port, its length or its checksum is wrong (19 R385). -/
def udpPayload (source dest : Nat) (bs : List Byte) : Option (List Byte) :=
  let be (i : Nat) : Nat := 256 * leAt bs i 1 + leAt bs (i + 1) 1
  if 8 ≤ bs.length ∧ be 2 = fabricPort ∧ be 4 = bs.length ∧ onesSum (pseudoHeader source dest bs.length ++ bs) = 65535 then
    some (bs.drop 8)
  else none

/-- A port sends a copy to a remote address, LATU being taken from its age; a copy whose age would reach 0 is dropped;
without a usable port it waits (19 R386). -/
def State.transmit (s : State) (k port : Nat) (c : Copy) (dest target : Nat) : State :=
  let p := s.port port
  if !p.usable then s
  else if c.age ≤ c.charge s.clock + p.latu then s.dropCopy k
  else
    let s1 := s.dropCopy k
    let bytes := udpBytes Config.moduleAddress dest (sourcePort c.pkt.tag)
      (c.pkt.payload (c.age - c.charge s.clock - p.latu) target)
    { s1 with fabric := { s1.fabric with egress := s1.fabric.egress ++ [{ port := port, dest := dest, bytes := bytes }] } }

/-- A copy at a port, its peer entry at hand: sent, dropped, or failed at once (19 R386, R389). -/
def State.egress (s : State) (k port : Nat) (c : Copy) : State :=
  match c.pkt.remote, c.via with
  | some addr, _ => s.transmit k port c addr c.pkt.target
  | none, some e =>
    if e.loc then (s.dropCopy k).failsOnce c.pkt 1
    else if e.wsize ≤ c.pkt.target / 65536 * 65536 then (s.dropCopy k).failsOnce c.pkt 2
    else s.transmit k port c e.addr (e.wbase + c.pkt.target)
  | none, none => (s.dropCopy k).failsOnce c.pkt 1

/-- ROUTER_FORWARD (19 R383, R386): a router forwards a copy, drops it, or a port sends it; the port
complex fetches a peer entry that it does not hold. -/
def execRouterForward (copy next : Nat) (crcBad : Bool) (s : State) : Host.Outcome State Fault Refusal :=
  event s (match s.copy copy with
    | none => none
    | some c =>
      match c.place with
      | .home _ => none
      | .port =>
        if c.expired s.clock then some (s.dropCopy copy)
        else
          (match c.pkt.remote, c.pkt.peer with
           | none, some pidx =>
             if s.fabric.peerCache.contains pidx then some (s.egress copy next c)
             else if s.fabric.peerWait.contains pidx then none
             else some { s with fabric := { s.fabric with peerWait := s.fabric.peerWait ++ [pidx] } }
           | _, _ => some (s.egress copy next c))
      | .router d =>
        if crcBad ∨ c.expired s.clock then some (s.dropCopy copy)
        else if leadsTo d next c.die then
          let place : CopyPlace :=
            if next = c.die then (if c.pkt.leaves then .port else .home (stackOf c.pkt.target)) else .router next
          some (s.setCopy copy { c with age := c.age - c.charge s.clock, place := place, since := s.clock })
        else if d = 8 ∧ c.pkt.leaves then some (s.setCopy copy { c with place := .port })
        else none)

/-- FAR_COPY_AGE_EXPIRY (05 R108). -/
def execFarCopyAgeExpiry (copy : Nat) (s : State) : Host.Outcome State Fault Refusal :=
  event s (match s.copy copy with
    | some c => if c.expired s.clock then some (s.dropCopy copy) else none
    | none => none)

/-- HOME_COPY_RECEIPT (05 R110): a copy whose age has reached 0 is never filtered or performed. -/
def execHomeCopyReceipt (copy : Nat) (s : State) : Host.Outcome State Fault Refusal :=
  event s (match s.copy copy with
    | some c =>
      (match c.place with
       | .home _ =>
         if c.expired s.clock then some (s.dropCopy copy)
         else some ((s.dropCopy copy).homeReceive (s.homeOf c.pkt.target) c.pkt)
       | _ => none)
    | none => none)

/-- FAR_RETRANSMIT (05 R109): an agent that may not send yet sends no copy (05 R107). -/
def execFarRetransmit (tag : Nat) (s : State) : Host.Outcome State Fault Refusal :=
  event s (match kget s.fabric.sent tag with
    | some x =>
      if x.last + x.interval ≤ s.clock ∧ s.clock < x.first + boundOf x.pkt.sys ∧ s.maySend tag then
        match x.pkt.peer.map fun i => s.peerTarget x.pkt.ctx i x.pkt.target with
        | some (.invalid cause) => some (s.fails x.pkt [cause])
        | _ =>
        let s1 := s.sendCopy x.pkt
        some { s1 with fabric := { s1.fabric with
          sent := kset s1.fabric.sent tag { x with last := s.clock, interval := s.fabric.interval x.pkt.sys } } }
      else none
    | none => none)

/-- DELIVERY_FAILURE (05 R109). -/
def execDeliveryFailure (tag : Nat) (s : State) : Host.Outcome State Fault Refusal :=
  event s (match kget s.fabric.sent tag with
    | some x => if x.first + boundOf x.pkt.sys ≤ s.clock then some (s.fails x.pkt []) else none
    | none => none)

/-- FAR_ACK_RECEIPT (05 R109). -/
def execFarAckReceipt (ack : Nat) (lost : Bool) (s : State) : Host.Outcome State Fault Refusal :=
  event s (match kget s.fabric.acks ack with
    | some a =>
      let s1 : State := { s with fabric := { s.fabric with acks := kerase s.fabric.acks ack } }
      some (if lost then s1 else
        match kget s1.fabric.sent a.tag with
        | some x => s1.acked x.pkt
        | none => s1)
    | none => none)

/-- A leg ends (09 R235). -/
def State.endLeg (s : State) (tag : Nat) (l : Leg) : State :=
  ({ s with fabric := { s.fabric with legs := kerase s.fabric.legs tag } }).farEnd l.core tag

/-- FETCH_LANDING_REPORT (09 R234, R235). -/
def execFetchLandingReport (tag : Nat) (s : State) : Host.Outcome State Fault Refusal :=
  event s (match kget s.fabric.legs tag with
    | some l => if l.reported then some (s.endLeg tag l) else none
    | none => none)

/-- FETCH_LEG_FAILURE (09 R235). -/
def execFetchLegFailure (tag : Nat) (s : State) : Host.Outcome State Fault Refusal :=
  event s (match kget s.fabric.legs tag with
    | some l =>
      if l.first + 2 * boundOf l.sys + 2 * lifeOf l.sys ≤ s.clock then
        some ((s.post .deliveryFailure l.core l.ctx [tag, l.landing]).endLeg tag l)
      else none
    | none => none)

/-- FILTER_TAG_EXPIRY (05 R111). -/
def execFilterTagExpiry (home tag : Nat) (s : State) : Host.Outcome State Fault Refusal :=
  event s (if (s.agent home).filter.any fun f => f.tag == tag && decide (f.first + 2 * lifeOf f.sys ≤ s.clock)
    then some (s.modAgent home fun h => { h with filter := h.filter.filter fun f => f.tag != tag })
    else none)

/-- FAR_SEND_RELEASE (05 R107): 10 ms after the last copy that a reset agent sent. -/
def execFarSendRelease (agent : Nat) (s : State) : Host.Outcome State Fault Refusal :=
  event s (if agent < 640 then
      let c := s.core agent
      if !c.farReady ∧ c.lastFar + Config.farHold ≤ s.clock then
        some (s.modCore agent fun c => { c with farReady := true })
      else none
    else if 640 ≤ agent ∧ agent < 652 then
      let p := s.port (agent - 640)
      if !p.farReady ∧ p.lastFar + Config.farHold ≤ s.clock then some (s.setPort (agent - 640) { p with farReady := true })
      else none
    else if 672 ≤ agent ∧ agent < 688 then
      let h := s.agent (agent - 672)
      if !h.farReady ∧ h.lastFar + Config.farHold ≤ s.clock then
        some (s.modAgent (agent - 672) fun h => { h with farReady := true })
      else none
    else if 704 ≤ agent ∧ agent < 720 then
      let m := s.manager (agent - 704)
      if !m.farReady ∧ m.lastFar + Config.farHold ≤ s.clock then
        some (s.modManager (agent - 704) fun m => { m with farReady := true })
      else none
    else none)

/-! ### Ports (19 R384 to R387, R389) -/

/-- A port after its reset: its link is down, and as any agent that is reset it counts SEQ from 0 and may send no far
packet yet; its registers stay (05 R107, 20 R400). -/
def Port.restarted (p : Port) : Port := { p with up := false, seq := 0, farReady := false }

/-- A reset agent forgets the packets that it was sending (05 R107, 20 R400). -/
def State.forgetSent (s : State) (mine : Nat → Bool) : State :=
  { s with fabric := { s.fabric with sent := s.fabric.sent.filter fun p => !mine p.1 } }

/-- A port is reset: it forgets the packets that it was relaying, and the shared filter survives (20 R400). -/
def State.restartPort (s : State) (port : Nat) : State :=
  (s.forgetSent fun t => tagAgent t == 640 + port).setPort port (s.port port).restarted

/-- PORT_LINK_CHANGE (19 R385): loss of link resets the port (20 R400). -/
def execPortLinkChange (port : Nat) (up : Bool) (s : State) : Host.Outcome State Fault Refusal :=
  event s (if port < 12 then
      some (if up then s.setPort port { s.port port with up := true } else s.restartPort port)
    else none)

/-- PEER_ENTRY_FETCH_COMPLETE (19 R389): the cache holds 4,096 entries. -/
def execPeerEntryFetchComplete (pidx : Nat) (s : State) : Host.Outcome State Fault Refusal :=
  event s (if s.fabric.peerWait.contains pidx then
      some { s with fabric := { s.fabric with
        peerWait := s.fabric.peerWait.filter (· != pidx)
        peerCache := (pidx :: s.fabric.peerCache.filter (· != pidx)).take 4096 } }
    else none)

/-- A fabric packet as it arrives (19 R386). -/
structure Ingress where
  kind : Nat
  op : Nat
  age : Nat
  tag : Nat
  target : Nat
  landing : Nat
  len : Nat
  data : List Byte
  deriving DecidableEq, Repr

/-- Whether a tag names an agent that there is, and a slot that a core has (05 R107). -/
def tagLegal (t : Nat) : Bool :=
  let a := tagAgent t
  (decide (a < 640) && decide (tagSlot t ≤ 32)) || (decide (640 ≤ a) && decide (a < 652))
    || (decide (672 ≤ a) && decide (a < 688)) || (decide (704 ≤ a) && decide (a < 720))

/-- Whether a fabric header's OP is a code of 06 R146, and of an operation one that a `POST` at SYS has with an operand of its
length (05 R105, 09 R232). -/
def opLegal (kind op len : Nat) : Bool :=
  if kind = 0 then
    [0, 2, 3, 5, 11, 12, 13].contains op && (len == 4 || (len == 8 && decide (op ≤ 11)))
  else decide (op ≤ 13) && op != 10

/-- The packet of a UDP payload; none for another VER, a reserved KIND, OP or tag, a nonzero byte that is zero, or a wrong
length (00 R7; 19 R386; log 20). -/
def parseIngress (bs : List Byte) : Option Ingress :=
  let at_ := leAt bs
  let len := at_ 3 1
  if at_ 0 1 = 1 ∧ at_ 1 1 ≤ 3 ∧ len ≤ 64 ∧ at_ 6 2 = 0 ∧ (at_ 1 1 = 2 ∨ at_ 24 8 = 0)
      ∧ tagLegal (at_ 8 8) ∧ opLegal (at_ 1 1) (at_ 2 1) len
      ∧ bs.length = 32 + (if at_ 1 1 = 2 then 0 else len) then
    some { kind := at_ 1 1, op := at_ 2 1, age := at_ 4 2, tag := at_ 8 8, target := at_ 16 8, landing := at_ 24 8
           len := len, data := sliceBytes bs 32 (bs.length - 32) }
  else none

/-- Whether the port filter still keeps a key (19 R387). -/
def PortKey.kept (k : PortKey) (now : Nat) : Bool := decide (now < k.first + 3 * Config.lifeSystem)

/-- The request that a reply from a remote peer answers: the open leg with its landing address (log 20). -/
def State.legAt (s : State) (landing : Nat) : Nat :=
  ((s.fabric.legs.find? fun l => l.2.sys && l.2.landing == landing && !l.2.reported).map (·.1)).getD 0

/-- The packet that a port relays into the package with its own tag (19 R387).  An `op` byte is an operation
code; a MIN or MAX compares as `Config.remoteUnsigned` says (log 18); the size of a request is its LEN, or 4
where that is 0 (log 20). -/
def State.relay (s : State) (port sender : Nat) (x : Ingress) : State :=
  let (s1, tag) := s.nextTag (640 + port) 0
  let leg := s.legAt x.target
  let ctx := ((kget s.fabric.legs leg).map (·.ctx)).getD noContext
  let p : Packet :=
    { tag := tag, sys := true, target := x.target, data := x.data, poison := [], srcDie := 8, fromDev := none, toDev := none
      kind := if x.kind = 0 then .op else if x.kind = 2 then .request else .reply
      code := x.op + (if Config.remoteUnsigned then 16 else 0)
      landing := if x.kind = 2 then x.landing else 0
      size := if x.kind = 2 then (if x.len = 0 then 4 else x.len) else x.data.length
      request := if x.kind = 3 then leg else 0
      ctx := if x.kind = 3 then ctx else noContext
      peer := none, remote := none }
  let s2 := s1.sendPacket p
  { s2 with fabric := { s2.fabric with
      portKeys := { peer := sender, tag := x.tag, relay := tag, first := s.clock, acked := false }
        :: s2.fabric.portKeys.filter fun k => k.kept s.clock } }

/-- A packet that is no acknowledgement passes the shared filter of the ports (19 R387).  A port that may not send yet
relays no new packet, and the sender's next copy retries it (05 R107; log 17). -/
def State.portFilter (s : State) (port sender : Nat) (x : Ingress) : State :=
  match s.fabric.portKeys.find? fun k => k.peer == sender && k.tag == x.tag && k.kept s.clock with
  | some k => if k.acked then s.ackRemote sender x.tag else s
  | none =>
    if (s.fabric.portKeys.filter fun k => k.kept s.clock).length < Config.portFilterRoom ∧ (s.port port).farReady then
      s.relay port sender x
    else s

/-- A fabric packet from a sender (19 R386, R387, R389).  An acknowledgement is answered by none (log 102). -/
def State.ingress (s : State) (port sender : Nat) (x : Ingress) : Option State :=
  let strange (s : State) : State := s.post .peerAccess (640 + port) noContext [x.tag, x.target]
  if x.kind = 1 then
    if s.inboundFrom sender then some (s.acknowledge x.tag) else some (strange s)
  else if x.age = 0 then none
  else if s.inboundFrom sender && s.exported x.target then some (s.portFilter port sender x)
  else some (strange (s.ackRemote sender x.tag))

/-- PORT_INGRESS_PACKET (19 R385 to R387, R389): a UDP datagram from an IPv6 address. -/
def execPortIngressPacket (port sender : Nat) (packet : List (BitVec 8)) (s : State) :
    Host.Outcome State Fault Refusal :=
  event s (if port < 12 ∧ (s.port port).usable then
      ((udpPayload sender Config.moduleAddress packet).bind parseIngress).bind (s.ingress port sender)
    else none)

/-- PORT_RESET (20 R400): the port's link state; the shared filter survives. -/
def execPortReset (port : Nat) (s : State) : Host.Outcome State Fault Refusal :=
  event s (if port < 12 then some (s.restartPort port) else none)

end Sys2Proof.Machine
end

