-- ==== Sys2Proof/Machine/Mem.lean ====
section
/-! DEFINITION. Loads, stores, atomics and far operations as instructions (09 R218 to R235; 18 R375, R376, R381). -/

namespace Sys2Proof.Machine

open Sys2Proof

/-! ### Lanes, addresses, data -/

/-- The active lanes of the issuing instruction. -/
def View.lanes (v : View) : List Nat := lanesOf v.active v.width

/-- The lanes that access memory: the lowest active one of a uniform load, else every active lane (09 R222).  So
LANES of a uniform load's trap names that one lane (DESIGN CHOICE, log 119). -/
def View.accessLanes (v : View) (uniform : Bool) : List Nat := if uniform then v.lanes.take 1 else v.lanes

/-- Clear the address bits below a size (09 R221). -/
def alignTo (n a : Nat) : Nat := a / n * n

/-- Lanes with their addresses. -/
def View.laneAddrs (_ : View) (ls : List Nat) (f : Nat → Nat) : List (Nat × Nat) := ls.map fun l => (l, f l)

/-- The data bytes of a lane from the registers of D (06 R140, 09 R223). -/
def View.dataBytes (v : View) (d : BitVec 7) (n bytes l : Nat) : List Byte :=
  let x := ((v.dest d).regs n).foldr (fun r acc => acc * 2 ^ 32 + ((v.reg r).val.lane l).toNat) 0
  bytesOfNat bytes (x % 2 ^ (8 * bytes))

/-- The registers of D as operands. -/
def View.dOpnds (v : View) (d : BitVec 7) (n : Nat) : List Opnd :=
  ((v.dest d).regs n).map fun r => Opnd.ofReg (v.reg r) v.width

/-! ### Deterministic launches: buffered writes and check records (18 R375, R376, R381) -/

/-- Whether the issuing team runs deterministically. -/
def View.isDet (v : View) : Bool := v.team.det.isSome

/-- Change the deterministic part of the issuing team. -/
def State.modDet (s : State) (v : View) (f : DetTeam → DetTeam) : State :=
  s.modTeam v.who.core v.who.res fun t => { t with det := t.det.map f }

/-- The lane records that the issuing fibre has buffered. -/
def View.buffered (v : View) : Nat :=
  match v.team.det with
  | some d => ((d.buf.filter fun b => b.fibre == v.fib.num).map fun b => b.lanes.length).sum
  | none => 0

/-- Room for lane records, or the fibre stops (18 R376). -/
def View.bufferRoom (v : View) (n : Nat) : Except Stop Unit :=
  need (decide (v.buffered + n ≤ Config.bufferRoom)) .halt

/-- Records for the digests of a sampled team (18 R381). -/
def State.checkRecords (s : State) (v : View) (code : Nat) (recs : List (Nat × Nat × Nat × List Byte)) : State :=
  match v.team.det with
  | some d =>
    if d.sampled then
      s.modDet v fun d => { d with
        check := d.check ++ recs.map fun r =>
          { fibre := v.fib.num, va := r.2.1, code := code, lane := r.1, size := r.2.2.1, data := r.2.2.2 } }
    else s
  | none => s

/-- A write becomes outstanding, buffered where `buffer` says so of its lanes (18 R375): the lanes that are
not buffered are performed as usual. -/
def State.issueWrite (s : State) (v : View) (lm : Bool) (n : Nat) (kind : WriteKind) (dest : Dest)
    (xs : List LanePlace) (data : Nat → List Byte) (buffer : LanePlace → Bool) : State :=
  let held := if v.isDet then xs.filter buffer else []
  let now := if v.isDet then xs.filter fun x => !buffer x else xs
  let pages := pagesOf n xs
  if held = [] then s.addOp v 1 lm pages (.write kind (laneAccs now data) dest)
  else
    let key := (s.core v.who.core).nextOp
    let s1 := s.addOp v 1 lm pages (.write kind (laneAccs held data) dest)
    let s2 := s1.modDet v fun d => { d with
      buf := d.buf ++ [{ fibre := v.fib.num, op := key, kind := kind, lanes := laneAccs held data, va := held.map (·.va) }] }
    if now = [] then s2 else s2.addOp v noPath false pages (.write kind (laneAccs now data) .nothing)

/-! ### Loads (09 R222, R224) -/

/-- A load: its address operands and lane addresses, its bytes and the registers of D. -/
def loadWith (v : View) (s : State) (enc : Bool) (uses : List Use) (xs : List Opnd) (addr : Nat → Nat) (d : BitVec 7)
    (bytes : Nat) (fixed : Bool) : Except Stop State := do
  let n := loadRegs bytes
  let fm : Form := { uses := uses, d := some { field := d, n := n, fixed := fixed, reads := false, discard := true } }
  let uniform := xs.all fun x => x.shape == .u
  v.check fm enc okay (v.arrivalOk fm d n (if uniform then .u else .g))
  if v.active = 0 then .ok ((s.lastUses v fm).retire v)
  else do
    let ls ← s.xlatLanes v .load bytes (v.laneAddrs (v.accessLanes uniform) addr)
    v.needNear ls
    s.needUnlocked v false bytes ls
    needClean xs v.active
    v.pathRoom 0
    .ok (((s.lastUses v fm).addOp v 0 true (pagesOf bytes ls)
      (.load (laneAccs ls fun _ => []) (v.dest d) bytes (decide (modeType v.mode ≤ 3)) uniform)).retire v)

/-- LD (09 R222). -/
def execLd (y : Bool) (d : BitVec 7) (a : BitVec 9) (sz : BitVec 3) (off : BitVec 6) (s : State) :
    Host.Outcome State Fault Refusal :=
  issue y s fun v =>
    let ua := v.addrUse a .a
    let x := v.read ua none
    let bytes : Nat := 2 ^ sz.toNat
    loadWith v s (decide (sz.toNat ≤ 4)) [ua] [x] (v.address x ((off.toNat * bytes : Nat) : Int)) d bytes true

/-- The bytes of an `LDX` or `STX` under a MODE (09 R224). -/
def indexBytes (m : Word) : Nat :=
  match modeType m with
  | 0 => 1 | 4 => 1 | 1 => 2 | 5 => 2 | 8 => 2 | 9 => 2 | 3 => 8 | 7 => 8 | 11 => 8 | _ => 4

/-- The address of an `LDX` or `STX` in a lane: B is read as signed 32 bits (09 R218). -/
def View.indexAddr (v : View) (x b : Opnd) (l : Nat) : Nat :=
  v.address x ((b.lane l).setWidth 32 : Word).toInt l

/-- LDX (09 R224). -/
def execLdx (y : Bool) (d : BitVec 7) (a : BitVec 9) (b : BitVec 9) (s : State) : Host.Outcome State Fault Refusal :=
  issue y s fun v =>
    let ua := v.addrUse a .a
    let ub := wordUse b .b
    let x := v.read ua none
    let z := v.read ub none
    loadWith v s true [ua, ub] [x, z] (v.indexAddr x z) d (indexBytes v.mode) false

/-! ### Stores (09 R223, R224) -/

/-- A store of D. -/
def storeWith (v : View) (s : State) (enc : Bool) (code : Nat) (uses : List Use) (xs : List Opnd) (addr : Nat → Nat)
    (d : BitVec 7) (bytes : Nat) (fixed : Bool) : Except Stop State := do
  let n := loadRegs bytes
  let fm : Form := { uses := uses, d := some { field := d, n := n, fixed := fixed, reads := true, discard := false } }
  v.check fm enc okay okay
  if v.active = 0 then .ok ((s.lastUses v fm).retire v)
  else do
    let ls ← s.xlatLanes v .store bytes (v.laneAddrs v.lanes addr)
    v.needNear ls
    s.needUnlocked v true bytes ls
    needClean (xs ++ v.dOpnds d n) v.active
    v.pathRoom 1
    let outside := fun (x : LanePlace) => decide (Config.windowTop ≤ x.va)
    if v.isDet then v.bufferRoom (ls.filter outside).length else .ok ()
    let data := v.dataBytes d n bytes
    let s1 := (s.lastUses v fm).checkRecords v code
      ((ls.filter outside).map fun x => (x.lane, x.va, bytes, data x.lane))
    .ok ((s1.issueWrite v false bytes .store .nothing ls data outside).retire v)

/-- ST (09 R223). -/
def execSt (y : Bool) (d : BitVec 7) (a : BitVec 9) (sz : BitVec 3) (off : BitVec 6) (s : State) :
    Host.Outcome State Fault Refusal :=
  issue y s fun v =>
    let ua := v.addrUse a .a
    let x := v.read ua none
    let bytes : Nat := 2 ^ sz.toNat
    storeWith v s (decide (sz.toNat ≤ 4)) 0x31 [ua] [x] (v.address x ((off.toNat * bytes : Nat) : Int)) d bytes true

/-- STX (09 R224). -/
def execStx (y : Bool) (d : BitVec 7) (a : BitVec 9) (b : BitVec 9) (s : State) : Host.Outcome State Fault Refusal :=
  issue y s fun v =>
    let ua := v.addrUse a .a
    let ub := wordUse b .b
    let x := v.read ua none
    let z := v.read ub none
    storeWith v s true 0x33 [ua, ub] [x, z] (v.indexAddr x z) d (indexBytes v.mode) false

/-! ### Scopes and places of execution (05 R104, R105) -/

/-- Whether a near target lies in a scope's set (05 R104). -/
def State.scopeHolds (s : State) (v : View) (scope : Nat) (p : Place) : Bool :=
  match kindOf p.pa with
  | 0 => scope == 2
  | 1 =>
    let c := scratchCore p.pa
    if scope = 0 then (s.teamCores v.who.core v.who.res).contains c
    else if scope = 1 then c / 8 == v.who.core / 8
    else scope == 2
  | _ => false

/-- Whether an operand of `ATOM`, `CAS` and the value-carrying `POST`s is 64 bits wide (09 R226). -/
def atomWide (m : Word) : Bool := modeType m == 3 || modeType m == 7 || modeType m == 11

/-- Whether MIN and MAX compare without sign (09 R226). -/
def atomUnsigned (m : Word) : Bool := decide (4 ≤ modeType m) && decide (modeType m ≤ 7)

/-- The B operand of an atomic. -/
def atomUse (b : BitVec 9) (wide fixed : Bool) : Use := { field := b, pos := .b, n := if wide then 2 else 1, fixed := fixed }

/-- A lane's operand as bytes. -/
def operandBytes (x : Opnd) (wide : Bool) (l : Nat) : List Byte :=
  bytesOfNat (if wide then 8 else 4) ((x.lane l).toNat % 2 ^ (if wide then 64 else 32))

/-! ### ATOM and CAS (09 R228, R229) -/

/-- ATOM (09 R228). -/
def execAtom (y : Bool) (o : BitVec 4) (sc : BitVec 3) (a : BitVec 9) (b : BitVec 9) (s : State) :
    Host.Outcome State Fault Refusal :=
  issue y s fun v => do
    let code := o.toNat
    let fixed := decide (code = 9 ∨ code = 12 ∨ code = 13)
    let wide := atomWide v.mode && !fixed
    let n := if wide then 8 else 4
    let ua := v.addrUse a .a
    let ub := atomUse b wide fixed
    let x := v.read ua none
    let z := v.read ub (if code = 9 then some .f32 else none)
    let fm : Form := { uses := [ua, ub], d := none }
    v.check fm (decide (sc.toNat ≤ 4) && !(code == 10 || decide (14 ≤ code))) okay okay
    if v.active = 0 then .ok ((s.lastUses v fm).retire v)
    else do
      let ls ← s.xlatLanes v .atomic n (v.laneAddrs v.lanes fun l => alignTo n (v.address x 0 l))
      v.needNear ls
      needLanes .scope ls fun p => decide (sc.toNat ≤ 2) && decide (code ≤ 9) && p.places.all (s.scopeHolds v sc.toNat)
      s.needUnlocked v true n ls
      needClean [x, z] v.active
      v.pathRoom 1
      if v.isDet then v.bufferRoom ls.length else .ok ()
      let data := operandBytes z wide
      let s1 := (s.lastUses v fm).checkRecords v (0x34 + 256 * code) (ls.map fun p => (p.lane, p.va, n, data p.lane))
      let kind : WriteKind := .rmw { code := code, wide := wide, unsigned := atomUnsigned v.mode, cas := false } []
      .ok ((s1.issueWrite v true n kind .discard ls data fun _ => true).retire v)

/-- CAS (09 R229): a KIND 3 target lies in no unit's reach and raises SCOPE (DEDUCED, log 21). -/
def execCas (y : Bool) (d : BitVec 7) (a : BitVec 9) (b : BitVec 9) (s : State) : Host.Outcome State Fault Refusal :=
  issue y s fun v => do
    let wide := atomWide v.mode
    let n := if wide then 8 else 4
    let k := if wide then 2 else 1
    let ua := v.addrUse a .a
    let ub := atomUse b wide false
    let x := v.read ua none
    let z := v.read ub none
    let c := v.readD d k
    let fm : Form :=
      { uses := [ua, ub], d := some { field := d, n := k, fixed := false, reads := true, discard := false } }
    v.check fm true okay (v.arrivalOk fm d k .g)
    if v.active = 0 then .ok ((s.lastUses v fm).retire v)
    else do
      let ls ← s.xlatLanes v .atomic n (v.laneAddrs v.lanes fun l => alignTo n (v.address x 0 l))
      v.needNear ls
      needLanes .scope ls fun p => p.places.all fun q => decide (kindOf q.pa ≤ 1)
      s.needUnlocked v true n ls
      needClean [x, z, c] v.active
      v.pathRoom 1
      if v.isDet then v.bufferRoom ls.length else .ok ()
      let data := operandBytes z wide
      let s1 := (s.lastUses v fm).checkRecords v 0x35 (ls.map fun p => (p.lane, p.va, n, data p.lane))
      let kind : WriteKind :=
        .rmw { code := 7, wide := wide, unsigned := false, cas := true } (ls.map fun p => (p.lane, c.lane p.lane))
      .ok ((s1.issueWrite v true n kind (v.dest d) ls data fun _ => true).retire v)

/-! ### POST (09 R230 to R232) -/

/-- Whether a `POST` operation is allowed at a scope (05 R105). -/
def postAllowed (code scope : Nat) : Bool :=
  if 11 ≤ code then decide (2 ≤ scope)
  else if 3 ≤ scope then code == 0 || code == 2 || code == 3 || code == 5
  else true

/-- Whether a `POST`'s target lies in its scope's set (05 R104, R105; 01 R15). -/
def State.postHolds (s : State) (v : View) (code scope : Nat) (p : Place) : Bool :=
  let dies := s.contextDies v.team.ctx
  let inDevice := p.peer.isNone && kindOf p.pa == 0 && dies.contains (dieOf p.pa)
  if scope = 4 then p.peer.isSome || inDevice
  else if scope = 3 then inDevice && decide (dies.length ≠ 1)
  else if 11 ≤ code then kindOf p.pa == 0
  else s.scopeHolds v scope p

/-- Send one packet of an instruction with a given tag; a peer page leads to another device, to the ports, or
nowhere, which fails at once (19 R389, R390). -/
def State.sendTo (s : State) (p : Packet) (pl : Place) : State :=
  match pl.peer with
  | none => s.sendPacket { p with target := pl.pa }
  | some pidx =>
    match s.peerTarget p.ctx pidx pl.pa with
    | .invalid cause => s.fails { p with target := pl.pa } [cause]
    | _ => s.sendPacket { p with target := pl.pa, peer := some pidx }

/-- The tags of lanes in ascending order (09 R231). -/
def State.laneTags (s : State) (agent slot : Nat) : List LanePlace → State × List Nat
  | [] => (s, [])
  | _ :: ls =>
    let (s1, t) := s.nextTag agent slot
    let (s2, ts) := s1.laneTags agent slot ls
    (s2, t :: ts)

/-- The operation code in a packet: a MIN or MAX without sign is marked (log 18). -/
def postCode (code : Nat) (m : Word) : Nat := code + if atomUnsigned m then 16 else 0

/-- Send the packets of a far `POST`, one for each lane (09 R231). -/
def State.sendPosts (s : State) (v : View) (code : Nat) (sys : Bool) (data : Nat → List Byte) :
    List LanePlace → List Nat → State
  | x :: xs, t :: ts =>
    let s1 := s.sendTo
      { tag := t, sys := sys, kind := .op, code := postCode code v.mode, target := 0, landing := 0
        size := (data x.lane).length, data := data x.lane, poison := [], request := 0, ctx := v.team.ctx, peer := none
        remote := none, srcDie := v.who.core / 80, fromDev := none, toDev := none } (x.places.headD { pa := 0, peer := none })
    s1.sendPosts v code sys data xs ts
  | _, _ => s

/-- The address alignment and the bytes that a `POST` touches (09 R221, R232). -/
def postAlign (code n : Nat) : Nat := if code = 12 then 64 else if code = 13 then 16 else n
def postBytes (code n : Nat) : Nat := if code = 12 then 4 else if code = 13 then 16 else n

/-- POST (09 R230 to R232). -/
def execPost (y : Bool) (o : BitVec 4) (sc : BitVec 3) (a : BitVec 9) (b : BitVec 9) (s : State) :
    Host.Outcome State Fault Refusal :=
  issue y s fun v => do
    let code := o.toNat
    let scope := sc.toNat
    let fixed := decide (code = 9 ∨ code = 12 ∨ code = 13)
    let wide := atomWide v.mode && !fixed
    let n := if wide then 8 else 4
    let ua := v.addrUse a .a
    let ub := atomUse b wide fixed
    let x := v.read ua none
    let z := v.read ub (if code = 9 ∨ code = 13 then some .f32 else none)
    let fm : Form := { uses := [ua, ub], d := none }
    v.check fm (decide (scope ≤ 4) && !(code == 7 || code == 10 || decide (14 ≤ code))) okay okay
    if v.active = 0 then .ok ((s.lastUses v fm).retire v)
    else do
      let bytes := postBytes code n
      let ls ← s.xlatLanes v .store bytes (v.laneAddrs v.lanes fun l => alignTo (postAlign code n) (v.address x 0 l))
      let far := decide (3 ≤ scope)
      if far then .ok () else v.needNear ls
      needLanes .scope ls fun p => postAllowed code scope && p.places.all (s.postHolds v code scope)
      if far then .ok () else s.needUnlocked v true bytes ls
      needClean [x, z] v.active
      let data := operandBytes z wide
      let s1 := (s.lastUses v fm).checkRecords v (0x36 + 256 * code) (ls.map fun p => (p.lane, p.va, n, data p.lane))
      if far then do
        v.pathRoom 2
        need (v.core.farReady && !s.acquiring v) .stall
        let (s2, tags) := s1.laneTags v.who.core v.who.slot ls
        let s3 := s2.addOp v 2 false (pagesOf bytes ls) (.far tags)
        .ok ((s3.sendPosts v code (decide (scope = 4)) data ls tags).retire v)
      else do
        v.pathRoom 1
        let buffer := decide (code = 9 ∨ code = 8 ∨ code = 11)
        if v.isDet && buffer then v.bufferRoom ls.length else .ok ()
        if 11 ≤ code then
          let (s2, tags) := s1.laneTags v.who.core v.who.slot ls
          .ok ((s2.issueWrite v false bytes (.region code tags) .nothing ls data fun _ => buffer).retire v)
        else
          let kind : WriteKind := .rmw { code := code, wide := wide, unsigned := atomUnsigned v.mode, cas := false } []
          .ok ((s1.issueWrite v false bytes kind .nothing ls data fun _ => buffer).retire v)

/-! ### FETCH (09 R233 to R235) -/

/-- Send the requests of a `FETCH`, and open their legs (09 R234). -/
def State.sendFetches (s : State) (v : View) (n : Nat) : List (LanePlace × LanePlace) → List Nat → State
  | (x, l) :: xs, t :: ts =>
    let src := x.places.headD { pa := 0, peer := none }
    let land := (l.places.map (·.pa)).headD 0
    let s1 := s.sendTo
      { tag := t, sys := src.peer.isSome, kind := .request, code := 0, target := 0, landing := land, size := n, data := []
        poison := [], request := 0, ctx := v.team.ctx, peer := none, remote := none, srcDie := v.who.core / 80, fromDev := none
        toDev := none } src
    let s2 : State := { s1 with fabric := { s1.fabric with
      legs := kset s1.fabric.legs t
        { core := v.who.core, first := s.clock, sys := src.peer.isSome, ctx := v.team.ctx, landing := land
          reported := false } } }
    s2.sendFetches v n xs ts
  | _, _ => s

/-- FETCH (09 R233). -/
def execFetch (y : Bool) (z : BitVec 3) (a : BitVec 9) (b : BitVec 9) (s : State) : Host.Outcome State Fault Refusal :=
  issue y s fun v => do
    let n := 4 * 2 ^ z.toNat
    let ua := v.addrUse a .a
    let ub := v.addrUse b .b
    let x := v.read ua none
    let w := v.read ub none
    let fm : Form := { uses := [ua, ub], d := none }
    v.check fm (decide (z.toNat ≤ 4)) okay okay
    if v.active = 0 then .ok ((s.lastUses v fm).retire v)
    else do
      let src ← s.xlatLanes v .load n (v.laneAddrs v.lanes fun l => alignTo n (v.address x 0 l))
      let land ← s.xlatLanes v .store n (v.laneAddrs v.lanes fun l => alignTo n (v.address w 0 l))
      let dies := s.contextDies v.team.ctx
      v.needNear land
      needLanes .scope src fun p =>
        p.places.all fun q => q.peer.isSome || (kindOf q.pa == 0 && dies.contains (dieOf q.pa))
      needLanes .scope land fun p => p.places.all fun q => kindOf q.pa == 0
      needClean [x, w] v.active
      v.pathRoom 2
      need (v.core.farReady && !s.acquiring v) .stall
      let s1 := (s.lastUses v fm).checkRecords v 0x37 (src.map fun p => (p.lane, p.va, n, []))
      let (s2, tags) := s1.laneTags v.who.core v.who.slot src
      let s3 := s2.addOp v 2 false (pagesOf n (src ++ land)) (.far tags)
      .ok ((s3.sendFetches v n (src.zip land) tags).retire v)

/-! ### What a near access does when it is performed, and what it returns -/

/-- Perform the lanes of a write in ascending order: the state, and the old values (09 R220, R228). -/
def performLanes (ctx : Nat) (kind : WriteKind) : List (LaneAcc × Nat) → State → State × List (Nat × DWord × Bool)
  | [], s => (s, [])
  | (l, tag) :: ls, s =>
    match kind with
    | .store => performLanes ctx kind ls (s.writeBytes true l.pas l.data)
    | .rmw r cmp =>
      let (s1, old, bad) := s.rmwAt ctx r l.pas (BitVec.ofNat 64 (leNat l.data)) (kgetD cmp l.lane 0)
      let (s2, olds) := performLanes ctx kind ls s1
      (s2, (l.lane, old, bad) :: olds)
    | .region code _ => performLanes ctx kind ls (s.regionOp code ctx tag (l.pas.headD 0) l.data).1

/-- The tags of a write's lanes. -/
def WriteKind.tags (k : WriteKind) (n : Nat) : List Nat :=
  match k with
  | .region _ tags => tags
  | _ => List.replicate n 0

/-- A write is performed at DIE: it has returned, and an old value starts on its way back (05 R121, 09 R228). -/
def State.performWrite (s : State) (n key ctx : Nat) (o : Op) (kind : WriteKind) (ls : List LaneAcc) (d : Dest) : State :=
  let (s1, olds) := performLanes ctx kind (ls.zip (kind.tags ls.length)) s
  match kind with
  | .rmw r _ =>
    if d = .nothing then s1.opReturn n key
    else
      let back : Op := { o with path := noPath, body := .oldValue olds d r.wide, done := false }
      (s1.opReturn n key).modCore n fun c => { c with ops := kset c.ops c.nextOp back, nextOp := c.nextOp + 1 }
  | _ => s1.opReturn n key

/-- The context that an outstanding access runs in. -/
def State.opCtx (s : State) (n : Nat) (o : Op) : Nat := ((s.team n o.res).map (·.ctx)).getD noContext

/-! ### Delivery (03 R63, R68 to R70, R405) -/

/-- Write lanes of the `k`-th register of a destination. -/
def State.giveLanes (s : State) (n r slot : Nat) (act : Mask) (d : Dest) (k : Nat) (f : Nat → Word) (poison : Mask) : State :=
  match s.team n r, s.fibre n r slot with
  | some t, some g =>
    match d with
    | .v i => s.setV n r slot t.hdr (i + k) ((getV t.hdr (s.res n r) slot g (i + k)).writeLanes t.hdr.width act f poison)
    | .o i => s.setO n r slot t.hdr (i + k) ((getO t.hdr g (i + k)).writeLanes t.hdr.width act f poison)
    | _ => s
  | _, _ => s

/-- The `k`-th register of a destination. -/
def Dest.plus (d : Dest) (k : Nat) : Dest :=
  match d with
  | .v i => .v (i + k)
  | .o i => .o (i + k)
  | x => x

/-- Write `lm` in the lanes of an access that no younger return has written, and keep older ones off them (03 R63). -/
def State.giveLm (s : State) (n : Nat) (o : Op) (f : Nat → DWord) (poison : Mask) : State :=
  let s1 := s.modFibre n o.res o.slot fun g =>
    { g with regs := { g.regs with
        lm := latchWrite g.regs.lm.length g.regs.lm o.lm f
        lmPoison := (g.regs.lmPoison &&& ~~~o.lm) ||| (poison &&& o.lm) } }
  s1.modCore n fun c => { c with
    ops := c.ops.map fun p =>
      if p.2.seq < o.seq ∧ p.2.res = o.res ∧ p.2.slot = o.slot then (p.1, { p.2 with lm := p.2.lm &&& ~~~o.lm }) else p }

/-- The value of a load's lane: narrow sizes extended to 32 bits (09 R222). -/
def loadValue (bytes : Nat) (signed : Bool) (bs : List Byte) : Nat :=
  let x := leNat bs
  if bytes < 4 ∧ signed then ofInt 32 (toSigned (8 * bytes) x) else x

/-- A load's data arrives: D, `lm`, and its return (09 R222, 03 R63). -/
def State.finishLoad (s : State) (n key : Nat) (o : Op) (ls : List LaneAcc) (d : Dest) (bytes : Nat)
    (signed uniform : Bool) : State :=
  let vals := ls.map fun l => (l.lane, loadValue bytes signed (s.loadBytes n o l.pas), s.seesPoison n o.res o.fibre o.seq l.pas)
  let first := vals.headD (0, 0, false)
  let val := fun l => if uniform then first.2.1 else (kgetD vals l (0, false)).1
  let bad := fun l => if uniform then first.2.2 else (kgetD vals l (0, false)).2
  let poison := maskOf 64 bad
  let word := fun (k l : Nat) => BitVec.ofNat 32 (val l / 2 ^ (32 * k))
  let s1 := (List.range (loadRegs bytes)).foldl (fun s k =>
    if uniform then s.giveUniform n o.res o.slot o.active (d.plus k) (word k 0) first.2.2
    else s.giveLanes n o.res o.slot o.active d k (word k) poison) s
  let s2 : State := if ls.any fun l => kindOf (l.pas.headD 0) == 3 then { s1 with free := s1.free + 1 } else s1
  (s2.giveLm n o (fun l => BitVec.ofNat 64 (val l)) poison).opReturn n key

/-- An old value arrives (09 R228, R229). -/
def State.finishOld (s : State) (n key : Nat) (o : Op) (vals : List (Nat × DWord × Bool)) (d : Dest) (wide : Bool) : State :=
  let val := fun l => (kgetD vals l (0, false)).1
  let poison := maskOf 64 fun l => (kgetD vals l (0, false)).2
  let s1 := (List.range (if wide then 2 else 1)).foldl (fun s k =>
    s.giveLanes n o.res o.slot o.active d k (fun l => (val l).extractLsb' (32 * k) 32) poison) s
  (s1.giveLm n o val poison).opReturn n key

end Sys2Proof.Machine
end

