-- ==== Sys2Proof/Machine/Sync.lean ====
section
/-! DEFINITION. Barriers, monitors, fences and waits (02 R30, R43; 08 R212 to R217; 09 R236 to R241). -/

namespace Sys2Proof.Machine

open Sys2Proof

/-! ### Team barriers (02 R43, 08 R212, R213) -/

/-- A field of an operand word. -/
def bits (x : Word) (lo n : Nat) : Nat := (x.extractLsb' lo n).toNat

/-- Write a status to D as a value that arrives (03 R405). -/
def State.putStatus (s : State) (v : View) (d : BitVec 7) (x : Word) : State :=
  s.giveUniform v.who.core v.who.res v.who.slot v.active (v.dest d) x false

/-- The form of an instruction with a U operand word and perhaps a status in D. -/
def wordForm (a : BitVec 9) (d : Option (BitVec 7)) : Form :=
  { uses := [wordUse a .a], d := d.map fun d => { dUse d 1 false with fixed := true } }

/-- The checks of an instruction with a U operand word and perhaps a status in D: the word, and the state
after its last uses.  A word that is not `legal` is ILL, which comes before POISON (06 R151, 17 R369). -/
def wordOperand (v : View) (s : State) (a : BitVec 9) (d : Option (BitVec 7)) (late : Bool) (legal : Word → Bool) :
    Except Stop (State × Word) := do
  let x := v.read (wordUse a .a) none
  let fm := wordForm a d
  let arrival := match d with
    | some d => if late then v.arrivalOk fm d 1 .u else okay
    | none => okay
  v.check fm true okay (do needU x a; arrival)
  need (legal ((x.lane 0).setWidth 32)) illState
  needClean [x] (fullMask v.width)
  .ok (s.lastUses v fm, (x.lane 0).setWidth 32)

/-- Whether an operand names a barrier: no nonzero field, an id below BARS (08 R212). -/
def View.barLegal (v : View) (x : Word) : Bool := bits x 5 27 == 0 && decide (bits x 0 5 < v.team.hdr.bars)

/-- Whether an access of the fibre to scratchpad is still to be performed, a buffered one apart: an arrive
waits for it (05 R130). -/
def View.scratchPending (v : View) (s : State) : Bool :=
  v.core.ops.any fun p => !p.2.done && p.2.res == v.who.res && p.2.slot == v.who.slot
    && !s.isBuffered v.who.core p.1 p.2 && match p.2.body.near with
      | some (pas, _) => pas.any fun a => kindOf a == 1
      | none => false

/-- BINIT (02 R43, 08 R212). -/
def execBinit (y : Bool) (a : BitVec 9) (s : State) : Host.Outcome State Fault Refusal :=
  issue y s fun v => do
    let (s1, x) ← wordOperand v s a none false fun x => bits x 5 3 == 0 && decide (bits x 0 5 < v.team.hdr.bars)
    let b : Barrier := { state := .armed, count := bits x 8 12, reload := bits x 20 12, pend := [] }
    .ok ((s1.retire v).barRelease v.who.core v.who.res (bits x 0 5) b)

/-- BARV (02 R43). -/
def execBarv (y : Bool) (a : BitVec 9) (s : State) : Host.Outcome State Fault Refusal :=
  issue y s fun v => do
    let (s1, x) ← wordOperand v s a none false v.barLegal
    let id := bits x 0 5
    need (!v.scratchPending s) .stall
    .ok (match (s.bar v.who.core v.who.res id).state with
      | .armed => (s1.retire v).barArrive v.who.core v.who.res id v.fib.num
      | .consumed => s1.waitOn v (.barrier id true false .nothing)
      | _ => s1.retire v)

/-- BWAIT (02 R43). -/
def execBwait (y : Bool) (d : BitVec 7) (a : BitVec 9) (s : State) : Host.Outcome State Fault Refusal :=
  issue y s fun v => do
    let (s1, x) ← wordOperand v s a (some d) true v.barLegal
    let id := bits x 0 5
    let b := s.bar v.who.core v.who.res id
    .ok (match b.state with
      | .armed =>
        if b.pend.contains v.fib.num then s1.waitOn v (.barrier id false true (v.dest d))
        else (s1.putStatus v d 0).retire v
      | .consumed => ((s1.putStatus v d 0).retire v).barLeave v.who.core v.who.res id v.fib.num
      | _ => (s1.putStatus v d 1).retire v)

/-- BSYNC (02 R43): an arrive, then a wait. -/
def execBsync (y : Bool) (d : BitVec 7) (a : BitVec 9) (s : State) : Host.Outcome State Fault Refusal :=
  issue y s fun v => do
    let (s1, x) ← wordOperand v s a (some d) true v.barLegal
    let id := bits x 0 5
    need (!v.scratchPending s) .stall
    .ok (match (s.bar v.who.core v.who.res id).state with
      | .armed =>
        (s1.waitOn v (.barrier id false true (v.dest d))).barArrive v.who.core v.who.res id v.fib.num
      | .consumed => s1.waitOn v (.barrier id true true (v.dest d))
      | _ => (s1.putStatus v d 1).retire v)

/-- Whether an access of the issuing fibre is still to write a register of the shared window. -/
def View.windowPending (v : View) (p : Nat × Op) : Bool :=
  !p.2.done && p.2.res == v.who.res && p.2.slot == v.who.slot && p.2.body.writes.any fun r =>
    match r with
    | .v i => v.team.hdr.inWindow i
    | _ => false

/-- FBAR (02 R30, 08 R215): it waits for the fibre's writes of window registers, for they are visible once it completes (02 R29;
DEDUCED, log 112), to the end of the epoch for one that a deterministic launch has buffered. -/
def execFbar (y : Bool) (a : BitVec 9) (s : State) : Host.Outcome State Fault Refusal :=
  issue y s fun v => do
    let (s1, x) ← wordOperand v s a none false fun x => bits x 4 28 == 0 && x.getLsbD (posOf v.who.slot)
    need (!v.core.ops.any fun p => v.windowPending p && s.isBuffered v.who.core p.1 p.2) .halt
    need (!v.core.ops.any v.windowPending) .stall
    .ok ((s1.waitOn v (.fbar (bits x 0 4))).fbarSettle v.who.core v.who.res (spindleKey v.who.slot))

/-- STATE of a barrier (08 R213). -/
def BarState.code : BarState → Nat
  | .free => 0 | .armed => 1 | .consumed => 2 | .abandoned => 3

/-- What `BQRY` writes (08 R213). -/
def Barrier.query (b : Barrier) (fnum : Nat) : Word :=
  BitVec.ofNat 32 (b.state.code + 4 * bitNat (b.pend.contains fnum) + 256 * b.count + 2 ^ 20 * b.reload)

/-- BQRY (08 R213). -/
def execBqry (y : Bool) (d : BitVec 7) (a : BitVec 9) (s : State) : Host.Outcome State Fault Refusal :=
  issue y s fun v => do
    let (_, x) ← wordOperand v s a (some d) false v.barLegal
    let id := bits x 0 5
    s.finishPlain v (wordForm a (some d)) d
      (Result.narrow (Value.uni ((s.bar v.who.core v.who.res id).query v.fib.num) false))

/-! ### Monitors (08 R216, R217) -/

/-- Entries of a residency's monitor table (01 R17, 15 R315). -/
def Core.monRoom (c : Core) : Nat := if c.dual then 16 else 32

/-- How many entries of a residency's monitor table are armed: the `MON`s that wait, and that no write has ended. -/
def State.armed (s : State) (n r : Nat) : Nat :=
  ((s.res n r).slots.filter fun p => match p.2.wait with
    | some ⟨_, .mon _ _ _ _⟩ => p.2.status == .waiting && (s.metAt n r p.1).isNone
    | _ => false).length

/-- The aligned word at a physical address. -/
def State.wordAt (s : State) (pa : Nat) : Nat := leNat ((span pa 4).map s.loadByte)

/-- MON (08 R216); a deterministic launch reads the word at the end of an epoch alone (18 R378). -/
def execMon (y : Bool) (d : BitVec 7) (a : BitVec 9) (b : BitVec 9) (s : State) : Host.Outcome State Fault Refusal :=
  issue y s fun v => do
    let ua := v.addrUse a .a
    let ub := wordUse b .b
    let x := v.read ua none
    let z := v.read ub none
    let fm : Form := { uses := [ua, ub], d := some { dUse d 1 false with fixed := true } }
    v.check fm true okay (do needU x a; needU z b; v.arrivalOk fm d 1 .u)
    let s1 := s.lastUses v fm
    if v.active = 0 then .ok ((s1.putStatus v d 1).retire v)
    else do
      let ls ← s.xlatLanes v .load 4 (v.laneAddrs (v.accessLanes true) fun l => alignTo 4 (v.address x 0 l))
      v.needNear ls
      s.needUnlocked v false 4 ls
      needClean [x, z] v.active
      if v.core.monRoom ≤ s.armed v.who.core v.who.res then .ok ((s1.putStatus v d 2).retire v)
      else do
        let pas := (ls.flatMap (·.places)).map (·.pa)
        let pa := pas.headD 0
        let value : Word := (z.lane 0).setWidth 32
        let wait : State :=
          (s1.forgetMet v.who.core v.who.res v.who.slot).waitOn v (.mon pa ((ls.map (·.va)).headD 0) value (v.dest d))
        if v.isDet then .ok wait
        else do
          need (!s.mustWait v pas) .stall
          need (!s.poisoned pas) (.trap (Trap.plain .poison 0))
          .ok (if value.toNat ≤ s.wordAt pa then (s1.putStatus v d 0).retire v else wait)

/-- A monitor is evaluated: released with status 0 where a write has ended it or its word is at the value now, its fibre
killed where the word that it read is poisoned (08 R216, 17 R363). -/
def State.evalMon (s : State) (n r slot : Nat) : Option State :=
  match s.fibre n r slot with
  | some f =>
    match f.wait with
    | some ⟨p, .mon pa _ value _⟩ =>
      if f.status ≠ .waiting then none
      else if (s.metAt n r slot).getD (s.poisoned [pa]) then
        some ((s.forgetMet n r slot).trapAt n r slot p (Trap.plain .poison 0))
      else if (s.metAt n r slot).isSome || decide (value.toNat ≤ s.wordAt pa) then
        some ((s.forgetMet n r slot).resume n r slot 0)
      else none
    | _ => none
  | none => none

/-- MONITOR_REEVALUATE (08 R216): not in a deterministic launch (18 R378). -/
def execMonitorReevaluate (core res slot : Nat) (s : State) : Host.Outcome State Fault Refusal :=
  event s (if s.isDet core res then none else s.evalMon core res slot)

/-! ### Tokens (09 R236 to R240, 11 R276) -/

/-- Entries of a residency's dependency table (11 R275). -/
def Core.depRoom (c : Core) : Nat := if c.dual then 32 else 64

/-- Whether a token has no reserved bit and names an entry that the core has (09 R236, 11 R273, R276). -/
def tokenLegal (c : Core) (t : Word) : Bool :=
  match bits t 30 2 with
  | 0 => bits t 0 30 == 0
  | 1 => bits t 24 6 == 0
  | 2 => decide (bits t 16 14 < c.depRoom)
  | _ => false

/-- A fence slot that no fence has taken. -/
def FenceSlot.fresh : FenceSlot := { gen := 0, busy := none }

/-- A dependency-table entry that no command has taken. -/
def DepEntry.fresh : DepEntry := { state := .free, gen := 0, cmd := none }

/-- Whether a token is complete on a residency (09 R237, 11 R276). -/
def Residency.tokenDone (r : Residency) (t : Word) : Bool :=
  match bits t 30 2 with
  | 1 =>
    let f := kgetD r.fences (8 * bits t 19 5 + bits t 16 3) FenceSlot.fresh
    !(f.busy.isSome && f.gen == bits t 0 16)
  | 2 =>
    let e := kgetD r.deps (bits t 16 14) DepEntry.fresh
    !(e.state != .free && e.gen == bits t 0 16)
  | _ => true

/-- Complete every `WAITT` of a residency whose token is complete; a deterministic launch waits for its epoch's end. -/
def State.wakeTokens (s : State) (n r : Nat) : State :=
  if s.isDet n r then s
  else (s.res n r).slots.foldl (fun s p =>
    match p.2.wait with
    | some ⟨_, .token t⟩ => if p.2.status = .waiting ∧ (s.res n r).tokenDone t then s.resume n r p.1 0 else s
    | _ => s) s

/-- HELD commands whose inputs are complete become READY (11 R275). -/
def State.promoteDeps (s : State) (n r : Nat) : State :=
  s.modRes n r fun res => { res with
    deps := res.deps.map fun p =>
      match p.2.state, p.2.cmd with
      | .held, some c =>
        if res.tokenDone (BitVec.ofNat 32 (leAt c.desc 0 4)) && res.tokenDone (BitVec.ofNat 32 (leAt c.desc 4 4)) then
          (p.1, { p.2 with state := .ready, cmd := some { c with readyAt := s.clock } })
        else p
      | _, _ => p }

/-- A token of a residency has completed: commands and fibres that waited for it go on. -/
def State.tokenEnds (s : State) (n r : Nat) : State := (s.promoteDeps n r).wakeTokens n r

/-- WAITT (09 R240). -/
def execWaitt (y : Bool) (a : BitVec 9) (s : State) : Host.Outcome State Fault Refusal :=
  issue y s fun v => do
    let (s1, t) ← wordOperand v s a none false (tokenLegal v.core)
    .ok (if !v.isDet && v.res.tokenDone t then s1.retire v else s1.waitOn v (.token t))

/-- WAITC (09 R241). -/
def execWaitc (y : Bool) (a : BitVec 9) (p : BitVec 3) (s : State) : Host.Outcome State Fault Refusal :=
  issue y s fun v => do
    need (decide (p.toNat ≤ 5)) illEncoding
    let (s1, t) ← wordOperand v s a none false fun _ => true
    .ok (if !v.isDet && decide (v.fib.spec.ctr.get p.toNat ≤ t.toNat) then s1.retire v
      else s1.waitOn v (.counter p.toNat t.toNat))

/-- The path that an access counts on for a fence: the unbuffered part of a split store is a store's. -/
def Op.fencePath (o : Op) : Nat :=
  match o.path, o.body with
  | 7, .write _ _ _ => 1
  | p, _ => p

/-- The accesses that a fence captures (05 R120). -/
def View.captured (v : View) (paths : BitVec 6) : List Nat :=
  (v.core.ops.filter fun p => !p.2.done && p.2.res == v.who.res && p.2.slot == v.who.slot
    && decide (p.2.fencePath < 6) && paths.getLsbD p.2.fencePath).map (·.1)

/-- The lowest free fence slot of the issuing fibre's slot (09 R237). -/
def View.freeFence (v : View) : Option Nat :=
  (List.range 8).find? fun k => (kgetD v.res.fences (8 * v.who.slot + k) FenceSlot.fresh).busy.isNone

/-- The token of a fence (09 R236). -/
def fenceToken (slot k gen : Nat) : Word := BitVec.ofNat 32 (2 ^ 30 + slot * 2 ^ 19 + k * 2 ^ 16 + gen)

/-- FENCE (09 R237, R239). -/
def execFence (y : Bool) (d : BitVec 7) (p : BitVec 6) (sc : BitVec 3) (s : State) : Host.Outcome State Fault Refusal :=
  issue y s fun v => do
    let fm : Form := { uses := [], d := some { dUse d 1 false with fixed := true } }
    v.check fm (decide (sc.toNat ≤ 4)) okay okay
    if p = 0 then s.finishPlain v fm d (Result.narrow (Value.uni 0 false))
    else
      match v.freeFence with
      | none => .error .stall
      | some k =>
        let key := 8 * v.who.slot + k
        let gen := ((kgetD v.res.fences key FenceSlot.fresh).gen + 1) % 2 ^ 16
        let caught := v.captured p
        let slot : FenceSlot := { gen := gen, busy := if caught = [] then none else some caught }
        (s.modRes v.who.core v.who.res fun r => { r with fences := kset r.fences key slot }).finishPlain v fm d
          (Result.narrow (Value.uni (fenceToken v.who.slot k gen) false))

/-- FENCE_COMPLETE (09 R237). -/
def execFenceComplete (core res slot fslot : Nat) (s : State) : Host.Outcome State Fault Refusal :=
  event s (
    let key := 8 * slot + fslot
    let f := kgetD (s.res core res).fences key FenceSlot.fresh
    match f.busy with
    | some ids =>
      if ids.all fun k => ((s.op core k).map (·.done)).getD true then
        some ((s.modRes core res fun r => { r with fences := kset r.fences key { f with busy := none } }).tokenEnds core res)
      else none
    | none => none)

end Sys2Proof.Machine
end

