-- ==== Sys2Proof/Machine/Matrix.lean ====
section
/-! DEFINITION. The matrix engine: accumulator tiles, side memory, `MMA` and its gangs, and `MXF` (10 R243 to R267). -/

namespace Sys2Proof.Machine

open Sys2Proof

/-! ### Tiles (10 R243, R244) -/

/-- A tile that reads as zero. -/
def Tile.zero : Tile := { live := false, cells := [], poison := [] }

/-- A fibre's tile. -/
def Fibre.tile (f : Fibre) (t : Nat) : Tile := f.regs.tiles.getD t Tile.zero

/-- The 1,024 cells of a tile (10 R243, R244). -/
def Tile.image (t : Tile) : List Word :=
  if t.live then (List.range 1024).map fun c => t.cells.getD c 0 else List.replicate 1024 0

/-- A cell. -/
def Tile.cell (t : Tile) (c : Nat) : Word := if t.live then t.cells.getD (c % 1024) 0 else 0

/-- Whether a cell is poisoned (17 R362). -/
def Tile.bad (t : Tile) (c : Nat) : Bool := t.poison.contains (c % 1024)

/-- Replace a tile of a slot. -/
def State.setTile (s : State) (n r slot t : Nat) (x : Tile) : State :=
  s.modFibre n r slot fun f => { f with regs := { f.regs with tiles := setAt f.regs.tiles t x fun _ => Tile.zero } }

/-- Whether a tile of the issuing fibre awaits a write: of an `MMA`, started or arrived, or of a `TLD` (10 R259). -/
def View.tileBusy (v : View) (t : Nat) : Bool :=
  (v.res.mmas.any fun p => p.2.shares.any fun h => h.slot == v.who.slot && h.tile == t)
    || (v.res.latches.any fun p => p.2.arrived.any fun a => a.slot == v.who.slot && a.tile == t)
    || (v.core.ops.any fun p => !p.2.done && p.2.res == v.who.res && p.2.slot == v.who.slot &&
      (match p.2.body with | .tileLoad u _ => u == t | _ => false))

/-- ILL under a clear FLAGS [1] (06 R157, 10 R250). -/
def View.needMatrix (v : View) : Except Stop Unit := need (v.team.hdr.flags.getLsbD 1) illState

/-- The tile that a D field names, in the issuing ply's pass: ILL at or above TILES (10 R243). -/
def View.needTile (v : View) (t : BitVec 4) : Except Stop Unit :=
  need (decide (v.tileIndex t.toNat < v.team.hdr.tiles)) illState

/-- A tile that is at hand. -/
def View.freeTile (v : View) (t : Nat) : Except Stop Unit := need (!v.tileBusy t) .stall

/-! ### The side memory (10 R246 to R248) -/

/-- ILL for a slot that the residency does not have. -/
def View.needSlot (v : View) : Except Stop Unit :=
  need (!v.core.dual || decide (fmtSslot v.fib.spec.fmt < 8)) illState

/-- The scale of a row and a scale group (10 R247). -/
def scaleAt (slot : List Word) (m g : Nat) : Word := slot.getD (16 * m + g) 0

/-- The 128 metadata bits of a row (10 R248). -/
def metaRow (slot : List Byte) (m : Nat) : Nat := leAt slot (16 * m) 16

/-- The dense position of a kept value (10 R248). -/
def keptPos (spar row j : Nat) : Nat :=
  if spar = 1 then j / 2 * 4 + row / 2 ^ (4 * (j / 2) + 2 * (j % 2)) % 4
  else if spar = 2 then 4 * j + row / 2 ^ (2 * j) % 4
  else j

/-! ### Forms (10 R249, R250) -/

/-- What the cells hold and how products are formed. -/
inductive MmaKind where
  | float (f acc : Fmt)
  | planes (bf16 wrap : Bool)
  deriving DecidableEq, Repr

/-- A row of 10 R249. -/
structure MmaForm where
  kind : MmaKind
  spar : Nat
  cols : Nat
  k : Nat
  aBytes : Nat
  bBytes : Nat
  cycles : Nat
  deriving DecidableEq, Repr

/-- The form that MODE and FMT select; none where no row matches. -/
def mmaForm (m f : Word) : Option MmaForm :=
  let sp := fmtSpar f
  let p := fmtPlanes f
  match modeType m with
  | 11 => if sp = 0 ∧ fmtAcc f = 0 then
      some { kind := .float .f64 .f64, spar := 0, cols := 16, k := 8, aBytes := 2048, bBytes := 1024, cycles := 32 }
    else none
  | 10 => if sp = 0 ∧ fmtAcc f = 0 then
      some { kind := .float .f32 .f32, spar := 0, cols := 32, k := 16, aBytes := 2048, bBytes := 2048, cycles := 64 }
    else none
  | 0 =>
    if fmtAct f = 0 ∧ sp ≤ 1 then
      some { kind := .planes false (fmtAcc f == 1), spar := sp, cols := 32, k := 64 * 2 ^ sp, aBytes := 256 * p
             bBytes := 2048 * 2 ^ sp, cycles := 4 * p }
    else if fmtAct f = 1 ∧ sp = 0 ∧ fmtAcc f = 0 then
      some { kind := .planes true false, spar := 0, cols := 32, k := 64, aBytes := 256 * p, bBytes := 4096, cycles := 8 * p }
    else none
  | t =>
    if (t = 8 ∨ t = 9) ∧ fmtAcc f = 0 then
      some { kind := .float (if t = 8 then .f16 else .bf16) .f32, spar := sp, cols := 32, k := 32 * 2 ^ sp, aBytes := 2048
             bBytes := 2048 * 2 ^ sp, cycles := 32 }
    else none

/-- Whether a form reads a scale slot or a metadata slot (10 R247, R248). -/
def MmaForm.readsSlot (f : MmaForm) : Bool :=
  f.spar != 0 || (match f.kind with | .planes _ wrap => !wrap | .float _ _ => false)

/-! ### Exact values -/

/-- An exact product.  A product of 0 and a negative number is -0, of integers too (DESIGN CHOICE, log 51). -/
def mulExact (a b : FVal) : FVal :=
  match a, b with
  | .nan _, _ => .nan false
  | _, .nan _ => .nan false
  | .inf x, .inf y => .inf (x != y)
  | .inf x, .fin y m _ => if m = 0 then .nan false else .inf (x != y)
  | .fin x m _, .inf y => if m = 0 then .nan false else .inf (x != y)
  | .fin n1 m1 e1, .fin n2 m2 e2 => .fin (n1 != n2) (m1 * m2) (e1 + e2)

/-- An exact sum of two values; zeros of opposite sign give +0. -/
def addExact (a b : FVal) : FVal :=
  match a, b with
  | .nan _, _ => .nan false
  | _, .nan _ => .nan false
  | .inf x, .inf y => if x = y then .inf x else .nan false
  | .inf x, .fin .. => .inf x
  | .fin .., .inf y => .inf y
  | .fin n1 m1 e1, .fin n2 m2 e2 => let (n, m, e) := sumFin .rne n1 m1 e1 n2 m2 e2; .fin n m e

/-- The exact sum of some values; none gives +0. -/
def sumExact : List FVal → FVal
  | [] => .fin false 0 0
  | x :: xs => xs.foldl addExact x

/-- A value rounded once with RNE, to its bits. -/
def rneBits (f : Fmt) : FVal → DWord
  | .nan _ => nanBits f
  | .inf n => infBits f n
  | .fin n m e => (roundF f .rne n m e false).1

/-- An integer as an exact value. -/
def intExact (i : Int) : FVal := .fin (decide (i < 0)) i.natAbs 0

/-! ### Fragments and parts (10 R251 to R253) -/

/-- The bytes of a fragment or part: its registers' lanes in order (10 R251). -/
def fragBytes (w : Nat) (regs : List Reg) : List Byte :=
  regs.flatMap fun r => (List.range w).flatMap fun l => bytesOfNat 4 (r.val.lane l).toNat

/-- Bytes of an element of a float format. -/
def Fmt.bytes (f : Fmt) : Nat := f.width / 8

/-- A float element at a byte. -/
def fltAt (f : Fmt) (bs : List Byte) (off : Nat) : FVal := decodeF f (BitVec.ofNat 64 (leAt bs off f.bytes))

/-- The weight of element `e` of a plane block of `p` planes at a byte (04 R90, R91). -/
def planeWeight (bs : List Byte) (off p e : Nat) : Int :=
  let x := (List.range p).foldl (fun x t => 2 * x + if (bs.getD (off + 8 * t + e / 8) 0).getLsbD (e % 8) then 1 else 0) 0
  let xp := toSigned p x
  if p = 8 then xp else xp * 2 ^ (8 - p) + 2 ^ (7 - p)

/-- Row m of A: each kept value with its dense position (10 R252). -/
def aRow (f : MmaForm) (planes : Nat) (frag : List Byte) (side : List Byte) (m : Nat) : List (Nat × FVal) :=
  let row := metaRow side m
  match f.kind with
  | .float g _ =>
    let kept := f.aBytes / (32 * g.bytes)
    (List.range kept).map fun j => (keptPos f.spar row j, fltAt g frag ((m * kept + j) * g.bytes))
  | .planes _ _ =>
    (List.range 64).map fun j => (keptPos f.spar row j, intExact (planeWeight frag (m * 8 * planes) planes j))

/-- Column n of the whole B, from the parts in rank order (10 R253). -/
def bCol (f : MmaForm) (parts : List (List Byte)) (n : Nat) : List FVal :=
  let per := f.cols / parts.length
  let part := parts.getD (n / per) []
  let at_ (size k : Nat) := (n % per * f.k + k) * size
  (List.range f.k).map fun k =>
    match f.kind with
    | .float g _ => fltAt g part (at_ g.bytes k)
    | .planes true _ => fltAt .bf16 part (at_ 2 k)
    | .planes false _ => intExact (toSigned 8 (part.getD (at_ 1 k) 0).toNat)

/-! ### What a started `MMA` computes (04 R92, R96; 10 R258) -/

/-- Dense positions in a summation group (04 R96). -/
def MmaForm.group (f : MmaForm) : Nat := match f.kind with | .float .f64 _ => 4 | _ => 16

/-- The exact sum of a summation group; a position that no kept value names counts as +0 (04 R96). -/
def groupSum (f : MmaForm) (row : List (Nat × FVal)) (col : List FVal) (g : Nat) : FVal :=
  let here := row.filter fun x => x.1 / f.group == g
  let omitted := (List.range f.group).any fun i => here.all fun x => x.1 != g * f.group + i
  sumExact ((here.map fun x => mulExact x.2 (col.getD x.1 (.fin false 0 0)))
    ++ if omitted then [.fin false 0 0] else [])

/-- The integer of an exact integer value, modulo 2^32. -/
def exactWord : FVal → Word
  | .fin n m e => BitVec.ofInt 32 (scaled n m e 0)
  | _ => 0

/-- One output element: its accumulator after the groups (10 R258). -/
def mmaElement (f : MmaForm) (sgrp : Nat) (scales : List Word) (m : Nat) (row : List (Nat × FVal)) (col : List FVal)
    (acc : DWord) : DWord :=
  (List.range (f.k / f.group)).foldl (fun acc g =>
    let x := groupSum f row col g
    match f.kind with
    | .float _ a => (addF a .rne (decodeF a acc) (decodeF a (rneBits a x))).1
    | .planes _ true => (acc.setWidth 32 + exactWord x).setWidth 64
    | .planes _ false =>
      let sc := decodeF .f32 ((scaleAt scales m (g * 16 / 2 ^ sgrp)).setWidth 64)
      (addF .f32 .rne (decodeF .f32 acc) (decodeF .f32 (rneBits .f32 (mulExact x sc)))).1) acc

/-- The cells of a member after an `MMA` (10 R258). -/
def mmaCells (f : MmaForm) (fmt : Word) (scales : List Word) (side : List Byte) (frag : List Byte)
    (parts : List (List Byte)) (old : List Word) : List Word :=
  let cols := (List.range f.cols).map (bCol f parts)
  (List.range 32).flatMap fun m =>
    let row := aRow f (fmtPlanes fmt) frag side m
    let cells := old.drop (32 * m)
    (List.range f.cols).flatMap fun n =>
      let col := cols.getD n []
      if f.cols = 16 then
        let x := mmaElement f (fmtSgrp fmt) scales m row col (cells.getD (2 * n + 1) 0 ++ cells.getD (2 * n) 0)
        [x.extractLsb' 0 32, x.extractLsb' 32 32]
      else
        [(mmaElement f (fmtSgrp fmt) scales m row col ((cells.getD n 0).setWidth 64)).setWidth 32]

/-! ### Gangs and the rendezvous latch (10 R254, R255) -/

/-- The registers of a destination as the state holds them. -/
def State.regsOf (s : State) (n r slot : Nat) (d : Dest) (k : Nat) : List Reg :=
  match s.team n r, s.fibre n r slot with
  | some t, some f => (d.regs k).map fun id =>
      match id with
      | .v i => getV t.hdr (s.res n r) slot f i
      | .o i => getO t.hdr f i
      | _ => Reg.dead 2 t.hdr.width
  | _, _ => []

/-- Clear the live bits of registers of a slot (03 R64). -/
def State.killRegs (s : State) (n r slot : Nat) (d : Dest) (k : Nat) : State :=
  match s.team n r with
  | none => s
  | some t => (d.regs k).foldl (fun s id =>
      match id, s.fibre n r slot with
      | .v i, some f => s.setV n r slot t.hdr i (getV t.hdr (s.res n r) slot f i).kill
      | .o i, some f => s.setO n r slot t.hdr i (getO t.hdr f i).kill
      | _, _ => s) s

/-- The quadrants that a GANG value names for a fibre of a quadrant (10 R254). -/
def gangQuads (g : Word) (q : Nat) : List Nat :=
  if g = 0 then [q] else (List.range 4).filter fun i => g.getLsbD i

/-- Whether the matrix slices of some quadrants are free. -/
def Core.slicesFree (c : Core) (qs : List Nat) : Bool :=
  (c.r0.mmas ++ c.r1.mmas).all fun p => p.2.quadrants.all fun q => !qs.contains q

/-- What a member brings to a start under the FMT with which it arrived: its cells, or the trap that it takes alone
(10 R255, R260). -/
def State.mmaShare (s : State) (n r : Nat) (f : MmaForm) (fmt : Word) (w : Nat) (parts : List (List Byte)) (a : Arrival) :
    Option MmaShare :=
  match s.fibre n r a.slot with
  | none => none
  | some fib =>
    let rs := s.regsOf n r a.slot a.a a.na ++ s.regsOf n r a.slot a.b a.nb
    let t := fib.tile a.tile
    if rs.any (fun x => x.poison != 0) || t.poison != [] then none
    else
      let slot := fmtSslot fmt
      some
        { slot := a.slot, fibre := fib.num, tile := a.tile, pc := (fib.ply a.ply).pc
          cells := mmaCells f fmt (kgetD (s.res n r).scales slot []) (kgetD (s.res n r).metas slot [])
            (fragBytes w (s.regsOf n r a.slot a.a a.na)) parts t.image }

/-- A member's ply goes on after the start: last uses, retirement (10 R255, R259). -/
def State.mmaGoes (s : State) (n r : Nat) (a : Arrival) : State :=
  let s1 := if a.killA then s.killRegs n r a.slot a.a a.na else s
  let s2 := if a.killB then s1.killRegs n r a.slot a.b a.nb else s1
  s2.modFibre n r a.slot fun f => (f.setPly a.ply { f.ply a.ply with atLatch := false }).retire a.ply

/-- Start an `MMA` of some arrivals in rank order (10 R255, R258, R259, R260). -/
def State.mmaStart (s : State) (n r : Nat) (f : MmaForm) (fmt : Word) (w : Nat) (as : List Arrival) : State :=
  let parts := as.map fun a => fragBytes w (s.regsOf n r a.slot a.b a.nb)
  let shares := as.map fun a => (a, s.mmaShare n r f fmt w parts a)
  let run : MmaRun :=
    { doneAt := s.clock + f.cycles, quadrants := as.map fun a => quadOf a.slot, shares := shares.filterMap (·.2) }
  let s1 := s.modRes n r fun x =>
    { x with mmas := kset x.mmas ((x.mmas.map (·.1)).foldl (fun m k => max m (k + 1)) 0) run }
  shares.foldl (fun s x =>
    match x.2 with
    | some _ => s.mmaGoes n r x.1
    | none =>
      (s.modFibre n r x.1.slot fun g => g.setPly x.1.ply { g.ply x.1.ply with atLatch := false }).trapAt n r x.1.slot
        x.1.ply (Trap.plain .poison 0)) s1

/-- The traps of every arrival of a latch, which clears (10 R255). -/
def State.gangTraps (s : State) (n r group cause : Nat) (as : List (Nat × Nat)) : State :=
  let s1 := s.modRes n r fun x => { x with latches := kerase x.latches group }
  let s2 := as.foldl (fun s a => s.modFibre n r a.1 fun f => f.setPly a.2 { f.ply a.2 with atLatch := false }) s1
  settle settleFuel (as.map fun a => .trap n r a.1 a.2 (Trap.plain .ill cause)) s2

/-- A ply waits at its latch: its `MMA` has issued (10 R255, 18 R373). -/
def State.latchWait (s : State) (v : View) : State :=
  s.onFibre v fun f => (f.begins v.who.ply).setPly v.who.ply { f.ply v.who.ply with atLatch := true, stall := none }

/-- An `MMA` that has passed its checks meets its gang (10 R254, R255). -/
def State.mmaArrive (s : State) (v : View) (f : MmaForm) (a : Arrival) : Except Stop State :=
  let n := v.who.core
  let r := v.who.res
  let q := quadOf v.who.slot
  let group := v.who.slot / 4
  let gang := v.fib.spec.gang
  let quads := gangQuads gang q
  let solo : Except Stop State := do
    need (v.core.slicesFree [q]) .stall
    .ok (s.mmaStart n r f v.fib.spec.fmt v.width [a])
  let put := fun (rec : GangRec) => s.modRes n r fun x => { x with latches := kset x.latches group rec }
  match kget v.res.latches group with
  | none =>
    if quads.length = 1 then solo
    else
      let here := quads.all fun i =>
        match kget v.res.slots (group * 4 + i) with
        | some g => g.status != .frozen
        | none => false
      if here then
        .ok ((put { gang := gang, type := modeType v.mode, fmt := v.fib.spec.fmt, tile := a.tile, arrived := [a] }).latchWait v)
      else .error (.trap (Trap.plain .ill 5))
  | some rec =>
    if rec.arrived.any fun x => x.slot == v.who.slot then .error .stall
    else if rec.gang.getLsbD q then
      if rec.gang = gang ∧ rec.type = modeType v.mode ∧ rec.fmt = v.fib.spec.fmt ∧ rec.tile = a.tile then
        .ok ((put { rec with arrived := insertBy (·.slot) a rec.arrived }).latchWait v)
      else .ok (s.gangTraps n r group 4 ((insertBy (·.slot) a rec.arrived).map fun x => (x.slot, x.ply)))
    else if quads.length = 1 then solo
    else .error .stall

/-- A fragment or part: its registers in the issuing ply's pass, and whether they exist (10 R250, R251). -/
def View.fragment (v : View) (x : BitVec 9) (p : Pos) (n : Nat) : Option Dest :=
  match (Machine.srcOf x).map (v.step p) with
  | some (.v i) => if i + n ≤ min 64 v.declared then some (.v i) else none
  | some (.o i) => if i + n ≤ 16 then some (.o i) else none
  | _ => none

/-- Whether a field is at level 00 or 01 (10 R250). -/
def atRegLevel (x : BitVec 9) : Bool :=
  match Machine.srcOf x with
  | some (.v _) => true
  | some (.o _) => true
  | _ => false

/-- Whether a `META` or `SCALE` of the fibre to a slot is still to return (10 R267). -/
def View.slotBusy (v : View) (isScale : Bool) (slot : Nat) : Bool :=
  v.core.ops.any fun p => !p.2.done && p.2.res == v.who.res && p.2.slot == v.who.slot &&
    (match p.2.body with | .slotLoad sc k _ => sc == isScale && k == slot | _ => false)

/-- MMA (10 R250, R254, R255, R257). -/
def execMma (y : Bool) (t : BitVec 4) (a b : BitVec 9) (s : State) : Host.Outcome State Fault Refusal :=
  issue y s fun v => do
    need (atRegLevel a && atRegLevel b) illEncoding
    need (v.width != 16) illState
    v.needMatrix
    match mmaForm v.mode v.fib.spec.fmt with
    | none => .error illState
    | some f =>
      if f.readsSlot then v.needSlot else .ok ()
      v.needTile t
      let g := (gangQuads v.fib.spec.gang (quadOf v.who.slot)).length
      let na := f.aBytes / (4 * v.width)
      let nb := f.bBytes / g / (4 * v.width)
      match v.fragment a .a na, v.fragment b .b nb with
      | some da, some db =>
        let ra := da.regs na
        let rb := db.regs nb
        need (!v.owed (ra ++ rb)) .halt
        need (!v.busy (ra ++ rb)) .stall
        need (v.liveAll ra) (deadTrap a.toNat)
        need (v.liveAll rb) (deadTrap b.toNat)
        let tile := v.tileIndex t.toNat
        let own : Arrival :=
          { slot := v.who.slot, ply := v.who.ply, tile := tile, a := da, na := na, killA := lastUse a, b := db, nb := nb
            killB := lastUse b }
        need (!((v.slotBusy true (fmtSslot v.fib.spec.fmt) || v.slotBusy false (fmtSslot v.fib.spec.fmt)) && f.readsSlot)) .stall
        v.freeTile tile
        s.mmaArrive v f own
      | _, _ => .error illState

/-- GANG_START (10 R255): a complete gang starts when the slice of every member's quadrant is free. -/
def execGangStart (core res group : Nat) (s : State) : Host.Outcome State Fault Refusal :=
  event s <|
    match kget (s.res core res).latches group, s.team core res with
    | some rec, some t =>
      let quads := gangQuads rec.gang 0
      if rec.arrived.length = quads.length ∧ (s.core core).slicesFree quads then
        (mmaForm (BitVec.ofNat 32 rec.type) rec.fmt).map fun f =>
          (s.modRes core res fun x => { x with latches := kerase x.latches group }).mmaStart core res f rec.fmt t.hdr.width
            rec.arrived
      else none
    | _, _ => none

/-- Write a member's tile (10 R244, R258). -/
def State.mmaWrite (s : State) (n r : Nat) (h : MmaShare) : State :=
  match s.fibre n r h.slot with
  | some f => if f.num = h.fibre then s.setTile n r h.slot h.tile { live := true, cells := h.cells, poison := [] } else s
  | none => s

/-- MMA_COMPLETE (10 R258 to R260, 17 R365, R366): the residue check fails in one member when its retry fails too:
SHADOW cause 1; of a gang in its lowest-ranked one (DESIGN CHOICE, log 120). -/
def execMmaComplete (core res run : Nat) (s : State) : Host.Outcome State Fault Refusal :=
  event s <|
    match kget (s.res core res).mmas run with
    | some m =>
      if m.doneAt ≤ s.clock then
        let s1 := s.modRes core res fun x => { x with mmas := kerase x.mmas run }
        let bad := (s.core core).shadow
        if 2 ≤ bad then
          match m.shares with
          | h :: hs =>
            some ((hs.foldl (fun s h => s.mmaWrite core res h) s1).shadowFails core |>.freezeAt core res h.slot 4
              TrapKind.shadow.code 1 h.pc)
          | [] => some s1
        else
          let s2 := m.shares.foldl (fun s h => s.mmaWrite core res h) s1
          some (if bad = 0 then s2 else s2.modCore core Core.shadowPassed)
      else none
    | none => none

/-! ### `MXF`: whole tiles and slots (10 R261, R263) -/

/-- TZERO (10 R244, R263). -/
def execTzero (y : Bool) (t : BitVec 4) (s : State) : Host.Outcome State Fault Refusal :=
  issue y s fun v => do
    v.needMatrix
    v.needTile t
    v.freeTile (v.tileIndex t.toNat)
    .ok ((s.setTile v.who.core v.who.res v.who.slot (v.tileIndex t.toNat) Tile.zero).retire v)

/-- A tile access's places: U address, 64-byte aligned, near, unlocked (10 R261, R263). -/
def tilePlaces (v : View) (s : State) (fm : Form) (ua : Use) (st : Except Stop Unit) (free : Except Stop Unit)
    (cls : AccClass) (n : Nat) : Except Stop (Nat × LanePlace) := do
  let x := v.read ua none
  v.check fm true (do v.needMatrix; st) (needU x ua.field)
  free
  let va := v.address x 0 0
  need (va % 64 == 0) illState
  let ps ← s.xlatBytes v cls va n
  let lp := wholeAccess va ps
  v.needNear [lp]
  s.needUnlocked v (cls == .store) n [lp]
  needClean [x] (fullMask 64)
  .ok (va, lp)

/-- TLD (10 R263). -/
def execTld (y : Bool) (t : BitVec 4) (a : BitVec 9) (s : State) : Host.Outcome State Fault Refusal :=
  issue y s fun v => do
    let ua := v.addrUse a .a
    let fm : Form := { uses := [ua], d := none }
    let k := v.tileIndex t.toNat
    let (_, lp) ← tilePlaces v s fm ua (v.needTile t) (v.freeTile k) .load 4096
    v.pathRoom 0
    .ok (((s.lastUses v fm).addOp v 0 false (pagesOf 4096 [lp]) (.tileLoad k (lp.places.map (·.pa)))).retire v)

/-- TST (10 R263, 18 R375): of one lane record in a deterministic launch. -/
def execTst (y : Bool) (t : BitVec 4) (a : BitVec 9) (s : State) : Host.Outcome State Fault Refusal :=
  issue y s fun v => do
    let ua := v.addrUse a .a
    let fm : Form := { uses := [ua], d := none }
    let k := v.tileIndex t.toNat
    let (va, lp) ← tilePlaces v s fm ua (v.needTile t) (v.freeTile k) .store 4096
    v.pathRoom 1
    let tile := v.fib.tile k
    let data := tile.image.flatMap fun w => bytesOfNat 4 w.toNat
    let pas := lp.places.map (·.pa)
    let held := v.isDet && decide (Config.windowTop ≤ va)
    if held then v.bufferRoom 1 else .ok ()
    let s0 := s.lastUses v fm
    let s1 := if Config.windowTop ≤ va then s0.checkRecords v (0x2F + 256 * 2) [(0, va, 4096, data)] else s0
    let key := (s1.core v.who.core).nextOp
    let s2 := s1.addOp v 1 false (pagesOf 4096 [lp]) (.tileStore pas data tile.poison)
    let s3 := if held then s2.modDet v fun d => { d with
        buf := d.buf ++ [{ fibre := v.fib.num, op := key, kind := .store, lanes := [{ lane := 0, pas := pas, data := data }], va := [va] }] }
      else s2
    .ok (s3.retire v)

/-- A slot that an arrival of the fibre holds until its `MMA` has read it (10 R259). -/
def View.freeSlot (v : View) (slot : Nat) : Except Stop Unit :=
  need (!(v.res.latches.any fun p =>
    (p.2.arrived.any fun a => a.slot == v.who.slot) && fmtSslot p.2.fmt == slot
      && ((mmaForm (BitVec.ofNat 32 p.2.type) p.2.fmt).map (·.readsSlot)).getD false)) .stall

/-- A load of a slot: POISON on a poisoned source (10 R263, 17 R363). -/
def slotLoad (v : View) (s : State) (isScale : Bool) (a : BitVec 9) : Except Stop State := do
  let n := if isScale then 2048 else 512
  let ua := v.addrUse a .a
  let fm : Form := { uses := [ua], d := none }
  let (_, lp) ← tilePlaces v s fm ua v.needSlot (v.freeSlot (fmtSslot v.fib.spec.fmt)) .load n
  let bs ← s.readNow v (lp.places.map (·.pa))
  v.pathRoom 0
  .ok (((s.lastUses v fm).addOp v 0 false (pagesOf n [lp]) (.slotLoad isScale (fmtSslot v.fib.spec.fmt) bs)).retire v)

/-- META (10 R263). -/
def execMetaSlot (y : Bool) (a : BitVec 9) (s : State) : Host.Outcome State Fault Refusal :=
  issue y s fun v => slotLoad v s false a

/-- SCALE (10 R263). -/
def execScale (y : Bool) (a : BitVec 9) (s : State) : Host.Outcome State Fault Refusal :=
  issue y s fun v => slotLoad v s true a

/-- A tile image arrives (10 R263, 17 R363). -/
def State.finishTile (s : State) (n key : Nat) (o : Op) (tile : Nat) (pas : List Nat) : State :=
  let bs := s.loadBytes n o pas
  let cells := (List.range 1024).map fun c => BitVec.ofNat 32 (leAt bs (4 * c) 4)
  let bad := (List.range 1024).filter fun c => s.seesPoison n o.res o.fibre o.seq ((pas.drop (4 * c)).take 4)
  (s.setTile n o.res o.slot tile { live := true, cells := cells, poison := bad }).opReturn n key

/-- A tile image is stored, its poison with it (10 R263, 17 R363). -/
def State.performTile (s : State) (n key : Nat) (pas : List Nat) (data : List Byte) (bad : List Nat) : State :=
  (s.writeWith true pas data (badCells pas bad)).opReturn n key

/-- A slot is written (10 R247, R248, R263). -/
def State.finishSlot (s : State) (n key : Nat) (o : Op) (isScale : Bool) (slot : Nat) (bs : List Byte) : State :=
  (s.modRes n o.res fun x =>
    if isScale then
      { x with scales := kset x.scales slot ((List.range 512).map fun i => BitVec.ofNat 32 (leAt bs (4 * i) 4)) }
    else { x with metas := kset x.metas slot bs }).opReturn n key

/-! ### `MXF`: cells and lanes (10 R262, R264 to R266) -/

/-- A control word (10 R262). -/
structure TileCtl where
  tile : Nat
  cell : Nat
  type : Nat
  deriving DecidableEq, Repr

/-- Read a control operand, ILL on a field that 10 R262 refuses; POISON on a poisoned one. -/
def tileCtl (v : View) (fm : Form) (a : BitVec 9) (ua : Use) (typeOk : Nat → Bool) : Except Stop TileCtl := do
  let x := v.read ua none
  v.check fm true v.needMatrix (needU x a)
  let w := (x.lane 0).toNat
  let c : TileCtl := { tile := w % 16, cell := w / 16 % 1024, type := w / 2 ^ 14 % 16 }
  need (decide (w < 2 ^ 18) && typeOk c.type && decide (c.tile < v.team.hdr.tiles)) illState
  v.freeTile c.tile
  needClean [x] v.active
  .ok c

/-- Mark a result poisoned in active lanes of a mask, in D and `la` (17 R363). -/
def State.poisonResult (s : State) (v : View) (d : BitVec 7) (m : Mask) : State :=
  let bad := m &&& v.active
  if bad = 0 then s
  else
    let s1 := ((v.dest d).regs 1).foldl (fun s id =>
      let x := s.getReg v id
      s.putReg v id { x with poison := x.poison ||| bad }) s
    s1.onFibre v fun f => { f with regs := { f.regs with laPoison := f.regs.laPoison ||| bad } }

/-- TRD (10 R264). -/
def execTrd (y : Bool) (d : BitVec 7) (a : BitVec 9) (s : State) : Host.Outcome State Fault Refusal :=
  issue y s fun v => do
    let ua := wordUse a .a
    let fm : Form := { uses := [ua], d := some (dUse d 1 false) }
    let c ← tileCtl v fm a ua (· == 0)
    let t := v.fib.tile c.tile
    let s1 ← s.finish v fm d (Result.narrow (Value.per fun l => t.cell (c.cell + l)))
    .ok (s1.poisonResult v d (maskOf v.width fun l => t.bad (c.cell + l)))

/-- TWR (10 R264). -/
def execTwr (y : Bool) (d : BitVec 7) (a : BitVec 9) (s : State) : Host.Outcome State Fault Refusal :=
  issue y s fun v => do
    let ua := wordUse a .a
    let fm : Form := { uses := [ua], d := some (dUse d 1 true) }
    let c ← tileCtl v fm a ua (· == 0)
    let x := v.readD d 1
    needClean [x] v.active
    let s0 := s.lastUses v fm
    if v.active = 0 then .ok (s0.retire v)
    else
      let t := v.fib.tile c.tile
      let cells := v.lanes.foldl (fun (cs : List Word) l => cs.set ((c.cell + l) % 1024) ((x.lane l).setWidth 32)) t.image
      let poison := t.poison.filter fun k => v.lanes.all fun l => (c.cell + l) % 1024 != k
      .ok ((s0.setTile v.who.core v.who.res v.who.slot c.tile { live := true, cells := cells, poison := poison }).retire v)

/-- Cells that a lane of `TCVT` converts, and the bits of each result (10 R265). -/
def tcvtShape (type : Nat) : Nat × Nat := if type = 13 then (4, 8) else (2, 16)

/-- TCVT (10 R265). -/
def execTcvt (y : Bool) (d : BitVec 7) (a : BitVec 9) (s : State) : Host.Outcome State Fault Refusal :=
  issue y s fun v => do
    let ua := wordUse a .a
    let fm : Form := { uses := [ua], d := some (dUse d 1 false) }
    let ints := fmtAcc v.fib.spec.fmt == 1
    let c ← tileCtl v fm a ua fun t => t == 13 || (!ints && (t == 8 || t == 9))
    need (!v.tableBusy) .stall
    let t := v.fib.tile c.tile
    let (k, b) := tcvtShape c.type
    let used := v.lanes.flatMap fun l => (List.range k).map fun j => c.cell + k * l + j
    need (used.all fun i => !t.bad i) (.trap (Trap.plain .poison 0))
    let rnd := CvtRnd.mode (Rnd.ofCode (modeRnd v.mode))
    let one := fun (l j : Nat) =>
      cvtLane (if ints then 2 else 10) c.type rnd false (v.cvtDraw l) ((t.cell (c.cell + k * l + j)).setWidth 64)
    let out := Result.narrow (Value.per fun l =>
      (List.range k).foldr (fun j w => (w <<< b) ||| ((one l j).1.setWidth 32 &&& BitVec.ofNat 32 (2 ^ b - 1))) 0)
    let exc := fun l => (List.range k).foldl (fun e j => e ||| (one l j).2) (0 : Exc)
    if ints then do
      v.math v.active exc
      (s.rcntUp v).finish v fm d out
    else do
      v.shadow
      v.afterRetry s do
        v.math v.active exc
        ((s.shadowPassed v).rcntUp v).finish v fm d out

/-- TROWMAX (10 R266). -/
def execTrowmax (y : Bool) (d : BitVec 7) (a : BitVec 9) (s : State) : Host.Outcome State Fault Refusal :=
  issue y s fun v => do
    let ua := wordUse a .a
    let fm : Form := { uses := [ua], d := some (dUse d 1 false) }
    let c ← tileCtl v fm a ua (· == 0)
    let t := v.fib.tile c.tile
    let row := fun (l : Nat) => (List.range 32).map fun j => (c.cell / 32 + l) % 32 * 32 + j
    need (v.lanes.all fun l => (row l).all fun i => !t.bad i) (.trap (Trap.plain .poison 0))
    let vals := fun (l : Nat) => (row l).map fun i => decodeF .f32 ((t.cell i).setWidth 64)
    v.math v.active fun l => if (vals l).any FVal.snan then excInv else 0
    s.finish v fm d (Result.narrow (Value.per fun l =>
      (encodeF .f32 ((vals l).foldl (fun m x => decodeF .f32 (minMaxF .f32 true m x).1) (.nan false))).setWidth 32))

end Sys2Proof.Machine
end

