-- ==== Sys2Proof/Machine/Qtab.lean ====
section
/-! DEFINITION. Quasi-random tables (11 R298 to R300). -/

namespace Sys2Proof.Machine

open Sys2Proof

/-- Bytes of a table. -/
def tableBytes : Nat := 8320

/-- A table's identifier (11 R298). -/
def tableId (bs : List Byte) : BitVec 64 := (sha256 bs).extractLsb' 192 64

/-- Whether a fibre other than the one of a slot names a table slot (11 R299). -/
def Residency.tableUsed (r : Residency) (slot k : Nat) : Bool :=
  r.slots.any fun p => p.1 != slot && (p.2.spec.table.map (·.slot)) == some k

/-- The table slot that takes some bytes, and whether it holds them already; none when every slot is used
by other fibres (11 R299). -/
def Residency.tableSlot (r : Residency) (dual : Bool) (slot : Nat) (id : BitVec 64) : Option (Nat × Bool) :=
  let ks := if dual then [0] else [0, 1]
  match ks.find? fun k => (kget r.qslots k).map (·.id) == some id with
  | some k => some (k, true)
  | none => (ks.find? fun k => !r.tableUsed slot k).map fun k => (k, false)

/-- A fibre takes a table: its status, 0 when taken (11 R299). -/
def State.takeTable (s : State) (n r slot : Nat) (addr : Addr) (bs : List Byte) : State × Nat :=
  let id := tableId bs
  match (s.res n r).tableSlot (s.core n).dual slot id with
  | none => (s, 1)
  | some (k, held) =>
    let s1 := if held then s else s.modRes n r fun x => { x with qslots := kset x.qslots k { id := id, bytes := bs } }
    (s1.modFibre n r slot fun f => { f with spec := { f.spec with table := some { slot := k, addr := addr } } }, 0)

/-- Whether a table of the issuing fibre is still to come: a fibre's `QTAB`s finish in order. -/
def View.tableComing (v : View) : Bool :=
  v.core.ops.any fun p => !p.2.done && p.2.res == v.who.res && p.2.slot == v.who.slot &&
    match p.2.body with
    | .tableLoad _ _ _ => true
    | _ => false

/-- QTAB (11 R299): a load of 8,320 bytes, POISON on a poisoned one (17 R363). -/
def execQtab (y : Bool) (d : BitVec 7) (a : BitVec 9) (s : State) : Host.Outcome State Fault Refusal :=
  issue y s fun v => do
    let ua := v.addrUse a .a
    let x := v.read ua none
    let fm : Form := { uses := [ua], d := some { dUse d 1 false with fixed := true } }
    v.check fm true okay (do needU x a; v.arrivalOk fm d 1 .u)
    if v.active = 0 then .ok ((s.lastUses v fm).retire v)
    else do
      let va := v.address x 0 0
      need (va % 64 == 0) illState
      let ps ← s.xlatBytes v .load va tableBytes
      let lp := wholeAccess va ps
      v.needNear [lp]
      s.needUnlocked v false tableBytes [lp]
      needClean [x] v.active
      let bs ← s.readNow v (ps.map (·.pa))
      v.pathRoom 0
      need (!v.tableComing) .stall
      .ok (((s.lastUses v fm).addOp v 0 false (pagesOf tableBytes [lp])
        (.tableLoad bs (BitVec.ofNat 64 va) (v.dest d))).retire v)

/-- A table arrives: the slot, the fibre's current table, and D (11 R299). -/
def State.finishTable (s : State) (n key : Nat) (o : Op) (bs : List Byte) (addr : Addr) (d : Dest) : State :=
  let (s1, st) := s.takeTable n o.res o.slot addr bs
  (s1.giveUniform n o.res o.slot o.active d (BitVec.ofNat 32 st) false).opReturn n key

end Sys2Proof.Machine
end

