-- ==== Sys2Proof/Machine/Engine.lean ====
section
/-! DEFINITION. The engines that `ENG` starts: descriptors, the dependency table, range locks, the copy engine
and the base-die engines (11 R271 to R291). -/

namespace Sys2Proof.Machine

open Sys2Proof

/-! ### Descriptors (11 R273) -/

/-- A range that a command names, before its translation: whether it is written, takes a lock entry, and
must lie in KIND 0 (11 R277, R286). -/
structure RangeSpec where
  va : Nat
  len : Nat
  dest : Bool
  lock : Bool
  stack : Bool
  deriving DecidableEq, Repr

/-- A range that is locked. -/
def RangeSpec.on (va len : Nat) (dest : Bool) : RangeSpec := { va := va, len := len, dest := dest, lock := true, stack := false }

/-- Whether bytes of a descriptor are zero. -/
def zeroBytes (d : List Byte) (off n : Nat) : Bool := (sliceBytes d off n).all (· == 0)

/-- A range within the limits of 11 R273: at most 16 MiB, an address of 56 bits, no wrap. -/
def RangeSpec.legal (r : RangeSpec) : Bool := decide (r.len ≤ 2 ^ 24) && decide (r.va < 2 ^ 56) && decide (r.va + r.len ≤ 2 ^ 56)

/-- The span of rows at a stride; none where it would begin below 0 (11 R277, R280). -/
def rowSpan (va rows bytes : Nat) (stride : Int) : Option (Nat × Nat) :=
  let last : Int := (va : Int) + ((rows : Int) - 1) * stride
  let lo := min (va : Int) last
  if lo < 0 then none else some (lo.toNat, (max (va : Int) last - lo).toNat + bytes)

/-- Whether a source and a destination overlap (11 R278). -/
def clash (rs : List RangeSpec) : Bool :=
  rs.any fun a => rs.any fun b => !a.dest && b.dest && a.len != 0 && b.len != 0 && overlaps a.va a.len b.va b.len

/-- The ranges of a command when they and the rest of its rules hold; none is a descriptor error. -/
def rangesIf (ok : Bool) (rs : List RangeSpec) : Option (List RangeSpec) := if ok && rs.all RangeSpec.legal then some rs else none

/-- The same of a copy command, whose sources and destinations do not overlap (11 R278). -/
def copyRanges (ok : Bool) (rs : List RangeSpec) : Option (List RangeSpec) := rangesIf (ok && !clash rs) rs

/-- Element bytes of an ETYPE (11 R287). -/
def etypeBytes (t : Nat) : Option Nat :=
  if t = 2 ∨ t = 6 ∨ t = 10 then some 4 else if t = 8 ∨ t = 9 then some 2 else none

/-- The number of set bits of a mask, and its highest set bit plus one. -/
def pathCount (m : Nat) : Nat := ((List.range 64).filter m.testBit).length
def pathRows (m : Nat) : Nat := ((List.range 64).filter m.testBit).foldl (fun x i => max x (i + 1)) 0

/-- The ranges that a descriptor of a command names; none is a descriptor error (11 R279 to R290).  The arrival target of a KVC
counts as a destination where overlaps are looked for (DESIGN CHOICE, log 54). -/
def engRanges (code : Nat) (d : List Byte) : Option (List RangeSpec) :=
  let f := leAt d
  let row := fun (x : Nat) => decide (1 ≤ x) && decide (x ≤ 65536)
  let count := fun (x : Nat) => decide (1 ≤ x) && decide (x ≤ 65535)
  match code with
  | 0 => copyRanges (zeroBytes d 36 28) [.on (f 16 8) (f 32 4) false, .on (f 24 8) (f 32 4) true]
  | 1 =>
    match rowSpan (f 16 8) (f 36 4) (f 32 4) (toSigned 32 (f 40 4)), rowSpan (f 24 8) (f 36 4) (f 32 4) (toSigned 32 (f 44 4)) with
    | some (sa, sn), some (da, dn) =>
      copyRanges (zeroBytes d 48 16 && row (f 32 4) && count (f 36 4) && decide (f 32 4 ≤ (toSigned 32 (f 44 4)).natAbs)
        && decide (f 16 8 < 2 ^ 56) && decide (f 24 8 < 2 ^ 56)) [.on sa sn false, .on da dn true]
    | _, _ => none
  | 2 =>
    copyRanges (zeroBytes d 52 12 && row (f 40 4) && count (f 44 4) && decide (1 ≤ f 48 4) && f 32 8 % 4 == 0)
      [.on (f 16 8) (f 48 4 * f 40 4) false, .on (f 32 8) (4 * f 44 4) false, .on (f 24 8) (f 44 4 * f 40 4) true]
  | 3 =>
    copyRanges (zeroBytes d 52 12 && row (f 40 4) && count (f 44 4) && decide (1 ≤ f 48 4) && f 32 8 % 4 == 0)
      [.on (f 24 8) (f 44 4 * f 40 4) false, .on (f 32 8) (4 * f 44 4) false, .on (f 16 8) (f 48 4 * f 40 4) true]
  | 4 => copyRanges (zeroBytes d 28 4 && zeroBytes d 48 16) [.on (f 16 8) (f 24 4) true]
  | 5 =>
    let rb := f 40 4
    let arv : List RangeSpec := if f 56 8 = 0 then [] else [{ va := f 56 8, len := 4, dest := true, lock := false, stack := false }]
    copyRanges (row rb && rb % 32 == 0 && f 32 8 % 8 == 0 && decide (f 24 8 < 2 ^ 56))
      ([.on (f 16 8) (pathRows (f 48 8) * rb) false, .on (f 24 8 + f 44 4 * rb) (pathCount (f 48 8) * rb) true,
        .on (f 32 8) 8 true] ++ arv)
  | 8 =>
    let flag : List RangeSpec := if f 40 8 = 0 then [] else [{ RangeSpec.on (f 40 8) 4 true with stack := true }]
    rangesIf (f 16 8 % 64 == 0 && f 24 8 % 4 == 0 && decide (1 ≤ f 32 4) && decide (f 32 4 ≤ 4194304) && f 36 1 != 0
        && zeroBytes d 37 3 && f 40 8 % 4 == 0 && zeroBytes d 52 12)
      ([{ RangeSpec.on (f 16 8) 64 false with stack := true }, { RangeSpec.on (f 24 8) (4 * f 32 4) true with stack := true }]
        ++ flag)
  | 9 =>
    let wide := f 28 4 == 1
    let e := toSigned 32 (f 32 4)
    rangesIf (f 16 8 % 64 == 0 && f 24 4 % 64 == 0 && decide (128 ≤ f 24 4) && decide (f 28 4 ≤ 1) && zeroBytes d 40 24
        && (if wide then decide (-160 ≤ e) && decide (e ≤ 0) else e == 0)) [.on (f 16 8) (f 24 4) true]
  | 10 =>
    rangesIf (zeroBytes d 24 40) [{ va := f 16 8, len := 64, dest := true, lock := false, stack := false }]
  | _ =>
    match etypeBytes (f 28 1) with
    | none => none
    | some n =>
      let selp := code == 6
      let cond := if selp then decide (f 29 1 ≤ (if 8 ≤ f 28 1 then 11 else 5)) && (n == 4 || f 34 2 == 0)
                  else f 29 1 == 0 && f 32 4 == 0
      rangesIf (cond && f 16 8 % n == 0 && decide (1 ≤ f 24 4) && decide (1 ≤ f 30 2) && decide (f 30 2 ≤ 256)
          && f 40 8 % 8 == 0 && zeroBytes d 48 16)
        [{ RangeSpec.on (f 16 8) (f 24 4 * n) false with stack := true },
          { va := f 40 8, len := 8 * (f 30 2 + 1), dest := true, lock := false, stack := true }]

/-- The ranges of a whole descriptor; none is a descriptor error (11 R273). -/
def descRanges (c : Core) (code : Nat) (d : List Byte) : Option (List RangeSpec) :=
  if leAt d 8 1 = code ∧ zeroBytes d 9 3 ∧ tokenLegal c (BitVec.ofNat 32 (leAt d 0 4))
      ∧ tokenLegal c (BitVec.ofNat 32 (leAt d 4 4)) then engRanges code d
  else none

/-! ### Translating the ranges (11 R272) -/

/-- The first address that a range has in each page of 64 KiB, with the bytes it has there. -/
def RangeSpec.pieces (r : RangeSpec) : List (Nat × Nat) :=
  if r.len = 0 then []
  else (List.range ((r.va + r.len - 1) / 65536 - r.va / 65536 + 1)).map fun i =>
    let a := if i = 0 then r.va else (r.va / 65536 + i) * 65536
    (a, min (r.va + r.len) ((a / 65536 + 1) * 65536) - a)

/-- The class of a range's accesses. -/
def RangeSpec.cls (r : RangeSpec) : AccClass := if r.dest then .engineWrite else .engineRead

/-- Where the pieces of a range lie. -/
def State.xlatRange (s : State) (v : View) (r : RangeSpec) : Except Stop (List (Nat × Nat × Place)) :=
  r.pieces.mapM fun p => do
    let pl ← s.xlat v r.cls p.1
    .ok (p.1, p.2, pl)

/-- The translations that a range uses outside the window. -/
def View.rangeLeaves (v : View) (r : RangeSpec) : List Leaf :=
  ((r.pieces.filter fun p => decide (Config.windowTop ≤ p.1)).filterMap fun p =>
    (v.fills ++ v.core.tlb).find? fun l => l.covers v.team.ctx p.1 && r.cls.allowed l.entry).dedup

/-- A trap of an engine command at an address. -/
def engTrap (k : TrapKind) (va : Nat) : Stop := .trap { Trap.plain k 0 with addr := BitVec.ofNat 64 va }

/-- A trap where a piece of a range fails a check. -/
def needPieces (k : TrapKind) (xs : List (RangeSpec × Nat × Nat × Place)) (ok : RangeSpec → Nat → Place → Bool) :
    Except Stop Unit :=
  match xs.find? fun x => !ok x.1 x.2.2.1 x.2.2.2 with
  | some x => .error (engTrap k x.2.1)
  | none => .ok ()

/-- Translate every range, with FAR, SCOPE and RLOCK (11 R272, R286). -/
def State.xlatRanges (s : State) (v : View) (rs : List RangeSpec) : Except Stop Unit := do
  let xs ← rs.mapM fun r => do
    let ps ← s.xlatRange v r
    .ok (ps.map fun p => (r, p))
  let all := xs.flatten
  needPieces .far all fun _ _ pl => !pl.far v.who.core
  needPieces .scope all fun r _ pl => kindOf pl.pa != 3 && (!r.stack || kindOf pl.pa == 0)
  needPieces .rlock all fun _ n pl =>
    !((s.spillAreas v.who.core v.who.res).any fun a => overlaps pl.pa n a.1 a.2)

/-! ### Issue (11 R271, R272, R275) -/

/-- Range-lock entries of a residency (01 R17, 15 R315). -/
def Core.lockRoom (c : Core) : Nat := if c.dual then 16 else 32

/-- The key by which a core's entry holds its locks in the team's table. -/
def lockKey (core entry : Nat) : Nat := 64 * core + entry

/-- The token of an entry (11 R275). -/
def engToken (entry gen : Nat) : Word := BitVec.ofNat 32 (2 ^ 31 + entry * 2 ^ 16 + gen)

/-- The event of a STATUS that is not 0 (11 R274). -/
def State.engEvent (s : State) (n ctx : Nat) (token : Word) (status conds : Nat) : State :=
  if status = 0 then s else s.post .engineError n ctx [n, token.toNat, status, conds]

/-- Set an entry of the dependency table. -/
def State.setDep (s : State) (n r entry : Nat) (e : DepEntry) : State :=
  s.modRes n r fun x => { x with deps := kset x.deps entry e }

/-- The path of a command (01 R19). -/
def engPath (code : Nat) : Nat := if code = 6 ∨ code = 7 then 5 else 3

/-- A command takes an entry, its locks and its place on its path (11 R272, R275). -/
def State.takeEntry (s : State) (v : View) (code : Nat) (desc : List Byte) (pas : List Nat) (rs : List RangeSpec)
    (entry gen : Nat) : State :=
  let n := v.who.core
  let r := v.who.res
  let done := fun off => v.res.tokenDone (BitVec.ofNat 32 (leAt desc off 4))
  let cmd : EngCmd :=
    { code := code, desc := desc, statusPas := (pas.drop 12).take 4, slot := v.who.slot, op := v.core.nextOp
      ctx := v.team.ctx
      ranges := rs.map fun x => { va := x.va, len := x.len, dest := x.dest, leaves := v.rangeLeaves x }
      readyAt := s.clock, conds := 0, packets := [] }
  let s1 := s.setDep n r entry { state := if done 0 && done 4 then .ready else .held, gen := gen, cmd := some cmd }
  let locks := (rs.filter fun x => x.lock && x.len != 0).map fun x : RangeSpec =>
    ({ entry := lockKey n entry, va := x.va, len := x.len, dest := x.dest } : Lock)
  let s2 := s1.modRes (s.home n r) r fun x => { x with locks := x.locks ++ locks }
  s2.addOp v (engPath code) false (rs.flatMap fun x => x.pieces.map fun p => p.1 / 65536).dedup (.engine entry)

/-- An `ENG` command (11 R271, R272).  An invalid one counts on its path and has completed at once. -/
def engIssue (code : Nat) (v : View) (s : State) (d : BitVec 7) (a : BitVec 9) : Except Stop State := do
  let n := v.who.core
  let ua := v.addrUse a .a
  let x := v.read ua none
  let fm : Form := { uses := [ua], d := some { dUse d 1 false with fixed := true } }
  v.check fm true okay (needU x a)
  let va := v.address x 0 0
  need (va % 64 == 0 && decide (va < Config.windowTop)) illState
  let ps ← s.xlatBytes v .load va 64
  let pas := ps.map (·.pa)
  let lp := wholeAccess va ps
  need (!s.mustWait v pas) .stall
  let desc := s.ownBytes v pas
  let specs := descRanges v.core code desc
  s.xlatRanges v (specs.getD [])
  s.needUnlocked v false 64 [lp]
  needClean [x] (fullMask 64)
  need (!s.ownPoison v pas) (.trap (Trap.plain .poison 0))
  match (List.range v.core.depRoom).find? fun e => (kgetD v.res.deps e DepEntry.fresh).state == .free with
  | none => .error .stall
  | some entry =>
    let gen := ((kgetD v.res.deps entry DepEntry.fresh).gen + 1) % 2 ^ 16
    let token := engToken entry gen
    let s0 := (s.lastUses v fm).checkRecords v (0x1F + 256 * code) [(0, va, 64, desc)]
    match specs with
    | none =>
      v.pathRoom (engPath code)
      let s1 := (s0.setDep n v.who.res entry { state := .free, gen := gen, cmd := none }).addOp v (engPath code) false []
        (.engine entry)
      let s2 := (s1.store ((pas.drop 12).take 4) (bytesOfNat 4 1)).engEvent n v.team.ctx token 1 2
      let s3 ← s2.writeD v d (Result.narrow (Value.uni token false))
      .ok ((s3.retire v).opReturn n v.core.nextOp)
    | some rs =>
      let held := (s.locksOf n v.who.res).length
      need (decide (held + (rs.filter fun x => x.lock && x.len != 0).length ≤ (s.core (s.home n v.who.res)).lockRoom)) .stall
      v.pathRoom (engPath code)
      let s1 := s0.takeEntry v code desc pas rs entry gen
      let s2 ← s1.writeD v d (Result.narrow (Value.uni token false))
      .ok (s2.retire v)

/-- ENG CPY (11 R279). -/
def execEngCpy (y : Bool) (d : BitVec 7) (a : BitVec 9) (s : State) : Host.Outcome State Fault Refusal :=
  issue y s fun v => engIssue 0 v s d a
/-- ENG CPY2D (11 R280). -/
def execEngCpy2d (y : Bool) (d : BitVec 7) (a : BitVec 9) (s : State) : Host.Outcome State Fault Refusal :=
  issue y s fun v => engIssue 1 v s d a
/-- ENG CPYG (11 R281). -/
def execEngCpyg (y : Bool) (d : BitVec 7) (a : BitVec 9) (s : State) : Host.Outcome State Fault Refusal :=
  issue y s fun v => engIssue 2 v s d a
/-- ENG CPYS (11 R281). -/
def execEngCpys (y : Bool) (d : BitVec 7) (a : BitVec 9) (s : State) : Host.Outcome State Fault Refusal :=
  issue y s fun v => engIssue 3 v s d a
/-- ENG FILL (11 R279). -/
def execEngFill (y : Bool) (d : BitVec 7) (a : BitVec 9) (s : State) : Host.Outcome State Fault Refusal :=
  issue y s fun v => engIssue 4 v s d a
/-- ENG KVC (11 R282). -/
def execEngKvc (y : Bool) (d : BitVec 7) (a : BitVec 9) (s : State) : Host.Outcome State Fault Refusal :=
  issue y s fun v => engIssue 5 v s d a
/-- ENG SELP (11 R287). -/
def execEngSelp (y : Bool) (d : BitVec 7) (a : BitVec 9) (s : State) : Host.Outcome State Fault Refusal :=
  issue y s fun v => engIssue 6 v s d a
/-- ENG SELK (11 R287). -/
def execEngSelk (y : Bool) (d : BitVec 7) (a : BitVec 9) (s : State) : Host.Outcome State Fault Refusal :=
  issue y s fun v => engIssue 7 v s d a
/-- ENG RDX (11 R290). -/
def execEngRdx (y : Bool) (d : BitVec 7) (a : BitVec 9) (s : State) : Host.Outcome State Fault Refusal :=
  issue y s fun v => engIssue 8 v s d a
/-- ENG LREG (11 R284). -/
def execEngLreg (y : Bool) (d : BitVec 7) (a : BitVec 9) (s : State) : Host.Outcome State Fault Refusal :=
  issue y s fun v => engIssue 9 v s d a
/-- ENG LREV (11 R285). -/
def execEngLrev (y : Bool) (d : BitVec 7) (a : BitVec 9) (s : State) : Host.Outcome State Fault Refusal :=
  issue y s fun v => engIssue 10 v s d a

/-! ### What engines read and write (11 R274, R278) -/

/-- The physical address of a command's byte. -/
def EngCmd.pa (c : EngCmd) (s : State) (n r va : Nat) : Nat :=
  if va < Config.windowTop then (s.windowPa n r va).getD 0
  else
    match (c.ranges.flatMap (·.leaves)).find? fun l => l.covers c.ctx va with
    | some l => (l.place va).pa
    | none => 0

/-- A byte on its way, and whether it is poisoned. -/
abbrev EngByte := Byte × Bool

/-- Read bytes. -/
def State.engRead (s : State) (pas : List Nat) : List EngByte := pas.map fun a => (readByte s.mem a, s.poisoned [a])

/-- Bytes by the 32-byte atoms they go to. -/
def atomRuns : List (Nat × EngByte) → List (List (Nat × EngByte))
  | [] => []
  | x :: xs =>
    match atomRuns xs with
    | (y :: ys) :: more => if x.1 / 32 = y.1 / 32 then (x :: y :: ys) :: more else [x] :: (y :: ys) :: more
    | more => [x] :: more

/-- Write bytes atom by atom: what a region discards meets RANGE; poison goes with its data (05 R117; 11 R274, R278).
DROP rises, and the region's event is posted, once for each atom that is discarded (DESIGN CHOICE, log 89).  The second
part is the conditions met. -/
def State.engWrite (s : State) (pas : List Nat) (bs : List EngByte) : State × Nat :=
  (atomRuns (pas.zip bs)).foldl (fun sc run =>
    let as := run.map (·.1)
    let bad := run.any (·.2.2)
    match sc.1.regionTouched as with
    | some (st, r) => (sc.1.discardWrite st r, sc.2 ||| 8 ||| if bad then 4 else 0)
    | none =>
      (sc.1.write as (run.map (·.2.1)) (if bad then as else []), if bad then sc.2 ||| 4 else sc.2)) (s, 0)

/-- Copy bytes. -/
def State.engCopy (s : State) (pa : Nat → Nat) (src dst n : Nat) : State × Nat :=
  s.engWrite ((span dst n).map pa) (s.engRead ((span src n).map pa))

/-- Copy rows one after another. -/
def State.engRows (s : State) (pa : Nat → Nat) (n : Nat) (rows : List (Nat × Nat)) : State × Nat :=
  rows.foldl (fun sc x =>
    let (s1, c) := sc.1.engCopy pa x.1 x.2 n
    (s1, sc.2 ||| c)) (s, 0)

/-- A gather, or a scatter when `scatter` (11 R281).  A poisoned index word is used as read (DESIGN CHOICE, log 121). -/
def State.engIndexed (s : State) (pa : Nat → Nat) (d : List Byte) (scatter : Bool) : State × Nat :=
  let f := leAt d
  let rb := f 40 4
  (List.range (f 44 4)).foldl (fun sc i =>
    let w := sc.1.engRead ((span (f 32 8 + 4 * i) 4).map pa)
    let x := leNat (w.map (·.1))
    let c := if w.any (·.2) then sc.2 ||| 4 else sc.2
    if f 48 4 ≤ x then (sc.1, c ||| 8)
    else
      let row := f 24 8 + i * rb
      let tab := f 16 8 + x * rb
      let (s1, c1) := if scatter then sc.1.engCopy pa row tab rb else sc.1.engCopy pa tab row rb
      (s1, c ||| c1)) (s, 0)

/-- A key/value commit (11 R283). -/
def State.engCommit (s : State) (n ctx : Nat) (pa : Nat → Nat) (d : List Byte) : State × Nat :=
  let f := leAt d
  let rb := f 40 4
  let rows := (List.range 64).filter (f 48 8).testBit
  let (s1, c1) := s.engRows pa rb
    ((rows.zip (List.range rows.length)).map fun x => (f 16 8 + x.1 * rb, f 24 8 + (f 44 4 + x.2) * rb))
  let state := bytesOfNat 4 ((f 44 4 + rows.length) % 2 ^ 32) ++ bytesOfNat 4 0
  let (s2, c2) := s1.engWrite ((span (f 32 8) 8).map pa) (state.map fun b => (b, false))
  if f 56 8 = 0 then (s2, c1 ||| c2)
  else
    let (s3, tag) := s2.nextTag n 32
    let (s4, took) := s3.regionOp 12 ctx tag (pa (f 56 8)) (bytesOfNat 4 1)
    (s4, c1 ||| c2 ||| if took then 0 else 16)

/-- A registration: STATUS 1 where 05 R113 is breached (11 R284).  The frames follow one another under the interleaved
decoding, or under the channel-local one. -/
def State.engRegister (s : State) (n ctx : Nat) (pa : Nat → Nat) (d : List Byte) : State × Nat :=
  let f := leAt d
  let base := pa (f 16 8)
  let size := f 24 4
  let wide := f 28 4 == 1
  let steps (cl : Bool) : Bool := (List.range (size / 64)).all fun i => pa (f 16 8 + 64 * i) == regionByte cl base (64 * i)
  match [false, true].find? steps with
  | some cl =>
    if dieOf base == n / 80 && s.regionFits cl base size wide then
      (s.registerRegion cl base size wide (toSigned 32 (f 32 4)) (f 36 4) ctx, 0)
    else (s, 2)
  | none => (s, 2)

/-- A revocation (11 R285). -/
def State.engRevoke (s : State) (ctx : Nat) (pa : Nat → Nat) (d : List Byte) : State × Nat :=
  let base := pa (leAt d 16 8)
  match s.regionAt base with
  | some (st, r) =>
    if r.base = base ∧ r.owner = ctx ∧ r.state = RegionState.opened then (s.revokeRegion st r, 0) else (s, 2)
  | none => (s, 2)

/-! ### Reduction (04 R99, 11 R290, R291) -/

/-- A node of the SUM tree: absent children pass the other on. -/
def sumNode (a b : Option DWord) : Option DWord :=
  match a, b with
  | some x, some y => some (addF .f32 .rne (decodeF .f32 x) (decodeF .f32 y)).1
  | some x, none => some x
  | none, y => y

/-- The SUM tree over eight buffers. -/
def sumTree (x : Nat → Option DWord) : Option DWord :=
  sumNode (sumNode (sumNode (x 0) (x 1)) (sumNode (x 2) (x 3))) (sumNode (sumNode (x 4) (x 5)) (sumNode (x 6) (x 7)))

/-- The translations of a buffer by a walker: none where a page has no valid leaf with R, or lies elsewhere
than in KIND 0 of the die (11 R290, 17 R348). -/
def State.bufferLeaves (s : State) (ctx die va n : Nat) : Option (List Leaf) :=
  let spec := RangeSpec.on va n false
  if va % 4 ≠ 0 ∨ !spec.legal ∨ va < Config.windowTop then none
  else spec.pieces.foldl (fun ls p =>
    match ls, s.context ctx with
    | some xs, some c =>
      match walk s.mem c.root ctx p.1 with
      | .ok l =>
        let pl := l.place p.1
        if AccClass.engineRead.allowed l.entry && pl.peer.isNone && dieOf pl.pa == die && kindOf pl.pa == 0 then some (l :: xs)
        else none
      | .error _ => none
    | _, _ => none) (some [])

/-- RDX (11 R290, R291).  A poisoned parameter block is used as read (DESIGN CHOICE, log 121). -/
def State.engReduce (s : State) (n ctx : Nat) (pa : Nat → Nat) (d : List Byte) : State × Nat :=
  let f := leAt d
  let count := f 32 4
  let pblk := (span (f 16 8) 64).map pa
  let addrs := readAll s.mem pblk
  let addr := fun i => leAt addrs (8 * i) 8
  let present := fun i => (f 36 1).testBit i
  let absentOk := (List.range 8).all fun i => present i || addr i == 0
  let apart := (List.range 8).all fun i =>
    !present i || addr i == f 24 8 || !overlaps (addr i) (4 * count) (f 24 8) (4 * count)
  let leaves := (List.range 8).map fun i => if present i then s.bufferLeaves ctx (n / 80) (addr i) (4 * count) else some []
  if !absentOk || !apart || leaves.any Option.isNone then (s, 2)
  else
    let at_ := fun (i va : Nat) =>
      match (((leaves.getD i none).getD []).find? fun l => l.covers ctx va) with
      | some l => (l.place va).pa
      | none => 0
    let bad0 := if s.poisoned pblk then 4 else 0
    let sums := (List.range count).flatMap fun e =>
      let word := fun i => (span (addr i + 4 * e) 4).map (at_ i)
      let vals := fun i => if present i then some (BitVec.ofNat 64 (leNat (readAll s.mem (word i)))) else none
      let bad := (List.range 8).any fun i => present i && s.poisoned (word i)
      (bytesOfNat 4 ((sumTree vals).getD 0).toNat).map fun b => (b, bad)
    let (s1, c1) := s.engWrite ((span (f 24 8) (4 * count)).map pa) sums
    if f 40 8 = 0 then (s1, bad0 ||| c1)
    else
      let (s3, c3) := s1.engWrite ((span (f 40 8) 4).map pa) ((bytesOfNat 4 (f 48 4)).map fun b => (b, false))
      (s3, bad0 ||| c1 ||| c3)

/-! ### Selection (11 R288, R289) -/

/-- An element as an exact value. -/
def selValue (t x : Nat) : FVal :=
  match t with
  | 2 => intExact (toSigned 32 x)
  | 6 => intExact x
  | t => decodeF ((fmtOfType t).getD .f32) (BitVec.ofNat 64 x)

/-- A candidate: index, bits, whether it is poisoned. -/
structure Pick where
  index : Nat
  bits : Nat
  bad : Bool
  deriving DecidableEq, Repr

/-- Insert a candidate before the first smaller one. -/
def insertPick (t : Nat) (x : Pick) : List Pick → List Pick
  | [] => [x]
  | y :: ys => if (selValue t y.bits).lt (selValue t x.bits) then x :: y :: ys else y :: insertPick t x ys

/-- What a selection returns: the picks in slot order, and granule 1 of the head. -/
def selectPicks (selp : Bool) (t cond n value : Nat) (xs : List Pick) : List Pick × Nat :=
  if selp then
    let v := selValue t value
    let hits := xs.filter fun x => (fltCond cond (selValue t x.bits) v).getD false
    (hits.take n, min hits.length 0xFFFFFFFF)
  else
    let (nans, nums) := xs.partition fun x => (selValue t x.bits).isNan
    (nums.foldl (fun ys x => (insertPick t x ys).take n) [], min nans.length 0xFFFFFFFF)

/-- The result's granules, each with its poison (11 R289). -/
def pickGranules (n ibase : Nat) (picks : List Pick) (second : Nat) : List (Nat × Bool) :=
  [(picks.length, false), (second, false)] ++ (List.range n).flatMap fun i =>
    match picks[i]? with
    | some p => [(p.bits, p.bad), ((ibase + p.index) % 2 ^ 32, false)]
    | none => [(0, false), (0xFFFFFFFF, false)]

/-- Send granules in packets of up to 64 bytes, none across a 64-byte boundary; `fuel` packets at most.  The tags. -/
def State.sendGranules (s : State) (st ctx : Nat) (pa : Nat → Nat) : Nat → Nat → List (Nat × Bool) → State × List Nat
  | 0, _, _ => (s, [])
  | fuel + 1, va, gs =>
    if gs = [] then (s, [])
    else
      let now := gs.take (16 - va % 64 / 4)
      let (s1, tag) := s.nextTag (672 + st) 1
      let s2 := s1.sendPacket
        { tag := tag, sys := false, kind := .reply, code := 0, target := pa va, landing := 0, size := 4 * now.length
          data := now.flatMap fun g => bytesOfNat 4 g.1
          poison := (List.range now.length).filter fun i => (now.getD i (0, false)).2
          request := 0, ctx := ctx, peer := none, remote := none, srcDie := st / 2, fromDev := none, toDev := none }
      let (s3, tags) := s2.sendGranules st ctx pa fuel (va + 4 * now.length) (gs.drop now.length)
      (s3, tag :: tags)

/-- A selection scans and sends its result (11 R288, R289): the tags, and the conditions met. -/
def State.engSelect (s : State) (st ctx : Nat) (pa : Nat → Nat) (code : Nat) (d : List Byte) : State × List Nat × Nat :=
  let f := leAt d
  let t := f 28 1
  let size := (etypeBytes t).getD 4
  let xs := (List.range (f 24 4)).map fun i =>
    let w := s.engRead ((span (f 16 8 + i * size) size).map pa)
    ({ index := i, bits := leNat (w.map (·.1)), bad := w.any (·.2) } : Pick)
  let (picks, second) := selectPicks (code == 6) t (f 29 1) (f 30 2) (f 32 4) xs
  let (s1, tags) := s.sendGranules st ctx pa 40 (f 40 8) (pickGranules (f 30 2) (f 36 4) picks second)
  (s1, tags, if xs.any (·.bad) then 4 else 0)

/-! ### The engines' events (11 R274, R275, R286) -/

/-- Whether a command goes to a base die. -/
def onBaseDie (code : Nat) : Bool := code == 6 || code == 7 || code == 8

/-- Copy-engine commands that run on a core (11 R275). -/
def Core.copiesRunning (c : Core) : Nat :=
  ((c.r0.deps ++ c.r1.deps).filter fun p => p.2.state == .running && !((p.2.cmd.map fun x => onBaseDie x.code).getD true)).length

/-- The base die that takes a command: that of the first byte of SADDR or DADDR (11 R286). -/
def EngCmd.stack (c : EngCmd) (s : State) (n r : Nat) : Nat := stackOf (c.pa s n r (leAt c.desc (if c.code = 8 then 24 else 16) 8))

/-- Whether the engine of a command has room (11 R275). -/
def State.engineRoom (s : State) (n r : Nat) (c : EngCmd) : Bool :=
  if onBaseDie c.code then
    let h := s.agent (c.stack s n r)
    decide ((if c.code = 8 then h.sums else h.queue).length < 64)
  else decide ((s.core n).copiesRunning < 8)

/-- A READY command: its residency, its entry and the command. -/
structure ReadyCmd where
  res : Nat
  entry : Nat
  cmd : EngCmd
  deriving DecidableEq, Repr

/-- The READY commands of a residency whose engine has room. -/
def State.readyIn (s : State) (n r : Nat) : List ReadyCmd :=
  (s.res n r).deps.filterMap fun p =>
    match p.2.state, p.2.cmd with
    | .ready, some c => if s.engineRoom n r c then some { res := r, entry := p.1, cmd := c } else none
    | _, _ => none

/-- The READY command of a core that its copy engine accepts next: first by readiness, then by entry (11 R275; log 100). -/
def State.nextReady (s : State) (n : Nat) : Option ReadyCmd :=
  (s.readyIn n 0 ++ s.readyIn n 1).foldl (fun best x =>
    match best with
    | none => some x
    | some b =>
      if x.cmd.readyAt < b.cmd.readyAt ∨ (x.cmd.readyAt = b.cmd.readyAt ∧ x.entry < b.entry) then some x else some b) none

/-- ENGINE_ACCEPT (11 R275). -/
def execEngineAccept (core res : Nat) (s : State) : Host.Outcome State Fault Refusal :=
  event s <| ((s.nextReady core).filter fun x => x.res == res).map fun x =>
    let s1 := s.modRes core res fun r => { r with deps := kmod r.deps x.entry fun e => { e with state := .running } }
    let q : BaseCmd := { core := core, res := res, entry := x.entry }
    if x.cmd.code = 8 then s1.modAgent (x.cmd.stack s core res) fun h => { h with sums := h.sums ++ [q] }
    else if onBaseDie x.cmd.code then s1.modAgent (x.cmd.stack s core res) fun h => { h with queue := h.queue ++ [q] }
    else s1

/-- The command of a base die's record. -/
def State.baseCmd (s : State) (q : BaseCmd) : Option EngCmd := (kget (s.res q.core q.res).deps q.entry).bind (·.cmd)

/-- Change the command of an entry. -/
def State.modCmd (s : State) (n r entry : Nat) (f : EngCmd → EngCmd) : State :=
  s.modRes n r fun x => { x with deps := kmod x.deps entry fun e => { e with cmd := e.cmd.map f } }

/-- Whether every earlier load of the issuing ply from a command's destinations has returned (05 R127). -/
def State.destClear (s : State) (n r : Nat) (c : EngCmd) : Bool :=
  match s.op n c.op with
  | none => true
  | some me =>
    let loads := (s.core n).ops.filter fun p => decide (p.1 < c.op) && !p.2.done && p.2.res == r && p.2.slot == me.slot
      && p.2.fibre == me.fibre && p.2.ply == me.ply && p.2.path == 0
    if loads = [] then true
    else
      let dests := (c.ranges.filter (·.dest)).flatMap fun g => (span g.va g.len).map (c.pa s n r)
      loads.all fun p => match p.2.body.near with
        | some (pas, _) => pas.all fun a => !dests.contains a
        | none => true

/-- The selection engine takes its oldest command, when its base die may send far packets and every earlier load of
the ply from OUT has returned (05 R127, R128): it scans and sends the result. -/
def State.startSelect (s : State) (stack : Nat) : Option State :=
  let h := s.agent stack
  match h.running, h.queue with
  | none, q :: qs =>
    if !h.farReady || h.down then none
    else
      ((s.baseCmd q).filter fun c => s.destClear q.core q.res c).map fun c =>
        let s1 := s.modAgent stack fun h => { h with queue := qs, running := some q }
        let (s2, tags, conds) := s1.engSelect stack c.ctx (c.pa s q.core q.res) c.code c.desc
        s2.modCmd q.core q.res q.entry fun c => { c with packets := tags, conds := c.conds ||| conds }
  | _, _ => none

/-- The reduction engine takes its oldest command. -/
def State.startReduce (s : State) (stack : Nat) : Option State :=
  let h := s.agent stack
  match h.summing, h.sums with
  | none, q :: qs => if h.down then none else some (s.modAgent stack fun h => { h with sums := qs, summing := some q })
  | _, _ => none

/-- BASE_DIE_COMMAND_START (11 R286, R288, R289): an idle engine of a base die takes its oldest command. -/
def execBaseDieCommandStart (stack : Nat) (s : State) : Host.Outcome State Fault Refusal :=
  event s <|
    match s.startSelect stack with
    | some t => some t
    | none => s.startReduce stack

/-- The STATUS of the conditions met: the lowest (11 R274). -/
def engStatus (conds : Nat) : Nat := ((List.range 6).find? conds.testBit).getD 0

/-- A command's last effect has been performed (11 R274, R275). -/
def State.engEnd (s : State) (n r entry : Nat) (e : DepEntry) (c : EngCmd) (conds : Nat) : State :=
  let status := engStatus conds
  let s1 := s.store c.statusPas (bytesOfNat 4 status)
  let s2 := s1.engEvent n c.ctx (engToken entry e.gen) status conds
  let s3 := s2.modRes (s.home n r) r fun x => { x with locks := x.locks.filter fun l => l.entry != lockKey n entry }
  let s4 := s3.setDep n r entry { e with state := .free, cmd := none }
  (s4.opReturn n c.op).tokenEnds n r

/-- ENG_COMMAND_COMPLETE (11 R274, R275, R278 to R291). -/
def execEngCommandComplete (core res entry : Nat) (s : State) : Host.Outcome State Fault Refusal :=
  event s <|
    match kget (s.res core res).deps entry with
    | none => none
    | some e =>
      match e.state, e.cmd with
      | .running, some c =>
        if !s.destClear core res c then none else
        let pa := c.pa s core res
        let f := leAt c.desc
        let me : BaseCmd := { core := core, res := res, entry := entry }
        let fin := fun (x : State × Nat) => some (x.1.engEnd core res entry e c (c.conds ||| x.2))
        match c.code with
        | 0 => fin (s.engCopy pa (f 16 8) (f 24 8) (f 32 4))
        | 1 => fin (s.engRows pa (f 32 4) ((List.range (f 36 4)).map fun (i : Nat) =>
            ((((f 16 8 : Nat) : Int) + (i : Int) * toSigned 32 (f 40 4)).toNat,
              (((f 24 8 : Nat) : Int) + (i : Int) * toSigned 32 (f 44 4)).toNat)))
        | 2 => fin (s.engIndexed pa c.desc false)
        | 3 => fin (s.engIndexed pa c.desc true)
        | 4 => fin (s.engWrite ((span (f 16 8) (f 24 4)).map pa)
            ((List.range (f 24 4)).map fun j => (c.desc.getD (32 + j % 16) 0, false)))
        | 5 => fin (s.engCommit core c.ctx pa c.desc)
        | 9 => fin (s.engRegister core c.ctx pa c.desc)
        | 10 => fin (s.engRevoke c.ctx pa c.desc)
        | 8 =>
          let st := c.stack s core res
          if (s.agent st).summing = some me then
            fin ((s.modAgent st fun h => { h with summing := none }).engReduce core c.ctx pa c.desc)
          else none
        | _ =>
          let st := c.stack s core res
          if (s.agent st).running = some me ∧ c.packets = [] then
            fin (s.modAgent st fun h => { h with running := none }, 0)
          else none
      | _, _ => none

end Sys2Proof.Machine
end

