-- ==== Sys2Proof/Machine/Bank.lean ====
section
/-! DEFINITION. Bank units: ownership of pseudo-channels and the `BNK` commands (04 R98, R99; 11 R293 to R297; 15 R324). -/

namespace Sys2Proof.Machine

open Sys2Proof

/-! ### Pseudo-channels -/

/-- A pseudo-channel, by its module number (01 R9). -/
def State.channel (s : State) (q : Nat) : Channel := kgetD s.channels q Channel.reset

/-- Change a pseudo-channel. -/
def State.modChannel (s : State) (q : Nat) (f : Channel → Channel) : State :=
  { s with channels := kset s.channels q (f (s.channel q)) }

/-- A bank register (11 R293). -/
def Channel.reg (c : Channel) (bank k : Nat) : BankReg := kgetD c.k (8 * bank + k) ⟨0, false⟩

/-- Write a bank register. -/
def Channel.setReg (c : Channel) (bank k : Nat) (x : BankReg) : Channel := { c with k := kset c.k (8 * bank + k) x }

/-- The issuing fibre as an owner (11 R293). -/
def View.owner (v : View) : ChOwner :=
  { ctx := v.team.ctx, launch := v.team.launch, team := v.team.num, fibre := v.fib.num, gone := false }

/-- The physical address of a byte of a pseudo-channel by its local address (05 R103). -/
def channelPa (q loc : Nat) : Nat := paOf (q / 512) 0 (interOff (channelQ q) loc)

/-- A trap of a bank address. -/
def bankTrap (v : View) (k : TrapKind) (va : Nat) : Stop :=
  .trap { Trap.plain k 0 with lanes := v.active, addr := BitVec.ofNat 64 va }

/-- Where a bank address lies, and whether in a channel-local page. -/
def State.bankPlace (s : State) (v : View) (cls : AccClass) (va : Nat) : Except Stop (Place × Bool) :=
  if va < Config.windowTop then do
    let p ← s.xlat v cls va
    .ok (p, false)
  else
    match (v.fills ++ v.core.tlb).find? fun l => l.covers v.team.ctx va && cls.allowed l.entry with
    | some l => .ok (l.place va, entryCl l.entry && !entryPeer l.entry)
    | none => .error (.miss va cls)

/-- The pseudo-channel and the local address of a bank address: FAR on another die, SCOPE on a page of
another attribute (11 R293, R294). -/
def State.bankAddr (s : State) (v : View) (cls : AccClass) (va : Nat) : Except Stop (Nat × Nat) := do
  let (p, cl) ← s.bankPlace v cls va
  need (!p.far v.who.core) (bankTrap v .far va)
  need cl (bankTrap v .scope va)
  .ok (channelOf p.pa, localOff (offOf p.pa))

/-! ### Ownership (11 R293) -/

/-- PCOWN (11 R293). -/
def execPcown (y : Bool) (d : BitVec 7) (a : BitVec 9) (s : State) : Host.Outcome State Fault Refusal :=
  issue y s fun v => do
    let ua := v.addrUse a .a
    let x := v.read ua none
    let fm : Form := { uses := [ua], d := some { dUse d 1 false with fixed := true } }
    v.check fm true okay (do needU x a; v.arrivalOk fm d 1 .u)
    if v.active = 0 then .ok ((s.lastUses v fm).retire v)
    else do
      let (q, _) ← s.bankAddr v .bankRead (v.address x 0 0)
      needClean [x] v.active
      let me := some v.owner
      let held := s.channels.filter fun p => p.2.owner == me
      let st : Nat := if (s.channel q).owner = me then 0
        else if (s.channel q).owner.isSome then 1
        else if 4 ≤ held.length then 2 else 0
      let s1 := if st = 0 then s.modChannel q fun c => { c with owner := me } else s
      s1.finishPlain v fm d (Result.narrow (Value.uni (BitVec.ofNat 32 st) false))

/-- PCREL (11 R293): it waits for the channel's commands.  Its page needs the right to read the bank (DEDUCED, log 60). -/
def execPcrel (y : Bool) (a : BitVec 9) (s : State) : Host.Outcome State Fault Refusal :=
  issue y s fun v => do
    let ua := v.addrUse a .a
    let x := v.read ua none
    let fm : Form := { uses := [ua], d := none }
    v.check fm true okay (needU x a)
    if v.active = 0 then .ok ((s.lastUses v fm).retire v)
    else do
      let (q, _) ← s.bankAddr v .bankRead (v.address x 0 0)
      needClean [x] v.active
      let s0 := s.lastUses v fm
      if (s.channel q).owner ≠ some v.owner then .ok (s0.retire v)
      else do
        need ((s.channel q).queue == []) .stall
        let s1 := s0.modChannel q fun c => { c with owner := none, allBank := false }
        .ok ((s1.onFibre v fun f =>
          if f.spec.bankCh = some q then { f with spec := { f.spec with bankCh := none } } else f).retire v)

/-! ### Issuing commands (11 R294) -/

/-- The bank set of the active mask. -/
def View.bankSet (v : View) : List Nat := (List.range 16).filter fun b => v.lanes.any fun l => l % 16 == b

/-- A command becomes outstanding at a pseudo-channel. -/
def State.bankIssue (s : State) (v : View) (code q va : Nat) (body : OpBody) (act : BankDo) : State :=
  let key := (s.core v.who.core).nextOp
  let s1 := (s.checkRecords v (0x0E + 256 * code) [(0, va, 0, [])]).addOp v 4 false [va / 65536] body
  s1.modChannel q fun c => { c with queue := c.queue ++ [{ core := v.who.core, op := key, by_ := v.owner, banks := v.bankSet, act := act }] }

/-- Stall where the bank counter is full or an acquire of the fibre is outstanding (05 R121, R131). -/
def View.bankRoom (v : View) (s : State) : Except Stop Unit := do
  v.pathRoom 4
  need (!s.acquiring v) .stall

/-- BANKBUSY (11 R294). -/
def bankBusy : Stop := .trap (Trap.plain .bankbusy 0)

/-- ILL where the bank bits or the low bits of a local address are set (11 R294). -/
def needColumn (va : Nat) : Except Stop Unit := need (va % 32 == 0 && va / 1024 % 16 == 0) illState

/-- The bank channel, BANKBUSY without one. -/
def View.bankChannel (v : View) : Except Stop Nat :=
  match v.fib.spec.bankCh with
  | some q => .ok q
  | none => .error bankBusy

/-- A command at an address of the bank channel: `BLD`, `BST`, `BMAC`.  A fibre without a bank channel raises BANKBUSY
before the address is translated, and so before FAR (DESIGN CHOICE, log 92). -/
def bankAt (v : View) (s : State) (code : Nat) (a : BitVec 9) (cls : AccClass) (act : Nat → BankDo) : Except Stop State := do
  let ua := v.addrUse a .a
  let x := v.read ua none
  let fm : Form := { uses := [ua], d := none }
  v.check fm true okay (needU x a)
  if v.active = 0 then .ok ((s.lastUses v fm).retire v)
  else do
    let va := v.address x 0 0
    needColumn va
    let ch ← v.bankChannel
    let (q, loc) ← s.bankAddr v cls va
    need (q == ch) bankBusy
    needClean [x] v.active
    v.bankRoom s
    .ok (((s.lastUses v fm).bankIssue v code q va (.bank q) (act loc)).retire v)

/-- BNK BMODE (11 R294).  Its page needs the right to read the bank (DEDUCED, log 60). -/
def execBnkBmode (y : Bool) (a : BitVec 9) (s : State) : Host.Outcome State Fault Refusal :=
  issue y s fun v => do
    let ua := v.addrUse a .a
    let x := v.read ua none
    let fm : Form := { uses := [ua], d := none }
    v.check fm true okay (needU x a)
    if v.active = 0 then .ok ((s.lastUses v fm).retire v)
    else do
      let va := v.address x 0 0
      needColumn va
      let (q, _) ← s.bankAddr v .bankRead va
      need ((s.channel q).owner == some v.owner && v.fib.spec.bankCh.isNone) bankBusy
      needClean [x] v.active
      v.bankRoom s
      let s1 := (s.lastUses v fm).bankIssue v 0 q va (.bank q) .enter
      .ok ((s1.onFibre v fun f => { f with spec := { f.spec with bankCh := some q } }).retire v)

/-- BNK BEXIT (11 R294). -/
def execBnkBexit (y : Bool) (s : State) : Host.Outcome State Fault Refusal :=
  issue y s fun v => do
    if v.active = 0 then .ok (s.retire v)
    else do
      let q ← v.bankChannel
      v.bankRoom s
      let s1 := s.bankIssue v 1 q 0 (.bank q) .leave
      .ok ((s1.onFibre v fun f => { f with spec := { f.spec with bankCh := none } }).retire v)

/-- BNK BLD (11 R294). -/
def execBnkBld (y : Bool) (k : BitVec 3) (a : BitVec 9) (s : State) : Host.Outcome State Fault Refusal :=
  issue y s fun v => bankAt v s 2 a .bankRead (.load k.toNat)

/-- BNK BST (11 R294). -/
def execBnkBst (y : Bool) (k : BitVec 3) (a : BitVec 9) (s : State) : Host.Outcome State Fault Refusal :=
  issue y s fun v => bankAt v s 3 a .bankWrite (.store k.toNat)

/-- BNK BMAC (11 R294). -/
def execBnkBmac (y : Bool) (kv k : BitVec 3) (a : BitVec 9) (s : State) : Host.Outcome State Fault Refusal :=
  issue y s fun v => bankAt v s 5 a .bankRead (.mac k.toNat kv.toNat)

/-- BNK BBC (11 R294); BANKBUSY stands where `bankAt` has it (log 92). -/
def execBnkBbc (y : Bool) (k : BitVec 3) (a : BitVec 9) (s : State) : Host.Outcome State Fault Refusal :=
  issue y s fun v => do
    let ua := v.addrUse a .a
    let x := v.read ua none
    let fm : Form := { uses := [ua], d := none }
    v.check fm true okay (needU x a)
    if v.active = 0 then .ok ((s.lastUses v fm).retire v)
    else do
      let q ← v.bankChannel
      let va := v.address x 0 0
      let ps ← s.xlatBytes v .bankRead va 32
      let lp : LanePlace := { lane := v.lanes.headD 0, va := va, places := ps }
      v.needNear [lp]
      need (va % 32 == 0 && ps.all fun p => kindOf p.pa == 1 && (s.teamCores v.who.core v.who.res).contains (scratchCore p.pa))
        (bankTrap v .scope va)
      s.needUnlocked v false 32 [lp]
      needClean [x] v.active
      let pas := ps.map (·.pa)
      need (!s.mustWait v pas) .stall
      v.bankRoom s
      .ok (((s.lastUses v fm).bankIssue v 4 q va (.bank q) (.broadcast k.toNat (s.ownBytes v pas) (s.ownPoison v pas))).retire v)

/-- BNK BRD (11 R295). -/
def execBnkBrd (y : Bool) (d : BitVec 7) (s : State) : Host.Outcome State Fault Refusal :=
  issue y s fun v => do
    let fm : Form := { uses := [], d := some { dUse d 1 false with fixed := true, discard := false } }
    v.check fm true okay (v.arrivalOk fm d 1 .g)
    if v.active = 0 then .ok (s.retire v)
    else do
      let q ← v.bankChannel
      v.bankRoom s
      .ok ((s.bankIssue v 6 q 0 (.bankRead (v.dest d)) (.read (v.dest d))).retire v)

/-- BNK BRED (11 R295). -/
def execBnkBred (y : Bool) (k : BitVec 3) (o : BitVec 2) (s : State) : Host.Outcome State Fault Refusal :=
  issue y s fun v => do
    need (decide (o.toNat ≤ 2)) illEncoding
    if v.active = 0 then .ok (s.retire v)
    else do
      let q ← v.bankChannel
      v.bankRoom s
      .ok ((s.bankIssue v 7 q 0 (.bank q) (.reduce o.toNat k.toNat)).retire v)

/-- Whether the issuing team's context is privileged (06 R149). -/
def State.privileged (s : State) (v : View) : Bool := ((s.context v.team.ctx).map (·.privileged)).getD false

/-- A privileged command on the save row (15 R321, R324). -/
def bankSave (v : View) (s : State) (code : Nat) (a : BitVec 9) (act : BankDo) : Except Stop State := do
  let ua := v.addrUse a .a
  let x := v.read ua none
  let fm : Form := { uses := [ua], d := none }
  v.check fm true (need (s.privileged v) illPrivilege) (needU x a)
  if v.active = 0 then .ok ((s.lastUses v fm).retire v)
  else do
    let va := v.address x 0 0
    let (p, cl) ← s.bankPlace v .bankRead va
    need (cl && !p.far v.who.core) illState
    needClean [x] v.active
    v.bankRoom s
    let q := channelOf p.pa
    .ok (((s.lastUses v fm).bankIssue v code q va (.bank q) act).retire v)

/-- BNK BSAVE (15 R321, R324). -/
def execBnkBsave (y : Bool) (a : BitVec 9) (s : State) : Host.Outcome State Fault Refusal :=
  issue y s fun v => bankSave v s 8 a .save

/-- BNK BRST (15 R321, R324). -/
def execBnkBrst (y : Bool) (a : BitVec 9) (s : State) : Host.Outcome State Fault Refusal :=
  issue y s fun v => bankSave v s 9 a .restore

/-! ### What a bank unit computes (04 R98, R99) -/

/-- Word `j` of a bank register. -/
def BankReg.word (x : BankReg) (j : Nat) : DWord := (x.bits.extractLsb' (32 * j) 32).setWidth 64

/-- Half word `j` of a bank register, an f16 value. -/
def BankReg.half (x : BankReg) (j : Nat) : FVal := decodeF .f16 ((x.bits.extractLsb' (16 * j) 16).setWidth 64)

/-- A bank register of eight words. -/
def BankReg.ofWords (ws : List DWord) (bad : Bool) : BankReg :=
  ⟨BitVec.ofNat 256 (ws.foldr (fun w n => n * 2 ^ 32 + w.toNat % 2 ^ 32) 0), bad⟩

/-- BMAC on one bank (04 R98). -/
def bankMac (kd kv col : BankReg) : BankReg :=
  BankReg.ofWords ((List.range 8).map fun j =>
    let t := addExact (mulExact (col.half (2 * j)) (kv.half (2 * j))) (mulExact (col.half (2 * j + 1)) (kv.half (2 * j + 1)))
    (addF .f32 .rne (decodeF .f32 (kd.word j)) (decodeF .f32 (rneBits .f32 t))).1) (kd.poison || kv.poison || col.poison)

/-- A MAX node (04 R99). -/
def maxNode (a b : DWord) : DWord :=
  let x := decodeF .f32 a
  let z := decodeF .f32 b
  if x.isNan || z.isNan then nanBits .f32 else (minMaxF .f32 true x z).1

/-- s × 2^(mi − m), rounded once, `mi` at most `m` (04 R99). -/
def scaleTerm (s : FVal) (mi m : FVal) : DWord :=
  match mi, m with
  | .inf true, _ => 0
  | .inf false, _ => encodeF .f32 s
  | _, .inf false => 0
  | .fin n1 m1 e1, .fin n2 m2 e2 =>
    match s with
    | .fin n k e =>
      let (neg, d, q) := sumFin .rne n1 m1 e1 (!n2) m2 e2
      let (x, p, sticky) := exp2Exact neg d q
      if k = 0 then zeroBits .f32 n
      else if sticky then (roundF .f32 .rne n (k * x / 2 ^ 30) (e + p + 30) true).1
      else (roundF .f32 .rne n (k * x) (e + p) false).1
    | y => encodeF .f32 y
  | _, _ => nanBits .f32

/-- A SEXP node on a pair (04 R99). -/
def sexpNode (m1 s1 m2 s2 : DWord) : DWord × DWord :=
  if ([m1, s1, m2, s2].any fun x => (decodeF .f32 x).isNan) then (nanBits .f32, nanBits .f32)
  else
    let m := maxNode m1 m2
    let t := fun (mi si : DWord) => decodeF .f32 (scaleTerm (decodeF .f32 si) (decodeF .f32 mi) (decodeF .f32 m))
    (m, (addF .f32 .rne (t m1 s1) (t m2 s2)).1)

/-- A node of a reduction tree on eight words (04 R99, 11 R295). -/
def bankNode (op : Nat) (a b : BankReg) : BankReg :=
  let bad := a.poison || b.poison
  if op = 2 then
    BankReg.ofWords ((List.range 4).flatMap fun j =>
      let (m, t) := sexpNode (a.word (2 * j)) (a.word (2 * j + 1)) (b.word (2 * j)) (b.word (2 * j + 1))
      [m, t]) bad
  else
    BankReg.ofWords ((List.range 8).map fun j =>
      if op = 1 then maxNode (a.word j) (b.word j)
      else (addF .f32 .rne (decodeF .f32 (a.word j)) (decodeF .f32 (b.word j))).1) bad

/-- A node with absent children. -/
def bankNode? (op : Nat) (a b : Option BankReg) : Option BankReg :=
  match a, b with
  | some x, some y => some (bankNode op x y)
  | some x, none => some x
  | none, y => y

/-- The tree over 2^n banks from bank `b` (04 R99). -/
def bankTree (op : Nat) (leaf : Nat → Option BankReg) : Nat → Nat → Option BankReg
  | 0, b => leaf b
  | n + 1, b => bankNode? op (bankTree op leaf n b) (bankTree op leaf n (b + 2 ^ n))

/-! ### A command at its pseudo-channel (11 R294 to R297) -/

/-- 32 bytes of memory as a bank register. -/
def State.atomReg (s : State) (as : List Nat) : BankReg := ⟨BitVec.ofNat 256 (leNat (readAll s.mem as)), s.poisoned as⟩

/-- Store a bank register; a region discards it (05 R117). -/
def State.storeReg (s : State) (as : List Nat) (x : BankReg) : State :=
  match s.regionTouched as with
  | some (st, r) => s.discardWrite st r
  | none =>
    s.write as (bytesOfNat 32 x.bits.toNat) (if x.poison then as else [])

/-- The place of register `k` of a bank, or of the root for `k` 8 of bank 0, in the save row (05 R103, 11 R297). -/
def saveRow (q bank k : Nat) : List Nat := (span (12287 * 16384 + bank * 1024 + 32 * k) 32).map (channelPa q)

/-- Write a channel's registers and root to its save row (11 R297, 15 R324). -/
def State.saveRows (s : State) (q : Nat) : State :=
  let c := s.channel q
  let s1 := (List.range 128).foldl (fun s i => s.storeReg (saveRow q (i / 8) (i % 8)) (c.reg (i / 8) (i % 8))) s
  s1.storeReg (saveRow q 0 8) c.root

/-- Reload a channel's registers and root from its save row. -/
def State.loadRows (s : State) (q : Nat) : State :=
  (List.range 128).foldl (fun s i =>
    s.modChannel q fun c => c.setReg (i / 8) (i % 8) (s.atomReg (saveRow q (i / 8) (i % 8)))) s
    |>.modChannel q fun c => { c with root := s.atomReg (saveRow q 0 8) }

/-- What a command does. -/
def State.bankDo (s : State) (q : Nat) (b : BankCmd) : State :=
  let c := s.channel q
  let place := fun (at_ bank : Nat) => (span (at_ + bank * 1024) 32).map (channelPa q)
  match b.act with
  | .enter => s.modChannel q fun c => { c with allBank := true, root := ⟨0, false⟩ }
  | .leave => s.modChannel q fun c => { c with allBank := false }
  | .load k at_ => b.banks.foldl (fun s i => s.modChannel q fun c => c.setReg i k (s.atomReg (place at_ i))) s
  | .store k at_ => b.banks.foldl (fun s i => s.storeReg (place at_ i) (c.reg i k)) s
  | .broadcast k data bad =>
    b.banks.foldl (fun s i => s.modChannel q fun c => c.setReg i k ⟨BitVec.ofNat 256 (leNat data), bad⟩) s
  | .mac kd kv at_ =>
    b.banks.foldl (fun s i => s.modChannel q fun c => c.setReg i kd (bankMac (c.reg i kd) (c.reg i kv) (s.atomReg (place at_ i)))) s
  | .reduce op k =>
    s.modChannel q fun c =>
      { c with root := (bankTree op (fun i => if b.banks.contains i then some (c.reg i k) else none) 4 0).getD c.root }
  | .read d =>
    match s.op b.core b.op with
    | some o => s.giveLanes b.core o.res o.slot o.active d 0 (fun l => (c.root.word (l % 8)).setWidth 32)
        (if c.root.poison then o.active else 0)
    | none => s
  | .save => s.saveRows q
  | .restore => s.loadRows q

/-- BNK_COMMAND_COMPLETE (11 R294, R296): the oldest command of the channel; the last one of an owner that is
DONE gives the channel up (08 R205, 11 R293). -/
def execBnkCommandComplete (pch : Nat) (s : State) : Host.Outcome State Fault Refusal :=
  event s <|
    match (s.channel pch).queue with
    | [] => none
    | b :: bs =>
      let s1 := (s.modChannel pch fun c => { c with queue := bs }).bankDo pch b
      let gone := (s.channel pch).owner == some { b.by_ with gone := true }
      let s2 := if gone && !(bs.any (·.by_ == b.by_)) then s1.modChannel pch fun c => { c with owner := none, allBank := false } else s1
      some (s2.opReturn b.core b.op)

end Sys2Proof.Machine
end

