-- ==== Sys2Proof/Machine/Copies.lean ====
section
/-! DEFINITION. Check copies of sampled teams: where a team is, what of the machine is a copy's own, and the module as a copy
has it (18 R380, R381; log 45). -/

namespace Sys2Proof.Machine

open Sys2Proof

/-! ### Where a team is -/

/-- Whether a team is of a launch and has a number. -/
def Team.isOf (t : Team) (launch num : Nat) : Bool := t.launch == launch && t.num == num

/-- Whether a team is sampled (18 R379). -/
def Team.sampled (t : Team) : Bool := (t.det.map (·.sampled)).getD false

/-- The residency of a team, by launch and number. -/
def State.findTeam (s : State) (launch num : Nat) : Option (Nat × Nat) :=
  s.cores.findSome? fun p => [0, 1].findSome? fun r =>
    match (p.2.res r).team with
    | some t => if t.launch = launch ∧ t.num = num then some (p.1, r) else none
    | none => none

/-- The residencies of a saved team. -/
def Saved.residencies (x : Saved) : List Residency := x.even :: x.odd.toList

/-- The teams that are on no core: aside while another has its turn, about to be restored, waiting in a list, in a save area,
saved for a test. -/
def State.awayTeams (s : State) : List Saved :=
  (s.cores.flatMap fun p => p.2.turns ++ p.2.restore.map fun q => q.2.saved)
    ++ (s.control.lists.flatMap fun l => l.2.filterMap (·.saved)) ++ s.control.areas.map (·.2) ++ s.control.underTest.map (·.2)

/-- A team that is on no core, by launch and number. -/
def State.findSaved (s : State) (launch num : Nat) : Option Saved := s.awayTeams.find? fun x => x.team.isOf launch num

/-- Change the teams that are on no core. -/
def State.mapSaved (s : State) (f : Saved → Saved) : State :=
  { s with
    cores := s.cores.map fun p =>
      (p.1, { p.2 with turns := p.2.turns.map f, restore := p.2.restore.map fun q => (q.1, { q.2 with saved := f q.2.saved }) })
    control := { s.control with
      lists := s.control.lists.map fun l => (l.1, l.2.map fun w => { w with saved := w.saved.map f })
      areas := s.control.areas.map fun p => (p.1, f p.2)
      underTest := s.control.underTest.map fun p => (p.1, f p.2) } }

/-- A team wherever it is. -/
def State.anyTeam (s : State) (launch num : Nat) : Option Team :=
  match s.findTeam launch num with
  | some (n, r) => s.team n r
  | none => (s.findSaved launch num).map (·.team)

/-! ### What is a copy's own -/

/-- Whether an address lies in the scratchpad of a residency on one of some cores (05 R101). -/
def State.inShares (s : State) (r : Nat) (cores : List Nat) (pa : Nat) : Bool :=
  cores.any fun k =>
    let base := scratchPa k (s.shareBase k r)
    decide (base ≤ pa) && decide (pa < base + s.shareSize k)

/-- The check copy that a module has in the place of a team that it hosts. -/
def State.imageOf (s : State) (launch num n r : Nat) : CheckCopy :=
  let ks := s.teamCores n r
  { launch := launch, num := num, cores := ks.map fun k => (k, s.core k), saved := none
    cells := s.mem.filter fun c => s.inShares r ks c.1, atoms := s.poison.filter fun a => s.inShares r ks (32 * a) }

/-- The check copy of a team, by launch and number. -/
def State.copyOf (s : State) (launch num : Nat) : Option CheckCopy :=
  s.copies.find? fun c => c.launch == launch && c.num == num

/-- The team of a check copy, as the copy has it. -/
def CheckCopy.team (c : CheckCopy) : Option Team :=
  match c.saved with
  | some y => some y.team
  | none => (c.cores.flatMap fun p => [p.2.r0, p.2.r1].filterMap (·.team)).find? fun t => t.isOf c.launch c.num

/-- Replace a check copy. -/
def State.replaceCopy (s : State) (c : CheckCopy) : State :=
  { s with copies := s.copies.map fun x => if x.launch = c.launch ∧ x.num = c.num then c else x }

/-- A core of the primary with a residency as the check copy `x` of the core has it; what the core has besides is the
primary's. -/
def Core.withCopy (p x : Core) (r : Nat) : Core :=
  { p.setRes r (x.res r) with
    ops := (x.ops.filter fun o => o.2.res == r).foldl (fun m o => kset m o.1 o.2) (p.ops.filter fun o => o.2.res != r)
    walks := (x.walks.filter fun o => o.2.res == r).foldl (fun m o => kset m o.1 o.2) (p.walks.filter fun o => o.2.res != r)
    nextOp := max p.nextOp x.nextOp, shadow := x.shadow, lastSpindle := x.lastSpindle }

/-- The module as a check copy has it: what is its own in the place of the primary's, all else as it is, and no other copy.  So
it reads the state that the primary reads, and its own window and registers. -/
def State.worldOf (s : State) (c : CheckCopy) : State :=
  let s0 : State := { s with copies := [] }
  match s.findTeam c.launch c.num, c.saved with
  | some (n, r), none =>
    let ks := s.teamCores n r
    { s0 with
      cores := c.cores.foldl (fun m x => kset m x.1 ((s.core x.1).withCopy x.2 r)) s.cores
      mem := c.cells.foldl (fun m x => writeByte m x.1 x.2) (s.mem.filter fun x => !s.inShares r ks x.1)
      poison := c.atoms ++ s.poison.filter fun a => !s.inShares r ks (32 * a) }
  | none, some y => s0.mapSaved fun x => if x.team.isOf c.launch c.num then y else x
  | _, _ => s0

/-! ### Where a copy runs -/

/-- The check copy that runs in a core's residency, with the core of the primary that the core stands for: the cores of a
sampled team's copy are named in its record. -/
def State.copyAt (s : State) (n r : Nat) : Option (CheckCopy × Nat) :=
  s.copies.findSome? fun c =>
    match s.findTeam c.launch c.num with
    | none => none
    | some (k, q) =>
      ((s.team k q).bind (·.det)).bind fun d =>
        let i := n - d.copyCore
        if q = r ∧ d.copyCore ≤ n ∧ i < (s.teamCores k q).length ∧ c.saved = none then some (c, k + i) else none

/-- What happens to the registers of a core's residency: they are a team's that it hosts, or a check copy's. -/
def State.atCore (s : State) (n r : Nat) (f : State → Nat → State) : State :=
  match s.team n r, s.copyAt n r with
  | none, some (c, k) => s.replaceCopy ((f (s.worldOf c) k).imageOf c.launch c.num (s.home k r) r)
  | _, _ => f s n

/-- The residencies of a core in whose share a byte of its scratchpad lies, where a check copy runs. -/
def State.copyByte (s : State) (n off : Nat) : Option (CheckCopy × Nat) :=
  [0, 1].findSome? fun r =>
    if decide (s.shareBase n r ≤ off) && decide (off < s.shareBase n r + s.shareSize n) && (s.team n r).isNone then
      (s.copyAt n r).map fun x => (x.1, scratchPa x.2 (s.shareBase x.2 r + (off - s.shareBase n r)))
    else none

/-- The atom of an address is poisoned: of the scratchpad of a core that runs a check copy, the copy's. -/
def State.poisonAt (s : State) (pa : Nat) : State :=
  match (if kindOf pa = 1 then s.copyByte (scratchCore pa) (offOf pa % 2 ^ 20) else none) with
  | some (c, a) => s.replaceCopy { c with atoms := addAtoms c.atoms [a] }
  | none => s.poisonAtoms [pa]

end Sys2Proof.Machine
end

