-- ==== Sys2Proof/Machine/Return.lean ====
section
/-! DEFINITION. Accesses performed and returned, walks that return, and a spindle passed on at a stall
(02 R26; 05 R121, R125; 17 R347, R349, R350; 03 R405). -/

namespace Sys2Proof.Machine

open Sys2Proof

/-- LOAD_DATA_RETURN (05 R121, 03 R405): a load is performed and returns its data. -/
def execLoadDataReturn (core op : Nat) (s : State) : Host.Outcome State Fault Refusal :=
  event s <|
    match s.op core op with
    | none => none
    | some o =>
      if o.done || !s.mayPerform core op o then none
      else
        match o.body with
        | .load ls d bytes signed uniform => some (s.finishLoad core op o ls d bytes signed uniform)
        | .oldValue vals d wide => some (s.finishOld core op o vals d wide)
        | .status x d => some ((s.giveUniform core o.res o.slot o.active d x false).opReturn core op)
        | .tileLoad t pas => some (s.finishTile core op o t pas)
        | .slotLoad sc k bs => some (s.finishSlot core op o sc k bs)
        | .tableLoad bs addr d => some (s.finishTable core op o bs addr d)
        | _ => none

/-- A write of an outstanding access is performed at DIE (05 R121). -/
def State.performOp (s : State) (core key : Nat) (o : Op) : Option State :=
  match o.body with
  | .write kind ls d => some (s.performWrite core key (s.opCtx core o) o kind ls d)
  | .tileStore pas data bad => some (s.performTile core key pas data bad)
  | _ => none

/-- NEAR_ACCESS_PERFORMED (05 R121, R125): not of a write that a deterministic launch buffers (18 R375). -/
def execNearAccessPerformed (core op : Nat) (s : State) : Host.Outcome State Fault Refusal :=
  event s <|
    match s.op core op with
    | none => none
    | some o =>
      if o.done || !s.mayPerform core op o || s.isBuffered core op o then none
      else s.performOp core op o

/-- Enter a leaf into a translation cache of 1,024 entries (17 R347). -/
def Core.fill (c : Core) (l : Leaf) : Core := { c with tlb := l :: (c.tlb.filter (· != l)).take (Config.tlbRoom - 1) }

/-- What a walk of a context ends in for a class: a leaf, or a fault (17 R347, R349). -/
def State.walkFor (s : State) (ctx va : Nat) (cls : AccClass) : Except FaultKind Leaf :=
  match s.context ctx with
  | none => .error .np
  | some c =>
    match walk s.mem c.root ctx va with
    | .ok l => if cls.allowed l.entry then .ok l else .error .perm
    | .error k => .error k

/-- WALK_COMPLETE (17 R347, R350): the cache is filled, or the fibre parks. -/
def execWalkComplete (core walk : Nat) (s : State) : Host.Outcome State Fault Refusal :=
  event s <|
    match kget (s.core core).walks walk with
    | none => none
    | some w =>
      let s1 := s.modCore core fun c => { c with walks := kerase c.walks walk }
      match s.walkFor w.ctx w.va w.cls with
      | .ok l => some (s1.modCore core fun c => c.fill l)
      | .error k =>
        match s1.viewOf { core := core, res := w.res, slot := w.slot, ply := w.ply } with
        | some v => if v.fib.status = .ready ∧ v.team.ctx = w.ctx then some (s1.park v w.va w.cls k) else some s1
        | none => some s1

/-- SPINDLE_YIELD_ON_STALL (02 R26). -/
def execSpindleYieldOnStall (core quadrant spindle : Nat) (s : State) : Host.Outcome State Fault Refusal :=
  event s (s.yieldSpindle core (2 * quadrant + spindle))

end Sys2Proof.Machine
end

