-- ==== Sys2Proof/Machine/Place.lean ====
section
/-! DEFINITION. Launch headers, queues, records and graphs, and the placement of teams on cores
(02 R24, R25; 06 R156, R157; 08 R210; 10 R245; 16 R326 to R338; 18 R370 to R372, R379, R380). -/

namespace Sys2Proof.Machine

open Sys2Proof

/-! ### Launch headers (06 R156, R157) -/

/-- An address field without a misaligned or reserved bit; bits [63:56] are reserved (DEDUCED, log 24). -/
def addrOk (a align : Nat) : Bool := a % align == 0 && decide (a < 2 ^ 56)

/-- Whether the bytes from one offset up to another are zero. -/
def zeroFrom (bs : List Byte) (lo hi : Nat) : Bool := (sliceBytes bs lo (hi - lo)).all (· == 0)

/-- The fields of a header's bytes. -/
def Header.fields (bs : List Byte) : Header :=
  let at_ := leAt bs
  { entry := BitVec.ofNat 64 (at_ 0 8), width := at_ 8 1, fibres := at_ 9 1, tiles := at_ 10 1, bars := at_ 11 1
    nu := at_ 12 1, na := at_ 13 1, ng := at_ 14 1, wfirst := at_ 15 1, wcount := at_ 16 1
    flags := BitVec.ofNat 8 (at_ 17 1), res := at_ 18 1, prio := at_ 19 1, scratch := at_ 20 4, tx := at_ 24 4
    ty := at_ 28 4, tz := at_ 32 4, qtaba := BitVec.ofNat 64 (at_ 40 8), handler := BitVec.ofNat 64 (at_ 48 8)
    param := BitVec.ofNat 64 (at_ 56 8) }

/-- The teams of a launch. -/
def Header.teams (h : Header) : Nat := h.tx * h.ty * h.tz

/-- A team count that is allowed. -/
def countOk (x : Nat) : Bool := decide (1 ≤ x) && decide (x ≤ 65535)

/-- The checks of 06 R157 that need the header alone. -/
def Header.ok (h : Header) : Bool :=
  [16, 32, 64].contains h.width
    && decide (1 ≤ h.fibres) && decide (h.fibres ≤ if h.paired then 64 else 32)
    && decide (h.tiles ≤ 16) && decide (h.bars ≤ 32) && decide (h.nu + h.na + h.ng ≤ 64)
    && (if h.wcount = 0 then h.wfirst == 0 else decide (h.wfirst + h.wcount ≤ h.nu + h.na + h.ng))
    && h.flags.extractLsb' 4 4 == 0
    && countOk h.tx && countOk h.ty && countOk h.tz && decide (h.teams ≤ 2 ^ 32)
    && decide (h.res ≤ 1) && decide (h.prio ≤ 3)
    && h.scratch % 64 == 0 && decide (h.scratch ≤ 0xF2000)
    && addrOk h.entry.toNat 4 && addrOk h.qtaba.toNat 64 && addrOk h.handler.toNat 4 && addrOk h.param.toNat 1
    && decide (Config.windowTop ≤ h.entry.toNat) && (h.handler == 0 || decide (Config.windowTop ≤ h.handler.toNat))

/-- A legal header of 256 bytes (06 R156, R157). -/
def Header.ofBytes (bs : List Byte) : Option Header :=
  let h := Header.fields bs
  if h.ok && zeroFrom bs 36 40 && zeroFrom bs 64 256 then some h else none

/-! ### What a team takes of a core (02 R25, 10 R245, 16 R337) -/

/-- The registers of a tag, all of them or those of the shared window. -/
def Header.count (h : Header) (tag : Nat) (window : Bool) : Nat :=
  ((List.range (h.nu + h.na + h.ng)).filter fun i => h.tag i == tag && h.inWindow i == window).length

/-- The fibres that sit on the even and on the odd core of a team (02 R24). -/
def Header.fibresOn (h : Header) (odd : Bool) : Nat := if odd then h.fibres - 32 else min h.fibres 32

/-- Narrow-store and main-file bytes of `k` fibres on one core: a shared window counts once for each spindle that
holds a fibre (02 R25). -/
def Header.narrow (h : Header) (k : Nat) : Nat :=
  k * (4 * h.count 0 false + 8 * h.count 1 false) + min k 8 * (4 * h.count 0 true + 8 * h.count 1 true)
def Header.main (h : Header) (k : Nat) : Nat :=
  4 * h.width * (k * h.count 2 false + min k 8 * h.count 2 true)

/-- Whether a team's registers, tiles and SCRATCH fit a core in its DUAL setting (16 R337). -/
def Header.fits (h : Header) (dual odd : Bool) : Bool :=
  let k := h.fibresOn odd
  let part := if dual then 2 else 1
  decide (h.narrow k ≤ 16384 / part) && decide (h.main k ≤ 262144 / part) && decide (k * h.tiles ≤ 64 / part)
    && decide (h.scratch ≤ if dual then 0x72000 else 0xF2000)

/-- Whether a function has accepted a feature (19 R392). -/
def State.featureOn (s : State) (fn bit : Nat) : Bool :=
  fn == 17 || ((s.fn fn).goed && (kgetD (s.fn fn).acc 0 0).getLsbD bit)

/-- Whether a context's function has accepted a feature. -/
def State.contextFeature (s : State) (ctx bit : Nat) : Bool := ((s.context ctx).map fun c => s.featureOn c.fn bit).getD false

/-- Whether a core can serve a team of a context at all: it is not offline, its cluster's matrix engines are not fenced
where they are used, the team fits, and its function has accepted dual residency where the core has it (16 R337, 17 R367;
19 R392, log 96). -/
def State.serves (s : State) (ctx : Nat) (h : Header) (n : Nat) (odd : Bool) : Bool :=
  let c := s.core n
  !c.health.offline && !s.control.boot.offlineDies.contains (n / 80) && !(h.flags.getLsbD 1 && c.health.mfence)
    && (!c.dual || s.contextFeature ctx 0) && h.fits c.dual odd

/-- The same of the core, or the core pair, of a team. -/
def State.servesTeam (s : State) (ctx : Nat) (h : Header) (n : Nat) : Bool :=
  if h.paired then n % 2 == 0 && s.serves ctx h n false && s.serves ctx h (n + 1) true else s.serves ctx h n false

/-- The cores of a die, ascending. -/
def dieCores (d : Nat) : List Nat := (List.range 80).map (80 * d + ·)

/-- The cores of a device, ascending. -/
def State.deviceCores (s : State) (device : Nat) : List Nat := (deviceDies s.control.mode device).flatMap dieCores

/-- Whether a launch is deterministic. -/
def State.launchDet (s : State) (launch : Nat) : Bool := ((kget s.control.launches launch).bind (·.det)).isSome

/-- The teams of a core: those that its residencies host, and those that have stepped aside (18 R372). -/
def Core.teams (c : Core) : List Team := [c.r0, c.r1].filterMap (·.team) ++ c.turns.map (·.team)

/-- Whether a check copy occupies a core's residency (18 R380). -/
def State.copyOn (s : State) (n r : Nat) : Bool :=
  s.cores.any fun p => p.2.teams.any fun t =>
    match t.det with
    | some d => d.sampled && t.hdr.res == r && (n == d.copyCore || (t.hdr.paired && n == d.copyCore + 1))
    | none => false

/-- The teams that have stepped aside on a core: a pair's among them (18 R372). -/
def State.aside (s : State) (n : Nat) : List Team :=
  (s.core n).turns.map (·.team) ++ (((s.core (pairOf n)).turns.map (·.team)).filter fun t => t.hdr.paired)

/-- Whether a team is about to be restored to a residency: on the odd core of a pair, also one that the even core's residency
takes with it (02 R23, 15 R322). -/
def State.restoring (s : State) (n r : Nat) : Bool :=
  (kget (s.core n).restore r).isSome
    || (n % 2 == 1 && ((kget (s.core (n - 1)).restore r).map fun q => q.saved.team.hdr.paired).getD false)

/-- Whether a residency hosts nothing, and nothing is being restored to it.  Check copies and teams that have stepped
aside take their quanta in turn with deterministic teams, and keep every other team away (18 R372, R380; log 46). -/
def State.vacant (s : State) (n r launch : Nat) : Bool :=
  (s.team n r).isNone && !s.restoring n r
    && (s.launchDet launch || (!s.copyOn n r && (s.aside n).all fun t => t.hdr.res != r))

/-- Whether a fibre of a residency has a `NOPRE` section open (08 R211). -/
def Residency.nopre (r : Residency) : Bool := r.slots.any fun p => p.2.sched.nopre.isSome

/-- The same of a team that is on no core. -/
def Saved.nopre (x : Saved) : Bool := x.residencies.any Residency.nopre

/-- Whether a `NOPRE` section is open on a core: of a team that it hosts, or of one that has stepped aside there (08 R211, 18 R372). -/
def State.coreNopre (s : State) (n : Nat) : Bool := (s.res n 0).nopre || (s.res n 1).nopre || (s.core n).turns.any Saved.nopre

/-- Whether a test takes a core's pair: one is asked for, and no `NOPRE` section keeps it from saving the pair's teams: then nothing
is placed there (17 R367; DEDUCED, log 124). -/
def State.testTakes (s : State) (n : Nat) : Bool :=
  (s.core (pairOf n)).health.busy && !s.coreNopre (pairOf n) && !s.coreNopre (pairOf n + 1)

/-- Whether a core is free for a team of a residency: the residency in dual residency, the whole core in
single residency; its pair is not suspect, has passed a test since it was, and no test takes it (15 R315; 16 R337; 17 R366, R367). -/
def State.coreFree (s : State) (n r launch : Nat) : Bool :=
  let pair := [s.core (pairOf n), s.core (pairOf n + 1)]
  !(s.core n).held && !s.testTakes n && !(pair.any fun c => c.health.suspect || c.health.untested || c.health.testing)
    && (if (s.core n).dual then s.vacant n r launch else s.vacant n 0 launch && s.vacant n 1 launch)

/-- The cores that a team takes from its lowest. -/
def Header.coresAt (h : Header) (n : Nat) : List Nat := if h.paired then [n, n + 1] else [n]

/-! ### Taking a launch -/

/-- A launch-error event (16 R328). -/
def State.launchError (s : State) (ctx : Nat) (payload : List Nat) : State := s.post .launchError controlSource ctx payload

/-- The list of a team: 8 × device + 4 × RES + PRIO (16 R336). -/
def listKey (device : Nat) (h : Header) : Nat := 8 * device + 4 * h.res + h.prio

/-- Append to, or put at the head of, a list. -/
def State.enqueue (s : State) (key : Nat) (w : Waiting) (head : Bool) : State :=
  let old := kgetD s.control.lists key []
  { s with control := { s.control with lists := kset s.control.lists key (if head then w :: old else old ++ [w]) } }

/-- The logical cores of a device: 80 for each die; a paired team has a pair of them (18 R370). -/
def lcoreOf (dies : Nat) (h : Header) (num : Nat) : Nat :=
  if h.paired then 2 * (num % (40 * dies)) else num % (80 * dies)

/-- The remap table of one die, the `i`-th of its device: each logical core to a core that serves the team, the
cores taken in turn; none where no core does (18 R372). -/
def State.remapDie (s : State) (ctx : Nat) (h : Header) (i die : Nat) : Option (KMap Nat) :=
  let ok := (dieCores die).filter (s.servesTeam ctx h)
  let n := if h.paired then 40 else 80
  let step := if h.paired then 2 else 1
  if ok = [] then none
  else some ((List.range n).map fun k => (80 * i + step * k, ok.getD (k % ok.length) 0))

/-- The remap table of a launch (18 R372). -/
def State.remap (s : State) (ctx : Nat) (h : Header) (device : Nat) : Option (KMap Nat) :=
  (((deviceDies s.control.mode device).zipIdx).mapM fun p => s.remapDie ctx h p.2 p.1).map List.flatten

/-- Enter an accepted launch: its teams wait in their list (16 R336), a deterministic one counts in LSEQ (18 R379).
None where the launch is rejected: no core serves it, or a die of a deterministic launch has none (06 R157, 18 R372). -/
def State.takeLaunch (s : State) (ctx : Nat) (h : Header) (queue slot : Nat) (node : Option (Nat × Nat)) : Option State :=
  match s.context ctx with
  | none => none
  | some c =>
    let det := h.flags.getLsbD 2 && s.featureOn c.fn 1
    let table := if det then s.remap ctx h c.device else some []
    match table with
    | none => none
    | some remap =>
      if (s.deviceCores c.device).any (s.servesTeam ctx h) then
        let l : Launch :=
          { ctx := ctx, hdr := h, hdrAddr := Config.headerAddress queue slot, queue := queue, slot := slot, node := node
            left := h.teams, frozen := 0, cancelled := false, det := if det then some c.lseq else none, remap := remap
            ended := [], resting := [] }
        let k := s.control
        let s1 : State :=
          { s with control := { k with
              launches := kset k.launches k.nextLaunch l, nextLaunch := k.nextLaunch + 1
              contexts := kset k.contexts ctx { c with lseq := if det then c.lseq + 1 else c.lseq } } }
        some (s1.enqueue (listKey c.device h)
          { launch := k.nextLaunch, num := 0, count := h.teams, since := s.clock, saved := none, aged := false } false)
      else none

/-! ### Graphs (16 R330 to R334) -/

/-- A graph of a context. -/
def State.graph (s : State) (ctx id : Nat) : Option Graph := s.control.graphs.find? fun g => g.ctx == ctx && g.id == id

/-- The predecessors of a node (16 R332). -/
def nodePreds (node : List Byte) : List Nat := ((List.range 8).map fun i => leAt node (64 + i) 1).filter (· != 255)

/-- The nodes of an instance's version. -/
def State.nodesOf (s : State) (i : Instance) : List (List Byte) :=
  ((s.graph i.ctx i.graph).map fun g => kgetD g.versions i.version []).getD []

/-- Replace an instance. -/
def State.setInstance (s : State) (k : Nat) (i : Instance) : State :=
  { s with control := { s.control with instances := kset s.control.instances k i } }

/-- The header of a node, with the PARAM of its instance (16 R330). -/
def nodeHeader (i : Instance) (node : List Byte) : Option Header :=
  (Header.ofBytes (node.take 64 ++ List.replicate 192 0)).map fun h =>
    if i.param = 0 then h else { h with param := i.param }

/-- The versions of a graph that stay: the latest, and those that an instance runs (16 R333). -/
def State.freeVersions (s : State) (ctx id : Nat) : State :=
  { s with control := { s.control with
      graphs := s.control.graphs.map fun g =>
        if g.ctx = ctx ∧ g.id = id then
          { g with versions := g.versions.filter fun v =>
              v.1 == g.latest || s.control.instances.any fun i => i.2.ctx == ctx && i.2.graph == id && i.2.version == v.1 }
        else g } }

/-- Whether the nodes of an instance that have not started are skipped (16 R334, 19 R394). -/
def Instance.skips (i : Instance) : Bool := i.failed || i.cancelled

/-- An instance ends when every node has completed, or when it has failed or was cancelled and every node that started has
completed: one launch-complete event (16 R333, R335). -/
def State.endInstance (s : State) (k : Nat) : State :=
  match kget s.control.instances k with
  | none => s
  | some i =>
    let over_ := if i.skips then i.started.all i.done.contains else (List.range (s.nodesOf i).length).all i.done.contains
    if over_ then
      let s1 : State := { s with control := { s.control with instances := kerase s.control.instances k } }
      (s1.freeVersions i.ctx i.graph).post .launchComplete controlSource i.ctx [i.queue, i.slot, i.frozen]
    else s

/-- Start the nodes that are ready, in ascending node number (16 R334).  A node that is rejected ends its
instance as a failure (log 25). -/
def State.startNodes (s : State) (k : Nat) : State :=
  (List.range (((kget s.control.instances k).map fun i => (s.nodesOf i).length).getD 0)).foldl (fun s n =>
    match kget s.control.instances k with
    | none => s
    | some i =>
      let node := (s.nodesOf i).getD n []
      if i.skips || i.started.contains n || !((nodePreds node).all i.done.contains) then s
      else
        match (nodeHeader i node).bind fun h => s.takeLaunch i.ctx h i.queue i.slot (some (k, n)) with
        | some s1 => s1.setInstance k { i with started := i.started ++ [n] }
        | none =>
          ((s.launchError i.ctx [i.queue, i.slot]).post .graphFailed controlSource i.ctx [i.graph, i.version, n]).setInstance k
            { i with failed := true }) s

/-- A team of a node has ended with a FROZEN fibre: the instance fails at once, with its event (16 R334), a cancelled one too. -/
def State.failNode (s : State) (ik n : Nat) : State :=
  match kget s.control.instances ik with
  | none => s
  | some i =>
    if i.failed then s
    else (s.post .graphFailed controlSource i.ctx [i.graph, i.version, n]).setInstance ik { i with failed := true }

/-- A launch has ended all its teams: its launch-complete event, or its node completes (16 R334, R335). -/
def State.launchDone (s : State) (k : Nat) : State :=
  match kget s.control.launches k with
  | none => s
  | some l =>
    if l.left ≠ 0 then s
    else
      let s1 : State := { s with control := { s.control with launches := kerase s.control.launches k } }
      match l.node with
      | none => s1.post .launchComplete controlSource l.ctx [l.queue, l.slot, l.frozen]
      | some (ik, n) =>
        match kget s1.control.instances ik with
        | none => s1
        | some i =>
          let s2 := s1.setInstance ik { i with done := i.done ++ [n], frozen := i.frozen + l.frozen }
          (s2.startNodes ik).endInstance ik

/-! ### Records (16 R328 to R331) -/

/-- A queue by number: 64 and above is the device-launch queue of context `q − 64` (16 R331). -/
def State.anyQueue (s : State) (q : Nat) : Queue :=
  if q < 64 then s.queue q else kgetD s.control.deviceQueues (q - 64) Queue.reset

/-- Replace a queue by number. -/
def State.setAnyQueue (s : State) (q : Nat) (x : Queue) : State :=
  if q < 64 then s.setQueue q x
  else { s with control := { s.control with deviceQueues := kset s.control.deviceQueues (q - 64) x } }

/-- The slot that is consumed next. -/
def Queue.head (q : Queue) : Nat := q.consumed.toNat % 4096

/-- Whether a slot is WRITTEN (16 R327). -/
def Queue.written (q : Queue) (slot : Nat) : Bool := (List.range 64).all fun g => (kget q.granules (64 * slot + g)).isSome

/-- The 256 bytes of a slot. -/
def Queue.record (q : Queue) (slot : Nat) : List Byte :=
  (List.range 64).flatMap fun g => bytesOfNat 4 (kgetD q.granules (64 * slot + g) 0).toNat

/-- A graph record names a graph and a live version of its context (16 R330). -/
def State.graphRecord (s : State) (ctx : Nat) (bs : List Byte) : Option (Graph × Nat) :=
  match s.graph ctx (leAt bs 8 4) with
  | none => none
  | some g =>
    let v := if leAt bs 12 4 = 0 then g.latest else leAt bs 12 4
    if zeroFrom bs 24 256 && (kget g.versions v).isSome then some (g, v) else none

/-- How many instances of a graph are in flight. -/
def State.inFlight (s : State) (g : Graph) : Nat :=
  (s.control.instances.filter fun i => i.2.ctx == g.ctx && i.2.graph == g.id).length

/-- Run a graph (16 R333). -/
def State.runGraph (s : State) (ctx queue slot : Nat) (g : Graph) (version : Nat) (param : Addr) : State :=
  let k := s.control.nextInstance
  let i : Instance :=
    { graph := g.id, ctx := ctx, version := version, queue := queue, slot := slot, param := param, done := [], started := []
      failed := false, cancelled := false, frozen := 0 }
  let s1 : State :=
    { s with control := { s.control with instances := kset s.control.instances k i, nextInstance := k + 1 } }
  (s1.startNodes k).endInstance k

/-- A consumed record is checked and taken (16 R330). -/
def State.takeRecord (s : State) (ctx queue slot : Nat) (bs : List Byte) : State :=
  if zeroFrom bs 0 8 then
    match s.graphRecord ctx bs with
    | some (g, v) => s.runGraph ctx queue slot g v (BitVec.ofNat 64 (leAt bs 16 8))
    | none => s.launchError ctx [queue, slot]
  else
    match (Header.ofBytes bs).bind fun h => s.takeLaunch ctx h queue slot none with
    | some s1 => s1
    | none => s.launchError ctx [queue, slot]

/-- A WRITTEN slot at CONSUMED is consumed: its written bits clear, CONSUMED rises and is mirrored (16 R328). -/
def State.consume (s : State) (q : Nat) (x : Queue) (ctx : Nat) : State :=
  let slot := x.head
  let bs := x.record slot
  let y : Queue :=
    { x with
      granules := x.granules.filter fun g => g.1 / 64 != slot
      consumed := x.consumed + 1 }
  let s1 := s.setAnyQueue q y
  let s2 : State :=
    if y.mirror = 0 then s1 else { s1 with hostMem := writeNat s1.hostMem y.mirror.toNat 4 y.consumed.toNat }
  s2.takeRecord ctx q slot bs

/-- Whether a queue's next record may be consumed: an arrival is counted, the slot is WRITTEN, and it would
make no 17th instance of a graph (16 R328, R333). -/
def State.mayConsume (s : State) (x : Queue) (ctx : Nat) : Bool :=
  x.enable && x.arvcnt != x.consumed && x.written x.head &&
    let bs := x.record x.head
    !(zeroFrom bs 0 8 && ((s.graphRecord ctx bs).map fun g => decide (16 ≤ s.inFlight g.1)).getD false)

/-- A queue's place in the order of service: the devices ascending, of each its host queues ascending, then its
contexts' device-launch queues (16 R326, R329, R331). -/
def State.queuePlace (s : State) (q : Nat) : Nat :=
  if q < 64 then
    let per := 64 / s.control.mode
    2 ^ 17 * (q / per) + q % per
  else 2 ^ 17 * ((s.context (q - 64)).map (·.device)).getD 0 + 64 + (q - 64)

/-- Whether a queue's next record may be consumed now. -/
def State.queueReady (s : State) (q : Nat) : Bool :=
  match (s.anyQueue q).owner with
  | none => false
  | some (_, ctx) => s.mayConsume (s.anyQueue q) ctx

/-- Whether it is a queue's turn: it is the first after the one that was served last, in the order of service and round
again, from which a record may be consumed (16 R329). -/
def State.queueTurn (s : State) (q : Nat) : Bool :=
  let after (x : Nat) : Nat :=
    let p := s.queuePlace x
    if s.control.served ≤ p then p else p + 2 ^ 21
  let others := s.control.queues.map (·.1) ++ s.control.deviceQueues.map (64 + ·.1)
  s.queueReady q && others.all fun x => !s.queueReady x || decide (after q ≤ after x)

/-- QUEUE_CONSUME (16 R328 to R331). -/
def execQueueConsume (queue : Nat) (s : State) : Host.Outcome State Fault Refusal :=
  event s <|
    let x := s.anyQueue queue
    match x.owner with
    | none => none
    | some (_, ctx) =>
      if s.queueTurn queue then
        let s1 : State := { s with control := { s.control with served := s.queuePlace queue + 1 } }
        some (s1.consume queue x ctx)
      else none

/-- One granule of a host write: stored once; rewritten or covered in part, it is discarded with a
queue-conflict event (16 R327). -/
def State.writeGranule (s : State) (queue slot ctx offset : Nat) (bytes : List Byte) (g : Nat) : State :=
  let x := s.queue queue
  let whole := decide (offset ≤ 4 * g) && decide (4 * g + 4 ≤ offset + bytes.length)
  if !whole || (kget x.granules (64 * slot + g)).isSome then
    s.post .queueConflict controlSource ctx [queue, slot, g]
  else
    s.setQueue queue { x with
      granules := kset x.granules (64 * slot + g) (BitVec.ofNat 32 (leAt bytes (4 * g - offset) 4)) }

/-- A host write within one slot of an assigned queue (16 R327). -/
def State.writeSlot (s : State) (queue slot ctx offset : Nat) (bytes : List Byte) : State :=
  let gs := (List.range 64).filter fun g => decide (offset < 4 * g + 4) && decide (4 * g < offset + bytes.length)
  gs.foldl (fun s g => s.writeGranule queue slot ctx offset bytes g) s

/-- QUEUE_SLOT_WRITE (16 R327): the window is that of the function that the queue is assigned to (19 R391). -/
def execQueueSlotWrite (queue slot offset : Nat) (bytes : List (BitVec 8)) (s : State) : Host.Outcome State Fault Refusal :=
  event s <|
    match (s.queue queue).owner with
    | none => none
    | some (_, ctx) =>
      if slot < 4096 ∧ offset + bytes.length ≤ 256 then some (s.writeSlot queue slot ctx offset bytes) else none

/-- A host write to a function's BAR2: the window of one of its queues (16 R326, 19 R391).  A write to a slot may go on into
the next; where no queue has the window, nothing is written. -/
def State.writeBar2 (s : State) (fn offset : Nat) (bytes : List Byte) : State :=
  match s.windowQueue fn offset with
  | none => s
  | some (q, ctx, off) =>
    if off < 0x100000 then
      if bytes.length = 4 ∨ bytes.length = 8 then s.writeQueueReg q off (BitVec.ofNat 64 (leNat bytes)) else s
    else
      let at_ := off - 0x100000
      (List.range (at_ % 256 + bytes.length)).foldl (fun s k =>
        if k % 256 = 0 ∧ at_ / 256 + k / 256 < 4096 then
          let lo := k - at_ % 256
          s.writeSlot q (at_ / 256 + k / 256) ctx (if k = 0 then at_ % 256 else 0)
            (sliceBytes bytes lo (min (if k = 0 then 256 - at_ % 256 else 256) (bytes.length - lo)))
        else s) s

/-- A record enters a device-launch queue: none when it is full (16 R331). -/
def State.deviceLaunch (s : State) (fn ctx : Nat) (bs : List Byte) : Option State :=
  let x := kgetD s.control.deviceQueues ctx { Queue.reset with enable := true, owner := some (fn, ctx) }
  if (x.arvcnt - x.consumed).toNat < 4096 then
    let slot := x.arvcnt.toNat % 4096
    let gs := (List.range 64).foldl (fun m g => kset m (64 * slot + g) (BitVec.ofNat 32 (leAt bs (4 * g) 4))) x.granules
    some { s with control := { s.control with
      deviceQueues := kset s.control.deviceQueues ctx { x with granules := gs, arvcnt := x.arvcnt + 1 } } }
  else none

/-- LAUNCH (08 R210, 16 R331). -/
def execLaunch (y : Bool) (d : BitVec 7) (a : BitVec 9) (s : State) : Host.Outcome State Fault Refusal :=
  issue y s fun v => do
    let ua := v.addrUse a .a
    let x := v.read ua none
    let fm : Form := { uses := [ua], d := some { dUse d 1 false with fixed := true } }
    v.check fm true okay (do needU x a; v.arrivalOk fm d 1 .u)
    let va := v.address x 0 0
    need (va % 256 == 0) illState
    let ps ← s.xlatBytes v .load va 256
    let lp := wholeAccess va ps
    v.needNear [lp]
    s.needUnlocked v false 256 [lp]
    needClean [x] (fullMask v.width)
    let pas := ps.map (·.pa)
    need (!s.mustWait v pas) .stall
    need (!s.ownPoison v pas) (.trap (Trap.plain .poison 0))
    let fn := ((s.context v.team.ctx).map (·.fn)).getD 0
    let s0 := s.checkRecords v (0x3F + 256 * 9) [(0, va, 256, [])]
    match s0.deviceLaunch fn v.team.ctx (s.ownBytes v pas) with
    | some s1 => s1.finishPlain v fm d (Result.narrow (Value.uni 0 false))
    | none => s0.finishPlain v fm d (Result.narrow (Value.uni 1 false))

/-! ### Effective priority and reservations (16 R336, R338) -/

/-- The teams of a list. -/
def State.list (s : State) (key : Nat) : List Waiting := kgetD s.control.lists key []

/-- Effective priority of a waiting team of PRIO `p` (16 R336). -/
def Waiting.effective (w : Waiting) (p now : Nat) : Nat := min 3 (p + (now - w.since) / Config.prioStep)

/-- The lists of a device in the order in which they are served: by the effective priority of the head, then RES 0
first, then the higher PRIO (16 R336; the last is the model's, log 26). -/
def State.serviceOrder (s : State) (device : Nat) : List Nat :=
  let key (l : Nat) : Nat :=
    let e := match s.list (8 * device + l) with
      | w :: _ => w.effective (l % 4) s.clock
      | [] => 0
    (3 - e) * 8 + l / 4 * 4 + (3 - l % 4)
  ((List.range 8).foldl (fun ls l => insertBy key l ls) []).map (8 * device + ·)

/-- Whether a core's residency is reserved against a team: by another list of the residency, or by its own list's head
when it is not the head (16 R338). -/
def State.reservedAgainst (s : State) (n r key : Nat) (head : Bool) : Bool :=
  s.control.reservations.any fun x =>
    x.core == n && x.list / 4 % 2 == r && !(x.list == key && head)

/-- The launch of a waiting team. -/
def State.launchOf (s : State) (w : Waiting) : Option Launch := kget s.control.launches w.launch

/-- Whether a team of a launch can be placed at a core now (16 R337). -/
def State.placeable (s : State) (l : Launch) (launch n key : Nat) (head : Bool) : Bool :=
  s.servesTeam l.ctx l.hdr n
    && (l.hdr.coresAt n).all fun c => s.coreFree c l.hdr.res launch && !s.reservedAgainst c l.hdr.res key head

/-- The number of dies of a launch's device. -/
def State.launchDies (s : State) (l : Launch) : Nat := (s.contextDies l.ctx).length

/-- The logical core of a launch's team. -/
def State.lcore (s : State) (l : Launch) (num : Nat) : Nat := lcoreOf (s.launchDies l) l.hdr num

/-- Whether a team is the next of its logical core, and no team of that core has ended in this epoch (18 R370, R374). -/
def State.lcoreTurn (s : State) (l : Launch) (num : Nat) : Bool :=
  let k := s.lcore l num
  let n := if l.hdr.paired then 40 * s.launchDies l else 80 * s.launchDies l
  kgetD l.ended k 0 == num / n && !l.resting.contains k

/-- The physical core of a logical core: what the remap table of the launch names, or while that core cannot serve the
team, what a table built now would name (18 R372). -/
def State.physicalCore (s : State) (l : Launch) (k : Nat) : Option Nat :=
  match kget l.remap k with
  | none => none
  | some n =>
    if s.servesTeam l.ctx l.hdr n then some n
    else (s.remapDie l.ctx l.hdr (k / 80) (n / 80)).bind fun t => kget t k

/-- The cores at which a team may be placed: of a deterministic launch the core of its logical core (18 R372). -/
def State.placesOf (s : State) (l : Launch) (num device : Nat) : List Nat :=
  if l.det.isSome then
    (if s.lcoreTurn l num then (s.physicalCore l (s.lcore l num)).toList else [])
  else s.deviceCores device

/-- The numbers of a waiting entry that may be next: one logical core's later teams never are. -/
def Waiting.numbers (w : Waiting) (l : Launch) : List Nat :=
  if l.det.isSome then (List.range (min w.count 640)).map (w.num + ·) else [w.num]

/-- Where a waiting entry's next team goes: its number and its core. -/
def State.spotFor (s : State) (device key : Nat) (head : Bool) (w : Waiting) : Option (Nat × Nat) :=
  match s.launchOf w with
  | none => none
  | some l =>
    (w.numbers l).findSome? fun num =>
      ((s.placesOf l num device).find? fun n => s.placeable l w.launch n key head).map fun n => (num, n)

/-- The first team of a list that can be placed: its position, number and core. -/
def State.listSpot (s : State) (device key : Nat) : Option (Nat × Nat × Nat) :=
  ((s.list key).zipIdx).findSome? fun p => (s.spotFor device key (p.2 == 0) p.1).map fun x => (p.2, x.1, x.2)

/-- A core has become free: the first served list whose aged head it would serve takes a reservation (16 R338, R343). -/
def State.reserveFreed (s : State) (device n : Nat) : State :=
  let takes (key : Nat) : Bool :=
    match s.list key with
    | [] => false
    | w :: _ =>
      match s.launchOf w with
      | none => false
      | some l =>
        let spot := if l.hdr.paired then pairOf n else n
        let mine := s.control.reservations.filter fun x => x.list == key
        w.aged && s.servesTeam l.ctx l.hdr spot && s.coreFree n l.hdr.res w.launch && !s.reservedAgainst n l.hdr.res key true
          && !(mine.any fun x => x.core == n)
          && (!l.hdr.paired || mine == [] || mine.any fun x => pairOf x.core == pairOf n)
          && (l.det.isNone || (s.placesOf l w.num device).contains spot)
  match (s.serviceOrder device).find? takes with
  | some key =>
    { s with control := { s.control with
        reservations := s.control.reservations ++ [{ core := n, device := device, list := key }] } }
  | none => s

/-- The reservations of a list end. -/
def State.unreserve (s : State) (key : Nat) : State :=
  { s with control := { s.control with reservations := s.control.reservations.filter fun x => x.list != key } }

/-- Take a team out of the entry at a position of its list; where it is the head team, the list's reservations end
(16 R338). -/
def State.takeWaiting (s : State) (key pos num : Nat) : State :=
  let ws := s.list key
  let left : List Waiting :=
    match ws[pos]? with
    | none => []
    | some w =>
      let before : List Waiting := if num = w.num then [] else [{ w with count := num - w.num }]
      let after : List Waiting :=
        if num + 1 < w.num + w.count then [{ w with num := num + 1, count := w.num + w.count - (num + 1) }] else []
      before ++ after
  let s1 : State :=
    { s with control := { s.control with
        lists := kset s.control.lists key (ws.take pos ++ left ++ ws.drop (pos + 1)) } }
  if pos = 0 ∧ (ws.head?.map (·.num)) = some num then s1.unreserve key else s1

/-! ### Quasi-random tables at launch (11 R299) -/

/-- The translation that the control die finds for a load of a team, without a cache. -/
def State.freshXlat (s : State) (ctx n r va : Nat) : Option Nat :=
  if va < Config.windowTop then s.windowPa n r va
  else
    match s.walkFor ctx va .load with
    | .ok l =>
      let p := l.place va
      if p.far n then none else some p.pa
    | .error _ => none

/-- The bytes of a table, none where it cannot be read: unmapped, without R, on another die, or poisoned (log 27). -/
def State.tableAt (s : State) (ctx n r va : Nat) : Option (List Byte) :=
  let pages := [va, (va + tableBytes - 1) % 2 ^ 56]
  if pages.all fun a => (s.freshXlat ctx n r a).isSome then
    match (span va tableBytes).mapM fun a => s.freshXlat ctx n r (a % 2 ^ 56) with
    | some pas => if s.poisoned pas then none else some (pas.map s.loadByte)
    | none => none
  else none

/-- A fibre takes the table at an address, or the all-zero table and a launch-error event with the address
and the cause: 1 no slot, 2 not readable (11 R299, R300; 02 R40), unless `quiet`.  The address is kept for a later
restore. -/
def State.launchTable (s : State) (n r slot : Nat) (ctx : Nat) (addr : Addr) (quiet : Bool := false) : State :=
  let zero (s : State) (cause : Nat) : State :=
    let s1 := s.modFibre n r slot fun f => { f with spec := { f.spec with table := some { slot := 99, addr := addr } } }
    if quiet then s1 else s1.launchError ctx [addr.toNat, cause]
  match s.tableAt ctx n r addr.toNat with
  | none => zero s 2
  | some bs =>
    let (s1, st) := s.takeTable n r slot addr bs
    if st = 0 then s1 else zero s1 1

/-- The fibres of a core take the table of the header's address, none where that is 0 (06 R156): the one that the first of
them takes (11 R299); `quiet` once the team's one event is posted. -/
def State.launchTables (s : State) (n r ctx : Nat) (addr : Addr) (quiet : Bool) : State :=
  let slots := if addr = 0 then [] else (s.res n r).slots.map (·.1)
  match slots with
  | [] => s
  | sl :: more =>
    let s1 := s.launchTable n r sl ctx addr quiet
    match (s1.fibre n r sl).bind (·.spec.table) with
    | none => s1
    | some t => more.foldl (fun s k => s.modFibre n r k fun f => { f with spec := { f.spec with table := some t } }) s1

/-! ### Placing a team (16 R337, 02 R24, 03 R55) -/

/-- What survives in a residency from one team to the next: generations and tables (09 R237, 11 R275, R299). -/
def Residency.vacate (r : Residency) : Residency :=
  { Residency.empty with
    fences := r.fences.map fun p => (p.1, { p.2 with busy := none })
    deps := r.deps.map fun p => (p.1, { state := .free, gen := p.2.gen, cmd := none })
    qslots := r.qslots }

/-- The fibres of a team on one core (02 R24). -/
def launchSlots (h : Header) (odd : Bool) (now : Nat) (left : Option Nat) : KMap Fibre :=
  (List.range (h.fibresOn odd)).map fun i =>
    let f := launchFibre h (if odd then 32 + i else i) h.entry (fullMask h.width)
    (i, { f with sched := { f.sched with since := now, left := left } })

/-- The shared windows of a core, every register dead (02 R28). -/
def launchWindows (h : Header) : KMap (List Reg) :=
  if h.wcount = 0 then []
  else (List.range 8).map fun k => (k, (List.range h.wcount).map fun i => Reg.dead (h.tag (h.wfirst + i)) h.width)

/-- Whether 18 R379 samples a team. -/
def sampledBy (seed : BitVec 64) (lseq num : Nat) : Bool :=
  let x : BitVec 64 := (seed ^^^ (BitVec.ofNat 64 lseq <<< 32) ^^^ BitVec.ofNat 64 num) * 0x9E3779B97F4A7C15
  x.extractLsb' 54 10 == 0

/-- The core of a check copy: the lowest free core of another pair of the die that serves the team (18 R380). -/
def State.copyCoreFor (s : State) (ctx : Nat) (h : Header) (launch n : Nat) : Option Nat :=
  (dieCores (n / 80)).find? fun c =>
    pairOf c != pairOf n && s.servesTeam ctx h c && (h.coresAt c).all fun k => s.coreFree k h.res launch

/-- SKIPPED of a context's slot rises (18 R379, R380). -/
def State.skipCheck (s : State) (ctx : Nat) : State :=
  match s.context ctx with
  | some c =>
    let r := s.checks c.checkSlot
    s.setChecks c.checkSlot { r with skipped := min (r.skipped + 1) 0xFFFFFFFF }
  | none => s

/-- The deterministic part of a team at its placement; SKIPPED rises where a sampled team finds no core (18 R379, R380). -/
def State.startDet (s : State) (l : Launch) (k num n : Nat) : State × Option DetTeam :=
  match l.det, s.context l.ctx with
  | some lseq, some c =>
    let r := s.checks c.checkSlot
    let epoch := kgetD s.control.epochs (n / 80) 0
    let base : DetTeam :=
      { lcore := s.lcore l num, epoch := epoch, sampled := false, copyCore := 0, digest := 0, buf := []
        check := [] }
    if s.featureOn c.fn 3 && r.chken && sampledBy r.seed lseq num then
      match s.copyCoreFor l.ctx l.hdr k n with
      | some m => (s, some { base with sampled := true, copyCore := m })
      | none => (s.skipCheck l.ctx, some base)
    else (s, some base)
  | _, _ => (s, none)

/-- The check copy of a team starts as the team does (18 R380). -/
def State.startCopy (s : State) (launch num n r : Nat) : State :=
  { s with copies := s.copies ++ [s.imageOf launch num n r] }

/-- A die joins a context's presence mask (17 R354). -/
def State.join (s : State) (ctx die : Nat) : State :=
  { s with control := { s.control with
      contexts := kmod s.control.contexts ctx fun c =>
        if c.presence.contains die then c else { c with presence := c.presence ++ [die] } } }

/-- In single residency a core has one set of fence slots, dependency entries and table slots, which goes to the residency
that takes the core (15 R315; log 97). -/
def Core.claim (c : Core) (r : Nat) : Core :=
  let other := c.res (1 - r)
  if c.dual || other.team.isSome || (other.fences == [] && other.deps == [] && other.qslots == []) then c
  else (c.setRes r { (c.res r) with fences := other.fences, deps := other.deps, qslots := other.qslots }).setRes (1 - r)
    { other with fences := [], deps := [], qslots := [] }

/-- Give a residency to a team with its fibres. -/
def State.hostTeam (s : State) (n r : Nat) (t : Option Team) (odd : Bool) (slots : KMap Fibre) (windows : KMap (List Reg)) :
    State :=
  s.modCore n fun c0 =>
    let c := c0.claim r
    let x := (c.res r).vacate
    { c.setRes r { x with team := t, pairedOdd := odd, slots := slots, windows := windows } with
      issuing := if c.dual then c.issuing else r }

/-- Place a fresh team at a core. -/
def State.placeFresh (s : State) (k num n : Nat) (l : Launch) : State :=
  let h := l.hdr
  let (s1, det) := s.startDet l k num n
  let left := if det.isSome then some Config.detQuantum else none
  let t : Team :=
    { ctx := l.ctx, launch := k, hdr := h, hdrAddr := l.hdrAddr, num := num, handler := h.handler, barriers := [], bins := []
      quantumAt := s.clock, save := none, det := det }
  let s2 := s1.hostTeam n h.res (some t) false (launchSlots h false s.clock left) (launchWindows h)
  let s3 := if h.paired then s2.hostTeam (n + 1) h.res none true (launchSlots h true s.clock left) (launchWindows h) else s2
  let s4 := s3.join l.ctx (n / 80)
  let s5 := s4.launchTables n h.res l.ctx h.qtaba false
  let failed := ((s5.res n h.res).slots.any fun f => (f.2.spec.table.map (·.slot)) == some 99)
  let s6 := if h.paired then s5.launchTables (n + 1) h.res l.ctx h.qtaba failed else s5
  if det.any (·.sampled) then s6.startCopy k num n h.res else s6

/-- Place a waiting team: a fresh one at once, a saved one by a restore (16 R336, R337). -/
def State.placeAt (s : State) (w : Waiting) (num n : Nat) : State :=
  match s.launchOf w with
  | none => s
  | some l =>
    match w.saved with
    | none => s.placeFresh w.launch num n l
    | some sv => (s.modCore n fun c => { c with restore := kset c.restore l.hdr.res { base := none, saved := sv } }).join l.ctx (n / 80)

/-- TEAM_PLACE (16 R336 to R338): the first team in service order that fits a free core. -/
def execTeamPlace (device : Nat) (s : State) : Host.Outcome State Fault Refusal :=
  event s <|
    ((s.serviceOrder device).findSome? fun key => (s.listSpot device key).map fun x => (key, x)).bind fun (key, pos, num, n) =>
      ((s.list key)[pos]?).map fun w => (s.takeWaiting key pos num).placeAt w num n

/-- PLACEMENT_AGEING (16 R338): a head that has waited 50 µs reserves cores that free from now on. -/
def execPlacementAgeing (device list : Nat) (s : State) : Host.Outcome State Fault Refusal :=
  event s <|
    let key := 8 * device + list % 8
    match s.list key with
    | [] => none
    | w :: ws =>
      if w.aged ∨ s.clock < w.since + Config.ageing then none
      else some { s with control := { s.control with lists := kset s.control.lists key ({ w with aged := true } :: ws) } }

end Sys2Proof.Machine
end

