-- ==== Sys2Proof/Machine/TeamLife.lean ====
section
/-! DEFINITION. What happens to a placed team: spawn bins, deadlock, the end of a team, the events that ask
for a save, switching residencies, and `HALTF` (02 R39 to R45, R53; 15 R316, R317, R323; 16 R335, R339; 17 R354, R361). -/

namespace Sys2Proof.Machine

open Sys2Proof

/-! ### Spawn bins (02 R39, R40) -/

/-- SPAWN_BIN_TIMER_EXPIRY (02 R39); a deterministic launch has no timer (18 R378). -/
def execSpawnBinTimerExpiry (core res bin : Nat) (s : State) : Host.Outcome State Fault Refusal :=
  event s <|
    match (s.res core res).team with
    | none => none
    | some t =>
      let b := t.bins.getD bin Bin.empty
      if b.state = .filling ∧ b.since + Config.binTimer ≤ s.clock ∧ t.det = none then
        some (s.modTeam core res fun t =>
          { t with bins := t.allBins.set bin { b with state := .expired, order := s.clock } })
      else none

/-- The lowest free slot within a team's limit on the bins' core (02 R39, R40). -/
def State.freeSlot (s : State) (n r : Nat) (t : Team) : Option Nat :=
  (List.range (t.hdr.fibresOn false)).find? fun i => (s.fibre n r i).isNone

/-- The bin that takes a free slot: the one that became FULL or EXPIRED first (02 R39). -/
def Team.nextBin (t : Team) : Option Nat :=
  let due := (t.allBins.zipIdx).filter fun p => p.1.state == .full || p.1.state == .expired
  ((due.foldl (fun xs p => insertBy (fun q => q.1.order) p xs) []).map (·.2)).head?

/-- A bin from which `n` entries have been taken (02 R39). -/
def Bin.take (b : Bin) (n w now : Nat) : Bin :=
  let rest := b.entries.drop n
  if rest = [] then Bin.empty
  else if w ≤ rest.length then { b with state := .full, entries := rest, order := now }
  else { b with state := .filling, entries := rest, since := now }

/-- The value of a register v0 to v3 that entries give, in the shape of its tag; none where they do not fit
it (02 R40, 03 R66). -/
def spawnVal (tag w : Nat) (xs : List Word) : Option RegVal :=
  let x0 := xs.getD 0 0
  let st := xs.getD 1 x0 - x0
  if tag = 0 then (if xs.all (· == x0) then some (.u x0) else none)
  else if tag = 1 then
    (if (xs.zipIdx).all fun p => p.1 == x0 + BitVec.ofNat 32 p.2 * st then some (.a x0 st) else none)
  else some (.g ((List.range w).map fun l => xs.getD l 0))

/-- A fibre launched from entries, and whether some value does not fit its shape: then the register is
dead, and SHAPE is raised (02 R40). -/
def binFibre (h : Header) (num now : Nat) (target : Addr) (es : List BinEntry) : Fibre × Bool :=
  let f := launchFibre h num target (fullMask es.length)
  let vals := (List.range 4).map fun i =>
    (i, decide (i < h.nu + h.na + h.ng) && !h.inWindow i, spawnVal (h.tag i) h.width (es.map fun e => e.v.getD i 0))
  let v := vals.foldl (fun v x =>
    match x with
    | (i, true, some y) => v.set i { live := true, val := y, poison := 0 }
    | _ => v) f.regs.v
  ({ f with regs := { f.regs with v := v }, sched := { f.sched with since := now } },
    vals.any fun x => x.2.1 && x.2.2.isNone)

/-- A bin launches one fibre with some of its entries (02 R40).  No instruction of the fibre raises the SHAPE, so its frame has
FIELD 0 and LANES 0 (DESIGN CHOICE, log 66). -/
def State.launchBin (s : State) (n r bin slot : Nat) (t : Team) (b : Bin) (es : List BinEntry) (left : Option Nat) : State :=
  let (f, bad) := binFibre t.hdr slot s.clock b.target es
  let s1 := s.modTeam n r fun t => { t with bins := t.allBins.set bin b }
  let s2 := s1.setFibre n r slot { f with sched := { f.sched with left := left } }
  let s3 := if t.hdr.qtaba = 0 then s2 else s2.launchTable n r slot t.ctx t.hdr.qtaba
  if bad then s3.trapAt n r slot 0 (Trap.plain .shape 0) else s3

/-- SPAWN_BIN_LAUNCH (02 R39, R40): not while a save holds the team, which an open `NOPRE` section defers (08 R211). -/
def execSpawnBinLaunch (core res : Nat) (s : State) : Host.Outcome State Fault Refusal :=
  event s <|
    match (s.res core res).team with
    | none => none
    | some t =>
      if t.det.isSome || s.saveHolds core res then none
      else
        match s.freeSlot core res t, t.nextBin with
        | some slot, some bin =>
          let b := t.allBins.getD bin Bin.empty
          let n := min t.hdr.width b.entries.length
          some (s.launchBin core res bin slot t { b.take n t.hdr.width s.clock with target := b.target } (b.entries.take n) none)
        | _, _ => none

/-! ### Spawn deadlock (02 R42) -/

/-- Whether a ply stands at a `SPAWN` or `EXITN` that finds no room. -/
def State.roomless (s : State) (w : Who) : Bool :=
  match s.viewOf w with
  | none => false
  | some v =>
    let groups : Option (List (Addr × List BinEntry)) :=
      match s.fetchInstr v with
      | .ok (.spawn _ a) => (v.spawnPlan a).toOption.map (·.2)
      | .ok (.exitn _ a) => (v.exitnPlan a).toOption.map (·.2)
      | _ => none
    match groups with
    | some g => g != [] && (pushGroups v.width s.clock g v.team.allBins).isNone
    | none => false

/-- Whether a fibre is stalled there: every ply that could issue is. -/
def State.spawnStuck (s : State) (n r slot : Nat) (f : Fibre) : Bool :=
  f.inRun && [0, 1].all fun p =>
    !(f.ply p).offers || s.roomless { core := n, res := r, slot := slot, ply := p }

/-- SPAWN_DEADLOCK (02 R42): every live fibre is stuck, and no bin can launch. -/
def execSpawnDeadlock (core res : Nat) (s : State) : Host.Outcome State Fault Refusal :=
  event s <|
    match (s.res core res).team with
    | none => none
    | some t =>
      let live := (s.teamFibres core res).filter fun x => x.2.2.status != .frozen
      if live = [] || (s.freeSlot core res t).isSome || !(live.all fun x => s.spawnStuck x.1 res x.2.1 x.2.2) then none
      else
        let s1 := live.foldl (fun s x => s.freezeAt x.1 res x.2.1 5 0xFF 0xFF (x.2.2.ply x.2.2.sched.lastPly).pc) s
        some (s1.post .spawnDeadlock core t.ctx [core, res, t.num])

/-! ### The end of a team (02 R53, 17 R354) -/

/-- Whether a residency's cores have nothing outstanding for it. -/
def State.drained (s : State) (n r : Nat) : Bool :=
  (s.teamCores n r).all fun c =>
    let x := s.res c r
    (s.core c).ops.all (fun p => p.2.res != r) && x.mmas == [] && x.deps.all fun p => p.2.state == .free

/-- The team's FROZEN fibres with their kill causes. -/
def State.frozenOf (s : State) (n r : Nat) : List (Nat × Nat) :=
  (s.teamFibres n r).filterMap fun x => if x.2.2.status = .frozen then some (x.2.2.num, x.2.2.sched.killed.getD 0xFF) else none

/-- Whether a context has a team on a die, or one about to be restored there. -/
def State.contextOn (s : State) (ctx die : Nat) : Bool :=
  s.cores.any fun p => p.1 / 80 == die &&
    (([p.2.r0, p.2.r1].filterMap (·.team)).any (·.ctx == ctx) || p.2.restore.any (·.2.saved.team.ctx == ctx)
      || p.2.turns.any (·.team.ctx == ctx))

/-- The last team of a context on a die has ended: the die leaves the presence mask and drops the context's
translations (17 R354). -/
def State.leave (s : State) (ctx die : Nat) : State :=
  if s.contextOn ctx die then s
  else
    { s with
      cores := s.cores.map fun p =>
        if p.1 / 80 = die then (p.1, { p.2 with tlb := p.2.tlb.filter fun l => l.ctx != ctx }) else p
      control := { s.control with
        contexts := kmod s.control.contexts ctx fun c => { c with presence := c.presence.filter (· != die) } } }

/-- The pseudo-channels of a team are given up (11 R293). -/
def State.freeChannels (s : State) (t : Team) : State :=
  { s with
    channels := s.channels.map fun p =>
      match p.2.owner with
      | some o =>
        if o.ctx = t.ctx ∧ o.launch = t.launch ∧ o.team = t.num then (p.1, { p.2 with owner := none, allBank := false })
        else p
      | none => p }

/-- Count the end of a team in its launch, and fail its graph where a fibre was FROZEN (16 R334); of a deterministic one also at its logical core (18 R370, R374). -/
def State.countEnd (s : State) (t : Team) (frozen : Nat) : State :=
  let s1 : State :=
    { s with control := { s.control with
        launches := kmod s.control.launches t.launch fun l =>
          let l1 := { l with left := l.left - 1, frozen := l.frozen + frozen }
          match t.det with
          | some d => { l1 with ended := kset l.ended d.lcore (kgetD l.ended d.lcore 0 + 1), resting := l.resting ++ [d.lcore] }
          | none => l1 } }
  let s2 := match (kget s1.control.launches t.launch).bind (·.node) with
    | some (ik, n) => if frozen = 0 then s1 else s1.failNode ik n
    | none => s1
  s2.launchDone t.launch

/-- A core's residency hosts nothing any more; a core that frees may be reserved (16 R338). -/
def State.vacate (s : State) (n r : Nat) : State := s.modCore n fun c => c.setRes r (c.res r).vacate

/-- The cores of a team become free. -/
def State.vacateTeam (s : State) (r : Nat) (cores : List Nat) : State := cores.foldl (fun s c => s.vacate c r) s

/-- Reservations of the cores that have become free, lowest first (16 R338). -/
def State.reserveCores (s : State) (device : Nat) (cores : List Nat) : State :=
  cores.foldl (fun s c => s.reserveFreed device c) s

/-- The 32-byte records of an instruction's effect: one for each 16 bytes of its data (18 R381; log 98). -/
def CheckRec.bytes (c : CheckRec) : List Byte :=
  (List.range (max 1 ((c.data.length + 15) / 16))).flatMap fun i =>
    bytesOfNat 8 (c.va + 16 * i) ++ bytesOfNat 2 c.code ++ bytesOfNat 2 c.fibre ++ bytesOfNat 2 c.lane ++ bytesOfNat 2 c.size
      ++ sliceBytes c.data (16 * i) 16

/-- The digest after some records, in fibre order (18 R381). -/
def checkDigest (x : BitVec 64) (rs : List CheckRec) : BitVec 64 :=
  crc64 x ((rs.foldl (fun ys r => insertBy (fun z => z.fibre) r ys) []).flatMap CheckRec.bytes)

/-- The digest of a team's copy with the records of the quantum. -/
def DetTeam.total (d : DetTeam) : BitVec 64 := checkDigest d.digest d.check

/-- The deterministic part of a team as its check copy has it (18 R380). -/
def State.copyDet (s : State) (n r : Nat) : Option DetTeam :=
  ((s.team n r).bind fun t => s.copyOf t.launch t.num).bind fun c => c.team.bind (·.det)

/-- The digest comparison of a sampled team (18 R381): each copy takes its records in fibre order into its digest; a
difference is counted and posted, and the check copy is discarded. -/
def State.compareDigests (s : State) (n r : Nat) : State :=
  match s.team n r with
  | none => s
  | some t =>
    match t.det, s.context t.ctx with
    | some d, some c =>
      if d.sampled then
        let same := (s.copyDet n r).all fun e => e.total == d.total
        let s1 := s.modTeam n r fun t => { t with det := some { d with digest := d.total, check := [], sampled := same } }
        if same then s1
        else
          let k := s1.checks c.checkSlot
          let lseq := ((kget s1.control.launches t.launch).bind (·.det)).getD 0
          (s1.setChecks c.checkSlot { k with mismatch := min (k.mismatch + 1) 0xFFFFFFFF }).post .checkMismatch controlSource t.ctx
            [t.ctx, lseq, t.num, d.epoch, n, d.copyCore]
      else s
    | _, _ => s

/-- SAMPLED rises when a team ends with both digests equal (18 R381). -/
def State.countSampled (s : State) (t : Team) (n r : Nat) : State :=
  match (s.team n r).bind (·.det), s.context t.ctx with
  | some d, some c =>
    if d.sampled then
      let k := s.checks c.checkSlot
      s.setChecks c.checkSlot { k with sampled := min (k.sampled + 1) 0xFFFFFFFF }
    else s
  | _, _ => s

/-- The device of a context. -/
def State.deviceOf (s : State) (ctx : Nat) : Nat := ((s.context ctx).map (·.device)).getD 0

/-- TEAM_END (02 R53): every fibre is DONE or FROZEN and no bin can launch; the event names each FROZEN fibre
and the entries discarded. -/
def execTeamEnd (core res : Nat) (s : State) : Host.Outcome State Fault Refusal :=
  event s <|
    match (s.res core res).team with
    | none => none
    | some t =>
      let left := ((t.bins.map fun b => b.entries.length)).sum
      let mayLaunch := left != 0 && (s.freeSlot core res t).isSome
      if !((s.teamFibres core res).all fun x => x.2.2.status == .frozen) || mayLaunch || !s.drained core res then none
      else
        let s0 := (s.compareDigests core res).countSampled t core res
        let frozen := s0.frozenOf core res
        let s1 := if frozen = [] then s0
          else s0.post .teamEnd controlSource t.ctx ([t.num, left] ++ frozen.flatMap fun f => [f.1, f.2])
        let cores := t.hdr.coresAt core
        let s2 := ((s1.freeChannels t).vacateTeam res cores).leave t.ctx (core / 80)
        some ((s2.countEnd t frozen.length).reserveCores (s.deviceOf t.ctx) cores)

/-! ### Asking for a save (02 R45, 16 R339, 17 R361) -/

/-- Ask for a save of a residency's team, unless one is pending. -/
def State.askSave (s : State) (n r : Nat) (why : SaveReason) : State :=
  s.modTeam n r fun t => { t with save := if t.save.isSome then t.save else some why }

/-- Whether a fibre is WAITING or PARKED (02 R52). -/
def Fibre.waits (f : Fibre) : Bool := f.status != .frozen && !f.inRun

/-- Whether a core's residency takes teams of a RES: in single residency a team of either may occupy the core (15 R315). -/
def State.takesRes (s : State) (n r q : Nat) : Bool := q == r || !(s.core n).dual

/-- Whether the control die holds a team waiting for placement that a core's residency takes, on a device. -/
def State.teamWaits (s : State) (n r device : Nat) : Bool :=
  (List.range 8).any fun l => s.takesRes n r (l / 4) && !(s.list (8 * device + l)).isEmpty

/-- LONG_WAIT_SWAP (02 R45): every live fibre has waited for more than 2^18 cycles, and a team that the residency takes waits. -/
def execLongWaitSwap (core res : Nat) (s : State) : Host.Outcome State Fault Refusal :=
  event s <|
    match (s.res core res).team with
    | none => none
    | some t =>
      let live := (s.teamFibres core res).filter fun x => x.2.2.status != .frozen
      if live != [] && t.save.isNone && s.teamWaits core res (s.deviceOf t.ctx)
          && live.all fun x => x.2.2.waits && decide (x.2.2.sched.since + Config.longWait < s.clock) then
        some (s.askSave core res .swap)
      else none

/-- The state as it would be with a residency's team gone: what a waiting team is fitted against (16 R339). -/
def State.without (s : State) (n r : Nat) (t : Team) : State := s.vacateTeam r (t.hdr.coresAt n)

/-- Whether a waiting team may take a running team's place: it runs in the same residency, or the core is in single residency, where
teams of both RES take turns (15 R315; DEDUCED, log 117); its effective priority is at least the running team's, and it fits
there (16 R339). -/
def State.mayReplace (s : State) (n r key : Nat) (t : Team) (w : Waiting) (head : Bool) : Option Nat :=
  match s.launchOf w with
  | none => none
  | some l =>
    if t.hdr.prio ≤ w.effective l.hdr.prio s.clock && s.takesRes n r l.hdr.res then
      let u := s.without n r t
      let spot := if l.hdr.paired then pairOf n else n
      (w.numbers l).find? fun num =>
        (u.placesOf l num (s.deviceOf t.ctx)).contains spot && u.placeable l w.launch spot key head
    else none

/-- The first such team in service order: its list, position and number. -/
def State.replacement (s : State) (n r : Nat) (t : Team) : Option (Nat × Nat × Nat) :=
  (s.serviceOrder (s.deviceOf t.ctx)).findSome? fun key =>
    ((s.list key).zipIdx).findSome? fun p => (s.mayReplace n r key t p.1 (p.2 == 0)).map fun num => (key, p.2, num)

/-- QUANTUM_END (16 R339): the team is saved for a waiting one, or its count restarts. -/
def execQuantumEnd (core res : Nat) (s : State) : Host.Outcome State Fault Refusal :=
  event s <|
    match (s.res core res).team with
    | none => none
    | some t =>
      if t.save.isSome || decide (s.clock < t.quantumAt + (s.core core).quant) then none
      else if (s.replacement core res t).isSome then some (s.askSave core res .quantum)
      else some (s.modTeam core res fun t => { t with quantumAt := s.clock })

/-- NOPRE_BUDGET_EXPIRY (17 R361): the section closes, and SOFT cause 1 waits for the next issue.  A deterministic launch counts the
budget as instructions retire, and closes the section with the last (18 R378). -/
def execNopreBudgetExpiry (core res slot : Nat) (s : State) : Host.Outcome State Fault Refusal :=
  event s <|
    match s.team core res, s.fibre core res slot with
    | some t, some f =>
      match f.sched.nopre with
      | some from_ =>
        if t.det.isNone && decide (from_ + Config.nopreBudget ≤ s.clock) then
          some (s.modFibre core res slot fun f => { f with sched := { f.sched with nopre := none, softPending := true } })
        else none
      | none => none
    | _, _ => none

/-! ### Switching residencies (15 R316) -/

/-- RESIDENCY_SWITCH_REQUEST (15 R316): the control die's request. -/
def execResidencySwitchRequest (core : Nat) (s : State) : Host.Outcome State Fault Refusal :=
  event s (some (s.modCore core Core.requestSwitch))

/-- RESIDENCY_IDLE_SWITCH (15 R316): no fibre of the issuing residency could run for 64 cycles, and one of the other can. -/
def execResidencyIdleSwitch (core : Nat) (s : State) : Host.Outcome State Fault Refusal :=
  event s <|
    let c := s.core core
    let long := match c.idleSince with
      | some t => decide (t + 64 ≤ s.clock)
      | none => false
    if c.dual && !c.draining && !(c.res c.issuing).anyReady && (c.res (1 - c.issuing)).anyReady && long then
      some (s.modCore core Core.requestSwitch)
    else none

/-- DRAIN_COMPLETE (15 R316): every started MMA has written its tile. -/
def execDrainComplete (core : Nat) (s : State) : Host.Outcome State Fault Refusal :=
  event s <|
    let c := s.core core
    if c.draining && (c.res c.issuing).mmas == [] then
      some (s.modCore core fun c =>
        { c with issuing := 1 - c.issuing, draining := false, swcnt := c.swcnt + 1, idleSince := none })
    else none

/-! ### HALTF (15 R323) -/

/-- The pc of the ply of a fibre that issued last. -/
def Fibre.lastPc (f : Fibre) : Addr :=
  let p := f.ply f.sched.lastPly
  if p.live then p.pc else (f.ply (1 - f.sched.lastPly)).pc

/-- HALTF (15 R321, R323): privileged; the fibre of the named slot becomes FROZEN. -/
def execHaltf (y : Bool) (d : BitVec 7) (a : BitVec 9) (s : State) : Host.Outcome State Fault Refusal :=
  issue y s fun v => do
    let x := v.read (wordUse a .a) none
    let fm := wordForm a (some d)
    v.check fm true (need (s.privileged v) illPrivilege) (do needU x a; v.arrivalOk fm d 1 .u)
    if v.active = 0 then .ok ((s.lastUses v fm).retire v)
    else do
      let w : Word := (x.lane 0).setWidth 32
      need (decide (bits w 0 7 ≤ 79) && bits w 13 19 == 0) illState
      needClean [x] v.active
      let n := v.who.core / 80 * 80 + bits w 0 7
      let r := bits w 7 1
      let slot := bits w 8 5
      match s.fibre n r slot with
      | none => s.finishPlain v fm d (Result.narrow (Value.uni 1 false))
      | some f => do
        let s1 ← s.finishPlain v fm d (Result.narrow (Value.uni 0 false))
        .ok (s1.freezeAt n r slot 2 0xFF 0xFF f.lastPc)

end Sys2Proof.Machine
end

