-- ==== Sys2Proof/Machine/Save.lean ====
section
/-! DEFINITION. Saving and restoring teams: what a save holds, the save area, `CTXSAVE` and `CTXLD`, and the turns
of deterministic teams on one core (02 R45, R54; 10 R256; 11 R297, R300; 15 R318 to R322; 17 R352; 18 R372). -/

namespace Sys2Proof.Machine

open Sys2Proof

/-! ### Taking a team off its core (15 R318) -/

/-- A ply as a save holds it: its whole stack, no stall (02 R34). -/
def State.savePly (s : State) (n r slot p : Nat) (x : Ply) : Ply :=
  { x with stack := s.wholeStack n r slot p x, spilled := 0, stall := none }

/-- A fibre as a save holds it: its fills are dropped (17 R352). -/
def State.saveFibre (s : State) (n r slot : Nat) (f : Fibre) : Fibre :=
  { f with p0 := s.savePly n r slot 0 f.p0, p1 := s.savePly n r slot 1 f.p1, sched := { f.sched with fills := [] } }

/-- What a save keeps of a residency besides its fibres' stacks (15 R318). -/
def Residency.asSave (x : Residency) : Residency :=
  { x.vacate with
    pairedOdd := x.pairedOdd, windows := x.windows, scales := x.scales, metas := x.metas, faults := x.faults, qslots := []
    slots := x.slots }

/-- A team that has stepped aside as a save holds it. -/
def Saved.asSave (x : Saved) : Saved :=
  { x with team := { x.team with save := none }, even := x.even.asSave, odd := x.odd.map Residency.asSave }

/-- A residency as a save holds it; arrivals held at a latch stay marked in their plies (10 R256). -/
def State.saveRes (s : State) (n r : Nat) : Residency :=
  let x := (s.res n r).asSave
  { x with slots := x.slots.map fun p => (p.1, s.saveFibre n r p.1 p.2) }

/-- A residency as a team leaves it for the turn of another: with its latches, fence slots and tables, so that sharing a
core changes nothing (18 R372). -/
def State.turnRes (s : State) (n r : Nat) : Residency :=
  let x := s.res n r
  { x with team := none, slots := x.slots.map fun p => (p.1, s.saveFibre n r p.1 p.2) }

/-- The scratchpad bytes of a core's share, with the atoms that are poisoned. -/
def State.saveScratch (s : State) (n r bytes : Nat) : List Byte × List Nat :=
  let base := scratchPa n (s.shareBase n r)
  (readAll s.mem (span base bytes), (List.range (bytes / 32)).filter fun a => s.poison.contains (base / 32 + a))

/-- The team as it leaves its core: the timers of its bins count no more, and `since` is the time that they have run. -/
def Team.offCore (t : Team) (now : Nat) : Team :=
  { t with save := none, bins := t.bins.map fun b => { b with since := now - b.since } }

/-- The team as it returns: the timers go on (15 R318). -/
def Team.onCore (t : Team) (now : Nat) : Team :=
  { t with quantumAt := now, bins := t.bins.map fun b => { b with since := now - b.since } }

/-- All that leaves a core with a team: for a save (15 R318), or for a turn (18 R372). -/
def State.collect (s : State) (n r : Nat) (t : Team) (turn : Bool) : Saved :=
  let cores := t.hdr.coresAt n
  let part (c : Nat) : Residency := if turn then s.turnRes c r else s.saveRes c r
  { team := { t.offCore s.clock with save := if turn then t.save else none }
    even := part n, odd := if t.hdr.paired then some (part (n + 1)) else none
    scratch := cores.map fun c => s.saveScratch c r t.hdr.scratch
    ops := cores.map fun c => (s.core c).ops.filter fun p => p.2.res == r }

/-- The team leaves its cores, with its walks and outstanding accesses. -/
def State.removeTeam (s : State) (n r : Nat) (t : Team) : State :=
  let cores := t.hdr.coresAt n
  let s1 := cores.foldl (fun s c => s.modCore c fun x =>
    { x with ops := x.ops.filter fun p => p.2.res != r, walks := x.walks.filter fun p => p.2.res != r }) s
  s1.vacateTeam r cores

/-- Arrivals held in a latch are withdrawn: their plies issue the `MMA` again (10 R256). -/
def Fibre.withdraw (f : Fibre) : Fibre :=
  { f with p0 := { f.p0 with atLatch := false }, p1 := { f.p1 with atLatch := false } }

/-- The same of a residency, whose latches are empty then. -/
def Residency.withdraw (r : Residency) : Residency :=
  { r with latches := [], slots := r.slots.map fun p => (p.1, p.2.withdraw) }

/-- The same of a saved team. -/
def Saved.withdraw (x : Saved) : Saved := { x with even := x.even.withdraw, odd := x.odd.map Residency.withdraw }

/-! ### Putting a team on its core -/

/-- The entries of a stack beyond four spill (02 R34). -/
def State.spillPly (s : State) (n r slot p : Nat) (x : Ply) : State × Ply :=
  let deep := (x.stack.drop 4).reverse
  let s1 := (deep.zipIdx).foldl (fun s e => s.spillEntry n r slot p e.2 e.1) s
  (s1, { x with stack := x.stack.take 4, spilled := deep.length })

/-- A saved fibre takes its slot again. -/
def State.placeFibre (s : State) (n r slot : Nat) (f : Fibre) : State :=
  let (s1, q0) := s.spillPly n r slot 0 f.p0
  let (s2, q1) := s1.spillPly n r slot 1 f.p1
  s2.setFibre n r slot { f with p0 := q0, p1 := q1, sched := { f.sched with since := s.clock } }

/-- The scratchpad bytes come back, poisoned where they were. -/
def State.placeScratch (s : State) (n r : Nat) (x : List Byte × List Nat) : State :=
  let base := scratchPa n (s.shareBase n r)
  s.write (span base x.1.length) x.1 (x.2.map fun a => base + 32 * a)

/-- A saved residency on a core; after a turn it has its own tables still. -/
def State.placeRes (s : State) (n r : Nat) (t : Option Team) (x : Residency) (ops : KMap Op) (scratch : List Byte × List Nat)
    (turn : Bool) : State :=
  let s1 := s.modCore n fun c0 =>
    let c := c0.claim r
    let old := c.res r
    { c.setRes r { x with team := t, qslots := if turn then x.qslots else old.qslots, slots := [] } with
      issuing := if c.dual then c.issuing else r
      ops := ops.foldl (fun m p => kset m p.1 p.2) c.ops }
  let s2 := s1.placeScratch n r scratch
  x.slots.foldl (fun s p => s.placeFibre n r p.1 p.2) s2

/-- A saved team on a core or a core pair, its quantum restarted (16 R339). -/
def State.returnTeam (s : State) (n r : Nat) (x : Saved) (turn : Bool) : State :=
  let t := x.team.onCore s.clock
  let s1 := s.placeRes n r (some t) x.even (x.ops.getD 0 []) (x.scratch.getD 0 ([], [])) turn
  let s2 := match x.odd with
    | some o => s1.placeRes (n + 1) r none o (x.ops.getD 1 []) (x.scratch.getD 1 ([], [])) turn
    | none => s1
  s2.join t.ctx (n / 80)

/-- The pseudo-channels that a team's fibres drive. -/
def State.bankChannels (s : State) (n r : Nat) : List Nat := (s.teamFibres n r).filterMap fun x => x.2.2.spec.bankCh

/-- A PARKED fibre whose fault is closed replays; one whose fault was aborted is killed (17 R351, R352). -/
def State.unpark (s : State) (n r slot : Nat) (t : Team) (f : Fibre) : State :=
  let who := (t.launch, t.num, f.num)
  if f.status ≠ .parked then s
  else if s.control.aborts.contains who then
    let s1 : State := { s with control := { s.control with aborts := s.control.aborts.filter (· != who) } }
    s1.freezeAt n r slot 6 0xFF 0xFF f.lastPc
  else if s.control.faults.any fun p => p.2.fibres.contains who then s
  else s.modFibre n r slot fun f => { f with status := .ready }

/-- The physical word that an address of a context names on a core (05 R101, 17 R347). -/
def State.wordPa (s : State) (ctx n r va : Nat) : Option Nat :=
  if va < Config.windowTop then s.windowPa n r va
  else
    match s.walkFor ctx va .load with
    | .ok l => some (l.place va).pa
    | .error _ => none

/-- A waiting `MON` watches the word that its address names where the fibre now runs; where it names none, its page's
translation was invalidated meanwhile, and it is abandoned, as where its word lies in a region that is CLOSING (15 R318; 08 R217; log 99).  A word on a die that is far from
there is watched too: only an invalidation or CLOSING abandons (08 R217). -/
def State.rearm (s : State) (ctx n r slot : Nat) : State :=
  match (s.fibre n r slot).bind (·.wait) with
  | some ⟨p, .mon _ va value d⟩ =>
    let s1 := s.forgetMet n r slot
    match s.wordPa ctx n r va with
    | some pa =>
      if (s.regionAt pa).any fun x => x.2.state != .opened then s1.resume n r slot 1
      else s1.modFibre n r slot fun f => { f with wait := some ⟨p, .mon pa va value d⟩ }
    | none => s1.resume n r slot 1
  | _ => s

/-- A waiting fibre evaluates its condition again (02 R45, R54). -/
def State.reevaluate (s : State) (n r slot : Nat) : State :=
  match s.fibre n r slot with
  | none => s
  | some f =>
    if f.status ≠ .waiting then s
    else
      match f.wait with
      | some ⟨_, .mon _ _ _ _⟩ => (s.evalMon n r slot).getD s
      | some ⟨_, .token t⟩ => if (s.res n r).tokenDone t then s.resume n r slot 0 else s
      | some ⟨_, .counter p k⟩ => if f.spec.ctr.get p ≤ k then s.resume n r slot 0 else s
      | _ => s

/-- Every waiting fibre of a team. -/
def State.reevaluateAll (s : State) (n r : Nat) : State :=
  (s.teamFibres n r).foldl (fun s x => s.reevaluate x.1 r x.2.1) s

/-- The instruction word at an address of a context, without a cache, from whatever die (log 93); none where it cannot be
fetched. -/
def State.codeWord (s : State) (ctx a : Nat) : Option Word :=
  if a < Config.windowTop then none
  else
    match s.walkFor ctx a .fetch with
    | .ok l => some (BitVec.ofNat 32 (readNat s.mem (l.place a).pa 4))
    | .error _ => none

/-- The step word and body of a `LOOP` at an address, fetched again (15 R320). -/
def State.refetch (s : State) (ctx : Nat) (laddr : Addr) : Option (Word × List Word) := do
  let w ← s.codeWord ctx laddr.toNat
  let step ← s.codeWord ctx ((laddr.toNat + 4) % 2 ^ 56)
  match decodeWord w step with
  | .loop _ _ l _ => do
    let body ← (List.range (l.toNat + 1)).mapM fun k => s.codeWord ctx ((laddr.toNat + 8 + 4 * k) % 2 ^ 56)
    some (step, body)
  | _ => none

/-- A ply's loop with its body as memory holds it now; as it was captured where it cannot be fetched. -/
def State.reloop (s : State) (ctx : Nat) (p : Ply) : Ply :=
  match p.loop with
  | none => p
  | some l =>
    match s.refetch ctx l.laddr with
    | some (step, body) => { p with loop := some { l with step := step, body := body } }
    | none => p

/-- A restore: the team returns, its tables and bank registers are loaded again, waits are re-evaluated but in a
deterministic launch, PARKED fibres are looked at (02 R54; 11 R297, R300; 15 R318; 17 R352; 18 R378).  A fibre whose table cannot be
loaded has the all-zero one, with an event of its own (DEDUCED, log 122). -/
def State.restoreTeam (s : State) (n r : Nat) (x : Saved) : State :=
  let s0 := s.returnTeam n r x.withdraw false
  let fibres := s0.teamFibres n r
  let s1 := fibres.foldl (fun s y => s.modFibre y.1 r y.2.1 fun f => { f with spec := { f.spec with table := none } }) s0
  let s2 := fibres.foldl (fun s y =>
    match y.2.2.spec.table with
    | some tb => (s.launchTable y.1 r y.2.1 x.team.ctx tb.addr).rearm x.team.ctx y.1 r y.2.1
    | none => s.rearm x.team.ctx y.1 r y.2.1) s1
  let s3 := (s2.bankChannels n r).foldl State.loadRows s2
  let s4 := (s3.teamFibres n r).foldl (fun s y =>
    (s.modFibre y.1 r y.2.1 fun f =>
      { f with p0 := s.reloop x.team.ctx f.p0, p1 := s.reloop x.team.ctx f.p1 }).unpark y.1 r y.2.1 x.team y.2.2) s3
  if x.team.det.isSome then s4 else s4.reevaluateAll n r

/-! ### The save area (15 R319, R320) -/

/-- Bytes that carry no poison. -/
def clean (bs : List Byte) : List EngByte := bs.map fun b => (b, false)

/-- Pad to a multiple of 64 bytes. -/
def pad64 (bs : List EngByte) : List EngByte := bs ++ List.replicate ((64 - bs.length % 64) % 64) (0, false)

/-- A mask of the indices at which a predicate holds. -/
def maskNat (n : Nat) (p : Nat → Bool) : Nat := (List.range n).foldl (fun m i => if p i then m + 2 ^ i else m) 0

/-- The lanes of a register with their poison. -/
def Reg.laneBytes (x : Reg) (w : Nat) : List EngByte :=
  (List.range w).flatMap fun l => (bytesOfNat 4 (x.val.lane l).toNat).map fun b => (b, x.poison.getLsbD l)

/-- A register in its compact form (15 R320). -/
def Reg.compact (x : Reg) (w : Nat) : List EngByte :=
  match x.val with
  | .u a => (bytesOfNat 4 a.toNat).map fun b => (b, x.poison != 0)
  | .a a st => (bytesOfNat 4 a.toNat ++ bytesOfNat 4 st.toNat).map fun b => (b, x.poison != 0)
  | .g _ => x.laneBytes w

/-- A latch: 8 bytes a lane. -/
def latchBytes (xs : List DWord) (poison : Mask) (w : Nat) : List EngByte :=
  (List.range w).flatMap fun l => (bytesOfNat 8 (xs.getD l 0).toNat).map fun b => (b, poison.getLsbD l)

/-- The 4 KiB image of a tile (10 R243). -/
def Tile.bytes (t : Tile) : List EngByte :=
  (List.range 1024).flatMap fun c => (bytesOfNat 4 (t.cells.getD c 0).toNat).map fun b => (b, t.poison.contains c)

/-- STATE of a fibre record. -/
def Fibre.stateCode (f : Fibre) : Nat :=
  match f.status with
  | .ready => if f.inRun then 0 else 1
  | .waiting => 1
  | .parked => 2
  | .frozen => 3

/-- The wait record (15 R320): a barrier's number stands in the value. -/
def Fibre.waitBytes (f : Fibre) : List Byte :=
  let rec_ (kind value addr : Nat) := bytesOfNat 4 kind ++ bytesOfNat 4 value ++ bytesOfNat 8 addr
  match f.wait with
  | some ⟨_, .barrier id _ _ _⟩ => rec_ 1 id 0
  | some ⟨_, .fbar m⟩ => rec_ 2 m 0
  | some ⟨_, .mon _ va x _⟩ => rec_ 3 x.toNat va
  | some ⟨_, .token t⟩ => rec_ 4 0 t.toNat
  | some ⟨_, .counter p k⟩ => rec_ 5 k p
  | none => if f.stateCode = 1 then rec_ 6 0 0 else rec_ 0 0 0

/-- The 64 bytes of a ply. -/
def Ply.saveBytes (p : Ply) : List Byte :=
  bytesOfNat 8 p.pc.toNat ++ bytesOfNat 8 p.exec.toNat ++ bytesOfNat 8 p.mask.toNat ++ bytesOfNat 8 p.link.toNat
    ++ bytesOfNat 4 ((p.loop.map (·.pass)).getD 0) ++ bytesOfNat 4 ((p.loop.map (·.count)).getD 0)
    ++ bytesOfNat 4 (ofInt 32 ((p.loop.map (·.loff)).getD 0)) ++ bytesOfNat 8 ((p.loop.map (·.laddr.toNat)).getD 0)
    ++ bytesOfNat 12 0

/-- The fixed part of a fibre record (15 R320). -/
def Fibre.fixedBytes (f : Fibre) (h : Header) (res : Residency) (slot : Nat) : List Byte :=
  let m := f.merge
  let b (x : Bool) (k : Nat) : Nat := if x then 2 ^ k else 0
  bytesOfNat 1 f.stateCode
    ++ bytesOfNat 1 (b f.p0.live 0 + b f.p1.live 1 + b f.p0.inHandler 2 + b f.p1.inHandler 3 + b m.isSome 4
        + b f.spec.bankCh.isSome 5)
    ++ bytesOfNat 1 f.p0.depth ++ bytesOfNat 1 f.p1.depth ++ bytesOfNat 4 f.num
    ++ bytesOfNat 4 ((m.map (·.mode.toNat)).getD 0) ++ bytesOfNat 4 ((m.map (·.fmt.toNat)).getD 0)
    ++ bytesOfNat 4 f.spec.mode.toNat ++ bytesOfNat 4 f.spec.fmt.toNat ++ bytesOfNat 4 f.spec.gang.toNat
    ++ bytesOfNat 4 f.spec.rcnt.toNat ++ bytesOfNat 16 0
    ++ bytesOfNat 8 (maskNat (h.nu + h.na + h.ng) fun i => (getV h res slot f i).live)
    ++ bytesOfNat 2 (maskNat 16 fun i => (getO h f i).live)
    ++ bytesOfNat 2 (maskNat 16 fun i => (f.tile i).live) ++ bytesOfNat 4 0
    ++ f.p0.saveBytes ++ f.p1.saveBytes ++ f.waitBytes
    ++ ((List.range 8).flatMap fun k => bytesOfNat 2 (kgetD res.fences (8 * slot + k) FenceSlot.fresh).gen)
    ++ bytesOfNat 8 ((f.spec.table.map (·.addr.toNat)).getD 0)
    ++ bytesOfNat 8 ((f.spec.bankCh.map fun q => channelPa q 0).getD 0)
    ++ bytesOfNat 8 f.lanes.toNat ++ bytesOfNat 8 ((m.map (·.owner)).getD 0)
    ++ ((List.range 8).flatMap fun k => bytesOfNat 8 (f.regs.preds.getD k 0).toNat) ++ bytesOfNat 64 0

/-- The main registers of a fibre, those of the shared window among them, ascending. -/
def Header.mainRegs (h : Header) : List Nat := List.range (h.nu + h.na + h.ng)

/-- The bytes of a stack, bottom first, with their poison. -/
def stackBytes (es : List StackEntry) : List EngByte := es.reverse.flatMap fun e => e.bytes.map fun b => (b, e.bad)

/-- A fibre record (15 R320). -/
def Fibre.record (f : Fibre) (h : Header) (res : Residency) (slot : Nat) : List EngByte :=
  let w := h.width
  pad64 (clean (f.fixedBytes h res slot)
    ++ stackBytes f.p0.stack ++ stackBytes f.p1.stack
    ++ (h.mainRegs.flatMap fun i => if (getV h res slot f i).live then (getV h res slot f i).compact w else [])
    ++ ((List.range 16).flatMap fun i => if (getO h f i).live then (getO h f i).laneBytes w else [])
    ++ latchBytes f.regs.la f.regs.laPoison w ++ latchBytes f.regs.lm f.regs.lmPoison w
    ++ ((List.range 16).flatMap fun i => if (f.tile i).live then (f.tile i).bytes else []))

/-- STATE of a bin in a bin summary, in the order of 02 R39 (log 28). -/
def BinState.code : BinState → Nat
  | .empty => 0 | .filling => 1 | .full => 2 | .expired => 3

/-- A bin summary (15 R319), of a team that is off its core. -/
def Bin.summary (b : Bin) : List Byte :=
  let timer := if b.state = .filling then Config.binTimer - b.since else 0
  bytesOfNat 8 b.target.toNat ++ bytesOfNat 2 b.entries.length ++ bytesOfNat 2 timer ++ bytesOfNat 1 b.state.code
    ++ bytesOfNat 3 0

/-- A bin entry: its target and v0 to v3. -/
def BinEntry.bytes (e : BinEntry) (target : Addr) : List Byte :=
  bytesOfNat 8 target.toNat ++ (List.range 4).flatMap fun i => bytesOfNat 4 (e.v.getD i 0).toNat

/-- The shared windows of a residency, stored as G. -/
def Residency.windowBytes (r : Residency) (h : Header) : List EngByte :=
  if h.wcount = 0 then []
  else (List.range 8).flatMap fun k => (List.range h.wcount).flatMap fun i =>
    ((kgetD r.windows k []).getD i (Reg.dead (h.tag (h.wfirst + i)) h.width)).laneBytes h.width

/-- The parts of the area after its header, each 64-byte aligned (15 R319). -/
def Saved.body (x : Saved) : List EngByte :=
  let t := x.team
  let h := t.hdr
  let bars := (List.range 32).flatMap fun i =>
    let b := kgetD t.barriers i Barrier.fresh
    bytesOfNat 8 (({ b with pend := [] } : Barrier).query 0).toNat ++ bytesOfNat 8 (maskNat 64 b.pend.contains)
  let gens := (List.range 64).flatMap fun i => bytesOfNat 2 (kgetD x.even.deps i DepEntry.fresh).gen
  clean (bars ++ gens ++ t.allBins.flatMap Bin.summary)
    ++ (x.residencies.flatMap fun r => r.slots.flatMap fun p => p.2.record h r p.1)
    ++ pad64 (x.residencies.flatMap fun r => r.windowBytes h)
    ++ pad64 (clean (t.allBins.flatMap fun b => b.entries.flatMap fun e => e.bytes b.target))
    ++ clean (x.even.scales.flatMap fun p => (List.range 512).flatMap fun i => bytesOfNat 4 (p.2.getD i 0).toNat)
    ++ clean (x.even.metas.flatMap fun p => sliceBytes p.2 0 512)
    ++ (x.scratch.flatMap fun y => (y.1.zipIdx).map fun b => (b.1, y.2.contains (b.2 / 32)))

/-- The team header of a save area (15 R319). -/
def Saved.header (x : Saved) (saved length : Nat) (dual : Bool) (res : Nat) : List Byte :=
  let t := x.team
  bytesOfNat 4 saved ++ bytesOfNat 4 length ++ bytesOfNat 2 t.ctx ++ bytesOfNat 1 (res + if dual then 2 else 0)
    ++ bytesOfNat 1 ((x.residencies.map fun r => r.slots.length).sum) ++ bytesOfNat 4 t.num
    ++ bytesOfNat 8 t.hdrAddr.toNat ++ bytesOfNat 8 t.handler.toNat
    ++ bytesOfNat 2 (maskNat 16 fun i => (kget x.even.scales i).isSome)
    ++ bytesOfNat 2 (maskNat 16 fun i => (kget x.even.metas i).isSome) ++ bytesOfNat 220 0

/-- Write a save area, SAVED last (15 R319, R322). -/
def State.writeArea (s : State) (base : Nat) (x : Saved) (dual : Bool) (res : Nat) : State :=
  let body := x.body
  let all := clean (x.header 1 (256 + body.length) dual res) ++ body
  let as := span base all.length
  s.write as (all.map (·.1)) ((as.zip all).filterMap fun p => if p.2.2 then some p.1 else none)

/-! ### Reading a save area

A restore takes from the area every value that its layout gives; what it does not give (which launch the team belongs
to, where a waiting instruction writes its status, the parts of an odd core's side) comes from the record that the control
die kept of the save (log 29). -/

/-- The 32-bit lanes at the head of some bytes, and the lanes whose bytes are poisoned. -/
def readLanes (w : Nat) (bs : List EngByte) : List Word × Mask :=
  ((List.range w).map fun l => BitVec.ofNat 32 (leAt (bs.map (·.1)) (4 * l) 4),
    maskOf w fun l => ((bs.drop (4 * l)).take 4).any (·.2))

/-- The bytes of a register of a tag in its compact form. -/
def compactBytes (tag w : Nat) : Nat := if tag = 0 then 4 else if tag = 1 then 8 else 4 * w

/-- A register of a tag from its compact form. -/
def readReg (tag w : Nat) (bs : List EngByte) : Reg :=
  let bad := (bs.take (compactBytes tag w)).any (·.2)
  let word (i : Nat) : Word := BitVec.ofNat 32 (leAt (bs.map (·.1)) (4 * i) 4)
  if tag = 0 then { live := true, val := .u (word 0), poison := if bad then 1 else 0 }
  else if tag = 1 then { live := true, val := .a (word 0) (word 1), poison := if bad then fullMask w else 0 }
  else
    let (xs, m) := readLanes w (bs.take (4 * w))
    { live := true, val := .g xs, poison := m }

/-- Registers read one after another, each where its live bit is set; the others are dead. -/
def readRegs (w : Nat) (tag : Nat → Nat) (live : Nat → Bool) :
    List Nat → List Reg × List EngByte → List Reg × List EngByte
  | [], acc => acc
  | i :: is, (regs, bs) =>
    if live i then readRegs w tag live is (setAt regs i (readReg (tag i) w bs) (fun _ => Reg.dead 2 w), bs.drop (compactBytes (tag i) w))
    else readRegs w tag live is (setAt regs i (Reg.dead (tag i) w) (fun _ => Reg.dead 2 w), bs)

/-- The lanes of a latch, and their poison. -/
def readLatch (w : Nat) (bs : List EngByte) : List DWord × Mask :=
  ((List.range w).map fun l => BitVec.ofNat 64 (leAt (bs.map (·.1)) (8 * l) 8),
    maskOf w fun l => ((bs.drop (8 * l)).take 8).any (·.2))

/-- Tiles read one after another. -/
def readTiles (live : Nat → Bool) : List Nat → List Tile × List EngByte → List Tile × List EngByte
  | [], acc => acc
  | i :: is, (ts, bs) =>
    if live i then
      let img := bs.take 4096
      let (xs, _) := readLanes 1024 img
      let bad := (List.range 1024).filter fun c => ((img.drop (4 * c)).take 4).any (·.2)
      readTiles live is (setAt ts i { live := true, cells := xs, poison := bad } (fun _ => Tile.zero), bs.drop 4096)
    else readTiles live is (setAt ts i Tile.zero (fun _ => Tile.zero), bs)

/-- The stack of a ply, top first, from its entries. -/
def readStack (depth : Nat) (bs : List EngByte) : List StackEntry :=
  ((List.range depth).map fun i =>
    let e := (bs.drop (32 * i)).take 32
    { StackEntry.ofBytes (e.map (·.1)) with bad := e.any (·.2) }).reverse

/-- A ply from its 64 bytes and its stack. -/
def Ply.overlay (p : Ply) (bs : List Byte) (stack : List StackEntry) (inHandler : Bool) : Ply :=
  let g := leAt bs
  let pc : Addr := BitVec.ofNat 64 (g 0 8)
  let laddr := g 44 8
  let old : LoopState :=
    p.loop.getD { laddr := 0, body := [], step := 0, pass := 0, count := 0, idx := 0, loff := 0 }
  { p with
    pc := pc, exec := BitVec.ofNat 64 (g 8 8), mask := BitVec.ofNat 64 (g 16 8), link := BitVec.ofNat 64 (g 24 8)
    stack := stack, inHandler := inHandler
    loop := if laddr = 0 then none else some
      { old with
        laddr := BitVec.ofNat 64 laddr, pass := g 32 4, count := g 36 4, loff := toSigned 32 (g 40 4)
        idx := (pc.toNat - (laddr + 8)) / 4 } }

/-- The status and the wait of a fibre record. -/
def Fibre.readWait (f : Fibre) (g : Nat → Nat → Nat) : Status × Option WaitState :=
  let wait := f.wait.map fun w : WaitState =>
    match w.wait with
    | .barrier _ held sync d => { w with wait := Wait.barrier (g 196 4) held sync d }
    | .fbar _ => { w with wait := Wait.fbar (g 196 4) }
    | .mon pa _ _ d => { w with wait := Wait.mon pa (g 200 8) (BitVec.ofNat 32 (g 196 4)) d }
    | .token _ => { w with wait := Wait.token (BitVec.ofNat 32 (g 200 8)) }
    | .counter _ _ => { w with wait := Wait.counter (g 200 8) (g 196 4) }
  match g 0 1, g 192 1 with
  | 1, 6 => (.ready, none)
  | 1, _ => if wait.isSome then (.waiting, wait) else (.ready, none)
  | 2, _ => (.parked, none)
  | 3, _ => (.frozen, none)
  | _, _ => (.ready, none)

/-- A fibre from its record, and the bytes after the record.  A table address of 0 names no table, unless the control die's record
says that it does (DEDUCED, log 29). -/
def Fibre.overlay (f : Fibre) (h : Header) (all : List EngByte) : Fibre × List EngByte :=
  let w := h.width
  let bs := all.map (·.1)
  let g := leAt bs
  let d0 := g 2 1
  let d1 := g 3 1
  let flag (k : Nat) : Bool := (g 1 1).testBit k
  let s0 := readStack d0 (all.drop 384)
  let s1 := readStack d1 (all.drop (384 + 32 * d0))
  let (v, r1) := readRegs w h.tag (g 48 8).testBit h.mainRegs (f.regs.v, all.drop (384 + 32 * (d0 + d1)))
  let (o, r2) := readRegs w (fun _ => 2) (g 56 2).testBit (List.range 16) (f.regs.o, r1)
  let (la, laBad) := readLatch w (r2.take (8 * w))
  let (lm, lmBad) := readLatch w ((r2.drop (8 * w)).take (8 * w))
  let (tiles, r3) := readTiles (g 58 2).testBit (List.range 16) (f.regs.tiles, r2.drop (16 * w))
  let used := all.length - r3.length
  let (status, wait) := f.readWait g
  ({ f with
      status := status, wait := wait, lanes := BitVec.ofNat 64 (g 240 8)
      p0 := f.p0.overlay (sliceBytes bs 64 64) s0 (flag 2), p1 := f.p1.overlay (sliceBytes bs 128 64) s1 (flag 3)
      merge := if flag 4 then some { mode := BitVec.ofNat 32 (g 8 4), fmt := BitVec.ofNat 32 (g 12 4), owner := g 248 1 % 2 }
        else none
      regs := { v := v, o := o, la := la, lm := lm, laPoison := laBad, lmPoison := lmBad
                preds := (List.range 8).map fun k => BitVec.ofNat 64 (g (256 + 8 * k) 8), tiles := tiles }
      spec := { f.spec with
        mode := BitVec.ofNat 32 (g 16 4), fmt := BitVec.ofNat 32 (g 20 4), gang := BitVec.ofNat 32 (g 24 4)
        rcnt := BitVec.ofNat 32 (g 28 4)
        table := if g 224 8 = 0 then f.spec.table.filter fun t => t.addr == 0 else some { slot := 99, addr := BitVec.ofNat 64 (g 224 8) }
        bankCh := if flag 5 then some (channelOf (g 232 8)) else none } },
    all.drop ((used + 63) / 64 * 64))

/-- The fibres of a residency, with their fence generations, from the records one after another. -/
def Residency.overlay (h : Header) : KMap Fibre → Residency × List EngByte → Residency × List EngByte
  | [], acc => acc
  | (slot, f) :: fs, (r, all) =>
    let g := leAt (all.map (·.1))
    let (f', rest) := f.overlay h all
    let fences := (List.range 8).foldl (fun m k =>
      kset m (8 * slot + k) { gen := g (208 + 2 * k) 2, busy := none }) r.fences
    let live := g 48 8
    let windows := r.windows.map fun p =>
      if p.1 = spindleKey slot then
        (p.1, (p.2.zipIdx).map fun x => { x.1 with live := live.testBit (h.wfirst + x.2) })
      else p
    Residency.overlay h fs ({ r with slots := kset r.slots slot f', fences := fences, windows := windows }, rest)

/-- A window register of a tag from its lanes. -/
def windowReg (tag : Nat) (old : Reg) (xs : List Word) (bad : Mask) : Reg :=
  let val : RegVal :=
    if tag = 0 then .u (xs.getD 0 0) else if tag = 1 then .a (xs.getD 0 0) (xs.getD 1 0 - xs.getD 0 0) else .g xs
  { old with val := val, poison := if tag = 0 ∧ bad ≠ 0 then 1 else bad }

/-- The windows of a residency from the bytes that hold them. -/
def Residency.readWindows (r : Residency) (h : Header) (bs : List EngByte) : Residency :=
  let size := 4 * h.width
  { r with
    windows := r.windows.map fun p =>
      (p.1, (p.2.zipIdx).map fun x =>
        let (xs, bad) := readLanes h.width ((bs.drop (size * (h.wcount * p.1 + x.2))).take size)
        windowReg (h.tag (h.wfirst + x.2)) x.1 xs bad) }

/-- A barrier from its 16 bytes. -/
def readBarrier (bs : List Byte) : Barrier :=
  let q := leAt bs 0 8
  let p := leAt bs 8 8
  { state := match q % 4 with | 0 => .free | 1 => .armed | 2 => .consumed | _ => .abandoned
    count := q / 256 % 4096, reload := q / 2 ^ 20 % 4096, pend := (List.range 64).filter p.testBit }

/-- A bin from its summary and its entries, who pushed them being known from the bin as it was. -/
def readBin (old : Bin) (sum entries : List Byte) : Bin :=
  let n := leAt sum 8 2
  { state := match leAt sum 12 1 with | 0 => .empty | 1 => .filling | 2 => .full | _ => .expired
    target := BitVec.ofNat 64 (leAt sum 0 8), since := Config.binTimer - leAt sum 10 2, order := old.order
    entries := (List.range n).map fun i =>
      let e := old.entries.getD i { v := [], fibre := 0, lane := 0 }
      { e with v := (List.range 4).map fun k => BitVec.ofNat 32 (leAt entries (24 * i + 8 + 4 * k) 4) } }

/-- The bins one after another, each taking its entries. -/
def readBins (sums : List Byte) : List (Bin × Nat) → List Byte → List Bin
  | [], _ => []
  | (b, i) :: bs, entries =>
    let x := readBin b (sliceBytes sums (16 * i) 16) entries
    x :: readBins sums bs (entries.drop (24 * x.entries.length))

/-- The slots that a mask names, `n` bytes each, one after another. -/
def readSlots (mask n : Nat) (bs : List Byte) : KMap (List Byte) :=
  (((List.range 16).filter mask.testBit).zipIdx).map fun p => (p.1, sliceBytes bs (n * p.2) n)

/-- The next multiple of 64. -/
def up64 (n : Nat) : Nat := (n + 63) / 64 * 64

/-- A saved team as its area holds it. -/
def Saved.overlay (x : Saved) (all : List EngByte) : Saved :=
  let t := x.team
  let h := t.hdr
  let bs := all.map (·.1)
  let (e1, r1) := Residency.overlay h x.even.slots (x.even, all.drop 1024)
  let (o1, r2) : Option Residency × List EngByte :=
    match x.odd with
    | some o => let (o', r) := Residency.overlay h o.slots (o, r1); (some o', r)
    | none => (none, r1)
  let wsize := 8 * h.wcount * 4 * h.width
  let e2 := e1.readWindows h r2
  let o2 := o1.map fun o => o.readWindows h (r2.drop wsize)
  let r3 := r2.drop (up64 (wsize * x.residencies.length))
  let sums := sliceBytes bs 896 128
  let bins := readBins sums (t.allBins.zipIdx) (r3.map (·.1))
  let r4 := r3.drop (up64 (24 * (bins.map fun b => b.entries.length).sum))
  let scaleMask := leAt bs 32 2
  let metaMask := leAt bs 34 2
  let count (m : Nat) : Nat := ((List.range 16).filter m.testBit).length
  let r5 := r4.drop (2048 * count scaleMask)
  let r6 := r5.drop (512 * count metaMask)
  let deps := (List.range 64).foldl (fun m i => kset m i { state := .free, gen := leAt bs (768 + 2 * i) 2, cmd := none }) e2.deps
  { x with
    team := { t with
      handler := BitVec.ofNat 64 (leAt bs 24 8), bins := bins
      barriers := (List.range 32).map fun i => (i, readBarrier (sliceBytes bs (256 + 16 * i) 16)) }
    even := { e2 with
      deps := deps
      scales := (readSlots scaleMask 2048 (r4.map (·.1))).map fun p => (p.1, (readLanes 512 (clean p.2)).1)
      metas := readSlots metaMask 512 (r5.map (·.1)) }
    odd := o2
    scratch := (x.scratch.zipIdx).map fun y =>
      let part := (r6.drop (h.scratch * y.2)).take h.scratch
      (part.map (·.1), (List.range (h.scratch / 32)).filter fun a => ((part.drop (32 * a)).take 32).any (·.2)) }

/-- The bytes of a save area, with their poison. -/
def State.areaBytes (s : State) (base : Nat) : List EngByte := s.engRead (span base (readNat s.mem (base + 4) 4))

/-- A wait of a kind of the wait record, its value still to be read. -/
def blankWait (kind : Nat) : Option WaitState :=
  match kind with
  | 1 => some ⟨0, .barrier 0 false true .nothing⟩
  | 2 => some ⟨0, .fbar 0⟩
  | 3 => some ⟨0, .mon 0 0 0 .nothing⟩
  | 4 => some ⟨0, .token 0⟩
  | 5 => some ⟨0, .counter 0 0⟩
  | _ => none

/-- The fibres of an image one after another, by their slots and ascending (15 R320). -/
def imageFibres (h : Header) : Nat → List EngByte → KMap Fibre
  | 0, _ => []
  | n + 1, bs =>
    let g := leAt (bs.map (·.1))
    let f0 := { launchFibre h (g 4 4) 0 0 with wait := blankWait (g 192 1) }
    let (f, rest) := f0.overlay h bs
    (f.num, f) :: imageFibres h n rest

/-- The destination of a D field of a ply's pass. -/
def Ply.destAt (p : Ply) (d : BitVec 7) : Dest :=
  match destOf d, p.loop with
  | some (.v i), some l => .v (stepIndex l .d i)
  | some x, _ => x
  | none, _ => .nothing

/-- What the wait of an image becomes by the instruction that a ply stands at: where its status goes, and of a
barrier whether it is a `BARV` whose arrival is held; none where the ply does not wait there (log 29). -/
def Wait.atInstr (x : Wait) (p : Ply) (held : Bool) (i : Instr) : Option Wait :=
  match x, i with
  | .barrier id _ _ _, .barv _ _ => some (.barrier id true false .nothing)
  | .barrier id _ _ _, .bwait _ d _ => some (.barrier id false true (p.destAt d))
  | .barrier id _ _ _, .bsync _ d _ => some (.barrier id held true (p.destAt d))
  | .mon pa va val _, .mon _ d _ _ => some (.mon pa va val (p.destAt d))
  | .fbar m, .fbar _ _ => some (.fbar m)
  | .token t, .waitt _ _ => some (.token t)
  | .counter k n, .waitc _ _ _ => some (.counter k n)
  | _, _ => none

/-- The instruction word that a ply stands at. -/
def State.wordOf (s : State) (ctx : Nat) (p : Ply) : Option Word :=
  match p.loop with
  | some l => l.body[l.idx]?
  | none => s.codeWord ctx p.pc.toNat

/-- A waiting fibre of an image with its wait as the instruction that waits gives it: that of ply 0, or of ply 1. -/
def State.imageWait (s : State) (ctx : Nat) (bars : KMap Barrier) (f0 : Fibre) : Fibre :=
  let f := { f0 with p0 := s.reloop ctx f0.p0, p1 := s.reloop ctx f0.p1 }
  match f.wait with
  | none => f
  | some w =>
    let held := match w.wait with
      | .barrier id _ _ _ => !((kgetD bars id Barrier.fresh).pend.contains f.num)
      | _ => false
    let found := [0, 1].findSome? fun k =>
      if (f.ply k).live then
        ((s.wordOf ctx (f.ply k)).bind fun x => w.wait.atInstr (f.ply k) held (decodeWord x 0)).map fun y : Wait =>
          ({ ply := k, wait := y } : WaitState)
      else none
    { f with wait := some (found.getD w) }

/-- A launch header that a save area names: of a launch in flight, or as the context's memory holds it. -/
def State.headerNamed (s : State) (ctx n r a : Nat) : Option (Nat × Header) :=
  match s.control.launches.find? fun p => p.2.ctx == ctx && p.2.hdrAddr.toNat == a with
  | some (k, l) => some (k, l.hdr)
  | none =>
    (((span a 256).mapM fun b => s.freshXlat ctx n r (b % 2 ^ 56)).bind fun pas => Header.ofBytes (pas.map s.loadByte)).map
      fun h => (s.control.nextLaunch, h)

/-- The team of an image of which the control die has no record: all of it is read from the area (15 R319, R320, R322;
log 29). -/
def State.imageTeam (s : State) (base n r : Nat) : Option Saved :=
  let all := s.areaBytes base
  let g := leAt (all.map (·.1))
  let ctx := g 8 2
  (s.headerNamed ctx n r (g 16 8)).map fun x =>
    let h := x.2
    let det : Option DetTeam := (kget s.control.launches x.1).bind fun l => l.det.map fun _ =>
      { lcore := s.lcore l (g 12 4), epoch := kgetD s.control.epochs (n / 80) 0, sampled := false, copyCore := 0, digest := 0
        buf := [], check := [] }
    let team : Team :=
      { ctx := ctx, launch := x.1, hdr := h, hdrAddr := BitVec.ofNat 64 (g 16 8), num := g 12 4, handler := 0, barriers := []
        bins := [], quantumAt := s.clock, save := none, det := det }
    let fibres := imageFibres h (g 11 1) (all.drop 1024)
    let part (odd : Bool) : Residency :=
      { Residency.empty with
        pairedOdd := odd, windows := launchWindows h
        slots := (fibres.filter fun p => decide (32 ≤ p.1) == odd).map fun p =>
          (p.1 % 32, { p.2 with sched := { p.2.sched with left := if det.isSome then some Config.detQuantum else none } }) }
    let blank : Saved :=
      { team := team, even := part false, odd := if h.paired then some (part true) else none
        scratch := (h.coresAt n).map fun _ => ([], []), ops := [] }
    let y := blank.overlay all
    let fix (z : Residency) : Residency :=
      { z with slots := z.slots.map fun p => (p.1, s.imageWait ctx y.team.barriers p.2) }
    { y with even := fix y.even, odd := y.odd.map fix }

/-- Whether the control die's record of a save is that of the team in a save area. -/
def State.areaIs (s : State) (base : Nat) (x : Saved) : Bool :=
  readNat s.mem (base + 8) 2 == x.team.ctx && readNat s.mem (base + 12) 4 == x.team.num
    && readNat s.mem (base + 16) 8 == x.team.hdrAddr.toNat

/-- The saved team of a save area: the record that was kept of it, with the values that memory holds; without a record,
the image alone. -/
def State.readArea (s : State) (base n r : Nat) : Option Saved :=
  match kget s.control.areas base with
  | some x => if s.areaIs base x then some (x.overlay (s.areaBytes base)) else s.imageTeam base n r
  | none => s.imageTeam base n r

end Sys2Proof.Machine
end

