-- ==== Sys2Proof/Machine/Context.lean ====
section
/-! DEFINITION. Saves and restores as they happen: `CTXSAVE`, `CTXLD`, the end of a save, a restore, and the turns
and epochs of deterministic launches (15 R322; 16 R339, R340; 17 R367; 18 R372 to R378). -/

namespace Sys2Proof.Machine

open Sys2Proof

/-! ### CTXSAVE and CTXLD (15 R322) -/

/-- A request block: core, residency and save-area base; ILL for a field out of range. -/
def requestBlock (die : Nat) (bs : List Byte) : Except Stop (Nat × Nat × Nat) :=
  let g := leAt bs
  let base := g 8 8
  if g 0 2 ≤ 79 ∧ g 2 1 ≤ 1 ∧ zeroFrom bs 3 8 ∧ zeroFrom bs 16 64 ∧ base % 4096 = 0 ∧ base < 2 ^ 52
      ∧ dieOf base = die ∧ kindOf base = 0 ∧ paExists base then
    .ok (80 * die + g 0 2, g 2 1, base)
  else .error illState

/-- The checks of `CTXSAVE` and `CTXLD`: the form, and the block where the active mask is not empty. -/
def contextRequest (v : View) (s : State) (d : BitVec 7) (a : BitVec 9) : Except Stop (Form × Option (Nat × Nat × Nat)) := do
  let ua := v.addrUse a .a
  let x := v.read ua none
  let fm : Form := { uses := [ua], d := some { dUse d 1 false with fixed := true } }
  v.check fm true (need (s.privileged v) illPrivilege) (do needU x a; v.arrivalOk fm d 1 .u)
  if v.active = 0 then .ok (fm, none)
  else do
    let va := v.address x 0 0
    need (va % 64 == 0 && decide (va < Config.windowTop)) illState
    match (span va 64).mapM fun i => s.windowPa v.who.core v.who.res i with
    | none => .error illState
    | some pas => do
      need (!s.inSpill v.who.core v.who.res pas && !lockStops (s.locksOf v.who.core v.who.res) false va 64)
        (.trap { Trap.plain .rlock 0 with addr := BitVec.ofNat 64 va })
      need (!s.mustWait v pas) .stall
      let q ← requestBlock (v.who.core / 80) (s.ownBytes v pas)
      needClean [x] v.active
      need (!s.ownPoison v pas) (.trap (Trap.plain .poison 0))
      .ok (fm, some q)

/-- A save or a restore of a residency is in progress. -/
def State.inProgress (s : State) (n r : Nat) : Bool :=
  ((s.team n r).bind (·.save)).isSome || s.restoring n r

/-- SAVED of a save area. -/
def State.setSaved (s : State) (base x : Nat) : State := s.store (span base 4) (bytesOfNat 4 x)

/-- What `CTXSAVE` does: its status and the state (15 R322). -/
def State.requestSave (s : State) (v : View) (n r base : Nat) : State × Nat :=
  if s.inProgress n r then (s, 3)
  else
    match s.team n r with
    | none => (s, 1)
    | some t =>
      if t.launch = v.team.launch ∧ t.num = v.team.num then (s, 2)
      else ((s.setSaved base 0).askSave n r (.ctxsave base), 0)

/-- CTXSAVE (15 R321, R322). -/
def execCtxsave (y : Bool) (d : BitVec 7) (a : BitVec 9) (s : State) : Host.Outcome State Fault Refusal :=
  issue y s fun v => do
    match ← contextRequest v s d a with
    | (fm, none) => .ok ((s.lastUses v fm).retire v)
    | (fm, some (n, r, base)) =>
      let (s1, st) := s.requestSave v n r base
      s1.finishPlain v fm d (Result.narrow (Value.uni (BitVec.ofNat 32 st) false))

/-- The residencies that take a core from a team of residency `r`: that one in dual residency, else either (15 R315). -/
def State.rivals (s : State) (c r : Nat) : List Nat := if (s.core c).dual then [r] else [0, 1]

/-- Whether a core has no room for a team of a residency: a team is there, or is about to be restored. -/
def State.occupied (s : State) (c r : Nat) : Bool :=
  (s.rivals c r).any fun q => (s.team c q).isSome || s.restoring c q

/-- Whether a save area names a save that may be restored to a residency: SAVED is 1, and byte 10 matches (15 R322). -/
def State.restorable (s : State) (base n r : Nat) : Bool :=
  readNat s.mem base 4 == 1 && readNat s.mem (base + 10) 1 == r + (if (s.core n).dual then 2 else 0)

/-- What `CTXLD` does (15 R322). -/
def State.requestLoad (s : State) (n r base : Nat) : State × Nat :=
  if s.inProgress n r then (s, 3)
  else if s.occupied n r then (s, 1)
  else if !s.restorable base n r then (s, 2)
  else
    match s.readArea base n r with
    | none => (s, 2)
    | some x =>
      if x.team.hdr.paired ∧ n % 2 ≠ 0 then (s, 2)
      else if (x.team.hdr.coresAt n).any fun c => s.occupied c r then (s, 1)
      else (s.modCore n fun c => { c with restore := kset c.restore r { base := some base, saved := x } }, 0)

/-- CTXLD (15 R321, R322). -/
def execCtxld (y : Bool) (d : BitVec 7) (a : BitVec 9) (s : State) : Host.Outcome State Fault Refusal :=
  issue y s fun v => do
    match ← contextRequest v s d a with
    | (fm, none) => .ok ((s.lastUses v fm).retire v)
    | (fm, some (n, r, base)) =>
      let (s1, st) := s.requestLoad n r base
      s1.finishPlain v fm d (Result.narrow (Value.uni (BitVec.ofNat 32 st) false))

/-! ### The end of a save (02 R45, 16 R339, 17 R360, R367) -/

/-- Whether a save may be made now: everything is drained, no `NOPRE` section is open, no bank channel's pass runs, a
deterministic team stands between epochs, and a long-wait swap finds no READY fibre. -/
def State.saveReady (s : State) (n r : Nat) (why : SaveReason) : Bool :=
  let fs := (s.teamFibres n r).map fun x => x.2.2
  s.drained n r && !s.nopreOpen n r && (fs.all fun f => f.betweenQuanta && !f.midPass)
    && (why != .swap || !(fs.any Fibre.inRun))

/-- A saved team waits for placement again: at the tail of its list, or at the head (16 R336, R340; 17 R367). -/
def State.requeue (s : State) (x : Saved) (head : Bool) : State :=
  s.enqueue (listKey (s.deviceOf x.team.ctx) x.team.hdr)
    { launch := x.team.launch, num := x.team.num, count := 1, since := s.clock, saved := some x, aged := false } head

/-- Where a saved team goes, by what the save was for; for a test it waits until that ends (17 R367). -/
def State.disposeSaved (s : State) (n r : Nat) (x : Saved) (t : Team) : SaveReason → State
  | .swap => s.requeue x false
  | .quantum =>
    match s.replacement n r t with
    | some (key, pos, num) =>
      (match (s.list key)[pos]? with
       | some w =>
         let l := (s.launchOf w).map (·.hdr.paired)
         ((s.takeWaiting key pos num).placeAt w num (if l = some true then pairOf n else n)).requeue x false
       | none => s.requeue x false)
    | none => s.requeue x false
  | .test => { s with control := { s.control with underTest := s.control.underTest ++ [(n / 2, x)] } }
  | .replace => s.requeue x true
  | .ctxsave base =>
    let c := s.core n
    let s1 := s.writeArea base x c.dual r
    { s1 with control := { s1.control with areas := kset s1.control.areas base x } }

/-- The `MON`s of a team that writes have ended complete: a save holds their fibres READY (08 R216). -/
def State.wakeMet (s : State) (n r : Nat) : State :=
  (s.teamFibres n r).foldl (fun s x => if (s.metAt x.1 r x.2.1).isSome then (s.evalMon x.1 r x.2.1).getD s else s) s

/-- TEAM_SAVE_COMPLETE (15 R318, R322): monitors that have ended go on first; bank registers go to their save rows, the team
leaves its cores, and its save goes where it is due; a freed core may be reserved. -/
def execTeamSaveComplete (core res : Nat) (s0 : State) : Host.Outcome State Fault Refusal :=
  let s := s0.wakeMet core res
  event s0 <|
    match (s.res core res).team with
    | none => none
    | some t =>
      match t.save with
      | none => none
      | some why =>
        if s.saveReady core res why then
          let s1 := (s.bankChannels core res).foldl State.saveRows s
          let x := s1.collect core res t false
          let s2 := s1.removeTeam core res t
          some ((s2.disposeSaved core res x t why).reserveCores (s.deviceOf t.ctx) (t.hdr.coresAt core))
        else none

/-! ### Turns of deterministic teams on one core (18 R372) -/

/-- Whether a fibre has stopped for the quantum (18 R373). -/
def Fibre.stopped (f : Fibre) : Bool :=
  f.status == .frozen || f.status == .waiting || (f.status == .ready && (f.sched.left == some 0 || !f.inRun))

/-- Whether every fibre of a residency has. -/
def Residency.stopped (r : Residency) : Bool := r.slots.all fun p => p.2.stopped

/-- The same of a saved team. -/
def Saved.stopped (x : Saved) : Bool := x.residencies.all Residency.stopped

/-- Whether every fibre of a saved team stands between two quanta. -/
def Saved.betweenQuanta (x : Saved) : Bool := x.residencies.all fun r => r.slots.all fun p => p.2.betweenQuanta

/-- Whether a deterministic team has stopped, and all it issued but its buffered writes has returned (18 R374). -/
def State.detStill (s : State) (n r : Nat) : Bool :=
  (s.teamCores n r).all fun c =>
    let x := s.res c r
    x.stopped && x.mmas == [] && (x.deps.all fun p => p.2.state == .free)
      && (s.core c).ops.all fun p => p.2.res != r || p.2.done || s.isBuffered c p.1 p.2

/-- A deterministic team steps aside on its core, with its buffered writes. -/
def State.turnAway (s : State) (n r : Nat) : State :=
  match (s.res n r).team with
  | none => s
  | some t =>
    let x := s.collect n r t true
    (s.removeTeam n r t).modCore n fun c => { c with turns := c.turns ++ [x] }

/-- The teams that stand where a team of a header would, from its lowest core: core and residency. -/
def State.standing (s : State) (n r : Nat) (h : Header) : List (Nat × Nat) :=
  (h.coresAt n).flatMap fun c => (s.rivals c r).filterMap fun q => if (s.team c q).isSome then some (s.home c q, q) else none

/-- Whether all of them are deterministic teams that have stopped. -/
def State.mayTurn (s : State) (n r : Nat) (h : Header) : Bool :=
  (s.standing n r h).all fun x => ((s.team x.1 x.2).bind (·.det)).isSome && s.detStill x.1 x.2

/-- They step aside. -/
def State.makeRoom (s : State) (n r : Nat) (h : Header) : State :=
  (s.standing n r h).foldl (fun s x => s.turnAway x.1 x.2) s

/-- A team that stepped aside comes back, in the place of those that stand there. -/
def State.turnBack (s : State) (n : Nat) (x : Saved) : State :=
  let s1 := s.makeRoom n x.team.hdr.res x.team.hdr
  (s1.modCore n fun c =>
    { c with turns := c.turns.filter fun y => y.team.launch != x.team.launch || y.team.num != x.team.num }).returnTeam
    n x.team.hdr.res x true

/-- Whether a team that has stepped aside is to be saved, and may be (17 R360, 18 R374). -/
def Saved.saveDue (x : Saved) : Bool :=
  x.team.save.isSome && x.betweenQuanta && !x.nopre && x.ops.all (·.isEmpty)
    && x.residencies.all fun r => r.slots.all fun p => !p.2.midPass

/-- A team that waits for its turn on a core and has not run its quantum, or that is to be saved, where the teams there have
stopped; once a test of the pair is asked for it takes the place of another only, or ends the quanta that have begun
(17 R367, 18 R374). -/
def State.nextTurn (s : State) (n r : Nat) : Option Saved :=
  (s.core n).turns.find? fun x => x.team.hdr.res == r && (!x.stopped || x.saveDue) && s.mayTurn n r x.team.hdr
    && (!(s.core n).health.busy || s.standing n r x.team.hdr != [] || (s.core n).turns.any fun y => !y.betweenQuanta)

/-- A deterministic team that waits in a list for a core that teams hold which have stopped: its header (18 R372). -/
def State.freshTurn (s : State) (n r : Nat) : Option Header :=
  (s.control.lists.flatMap (·.2)).findSome? fun w =>
    match s.launchOf w with
    | some l =>
      if l.det.isSome && l.hdr.res == r && s.standing n r l.hdr != [] && s.mayTurn n r l.hdr
          && (w.numbers l).any fun num => (s.placesOf l num (s.deviceOf l.ctx)).contains n then some l.hdr
      else none
    | none => none

/-- A sampled team that returns on the pair of its check copy, or whose copy's core no longer serves it, takes another core for
the copy; where the die has none it runs unchecked (18 R380). -/
def State.recheck (s : State) (n r : Nat) : State :=
  match s.team n r with
  | none => s
  | some t =>
    match t.det with
    | none => s
    | some d =>
      if !d.sampled || (pairOf d.copyCore != pairOf n && s.servesTeam t.ctx t.hdr d.copyCore) then s
      else
        match s.copyCoreFor t.ctx t.hdr t.launch n with
        | some m => s.modTeam n r fun t => { t with det := some { d with copyCore := m } }
        | none => (s.modTeam n r fun t => { t with det := some { d with sampled := false } }).skipCheck t.ctx

/-- A team that uses the matrix engine leaves a core whose matrix engine is fenced (10 R270, 17 R367). -/
def State.leaveFenced (s : State) (n r : Nat) : State :=
  match (s.res n r).team with
  | some t => if t.hdr.flags.getLsbD 1 && (s.core n).health.mfence then s.askSave n r .replace else s
  | none => s

/-- TEAM_RESTORE (02 R54, 15 R322, 16 R339): the restore that waits for a residency is made, once no test runs; with none, deterministic
teams that have stopped give their cores to the next logical core's team (18 R372). -/
def execTeamRestore (core res : Nat) (s : State) : Host.Outcome State Fault Refusal :=
  event s <|
    match kget (s.core core).restore res with
    | some q =>
      if (q.saved.team.hdr.coresAt core).any fun c =>
          (s.core c).health.testing || (s.rivals c res).any fun k => (s.team c k).isSome then none
      else
        let s1 := s.modCore core fun c => { c with restore := kerase c.restore res }
        let s2 := ((s1.restoreTeam core res q.saved).recheck core res).leaveFenced core res
        match q.base with
        | some base =>
          let s3 : State := { s2 with control := { s2.control with areas := kerase s2.control.areas base } }
          some (s3.setSaved base 2)
        | none => some s2
    | none =>
      match s.nextTurn core res with
      | some x => some (s.turnBack core x)
      | none => (s.freshTurn core res).map fun h => s.makeRoom core res h

/-! ### Epochs (18 R374, R377, R378) -/

/-- A team of an epoch: its launch, its number and its core. -/
structure EpochTeam where
  launch : Nat
  num : Nat
  core : Nat
  res : Nat
  deriving DecidableEq, Repr

/-- The deterministic teams on a die, those that stepped aside among them, in ascending team number; of one number, the
earlier launch first (18 R377; log 46). -/
def State.epochTeams (s : State) (die : Nat) : List EpochTeam :=
  let teams := (s.cores.filter fun p => p.1 / 80 == die).flatMap fun p =>
    (p.2.teams.filter fun t => t.det.isSome).map fun t =>
      ({ launch := t.launch, num := t.num, core := p.1, res := t.hdr.res } : EpochTeam)
  teams.foldl (fun ys x => insertBy (fun z => z.num * 2 ^ 64 + z.launch) x ys) []

/-- Whether a launch has begun: a team of it has been placed. -/
def State.begun (s : State) (k : Nat) (l : Launch) : Bool :=
  l.ended != [] || s.cores.any (fun p => p.2.teams.any (·.launch == k) || p.2.restore.any (·.2.saved.team.launch == k))
    || (s.control.areas.any fun p => p.2.team.launch == k) || s.control.underTest.any fun p => p.2.team.launch == k

/-- Whether a deterministic team of a die is away: it waits for its first placement, in a launch that has begun, while it
is its logical core's turn; or it was saved and has not been restored (18 R374). -/
def State.epochWaits (s : State) (die : Nat) : Bool :=
  let ofDie (ctx launch num : Nat) : Bool :=
    match kget s.control.launches launch with
    | some l => l.det.isSome && (s.contextDies ctx)[s.lcore l num / 80]? == some die
    | none => false
  (s.control.lists.flatMap (·.2)).any (fun w =>
      match s.launchOf w with
      | some l =>
        l.det.isSome && (w.numbers l).any fun num => ofDie l.ctx w.launch num && (w.saved.isSome || (s.begun w.launch l && s.lcoreTurn l num))
      | none => false)
    || ((s.control.areas.map (·.2) ++ s.control.underTest.map (·.2)).any fun x =>
      x.team.det.isSome && ofDie x.team.ctx x.team.launch x.team.num)
    || (s.cores.any fun p => p.1 / 80 == die && p.2.restore.any fun q => q.2.saved.team.det.isSome)

/-- Whether a logical core of a die has run its quantum of the epoch: its team has ended in it. -/
def State.epochRan (s : State) (die : Nat) : Bool :=
  s.control.launches.any fun p => p.2.resting.any fun k => (s.contextDies p.2.ctx)[k / 80]? == some die

/-- Whether an epoch of a die may end (18 R374). -/
def State.epochReady (s : State) (die : Nat) : Bool :=
  (s.epochTeams die != [] || s.epochRan die) && !s.epochWaits die
    && (s.cores.filter fun p => p.1 / 80 == die).all fun p =>
      (p.2.turns.all Saved.stopped) && [0, 1].all fun r =>
        match (s.res p.1 r).team with
        | some t => t.det.isNone || s.detStill p.1 r
        | none => true

/-- Bring a team of an epoch onto its core, where it stepped aside. -/
def State.bringTeam (s : State) (e : EpochTeam) : State :=
  match (s.core e.core).turns.find? fun x => x.team.launch == e.launch && x.team.num == e.num with
  | some x => s.turnBack e.core x
  | none => s

/-- The core of a fibre of a team (02 R24). -/
def fibreCore (n fibre : Nat) : Nat := if 32 ≤ fibre then n + 1 else n

/-- Perform one buffered instruction, whole, lanes ascending (18 R377); its old values reach `lm` and D at once. -/
def State.commitRec (s : State) (n ctx : Nat) (b : BufRec) : State :=
  let c := fibreCore n b.fibre
  match s.op c b.op with
  | none => s
  | some o =>
    let dest := match o.body with
      | .write _ _ d => d
      | _ => .nothing
    match b.kind with
    | .rmw r _ =>
      let (s1, olds) := performLanes ctx b.kind (b.lanes.zip (b.kind.tags b.lanes.length)) s
      if dest = .nothing then s1.opReturn c b.op else s1.finishOld c b.op o olds dest r.wide
    | _ =>
      match o.body with
      | .tileStore pas data bad => s.performTile c b.op pas data bad
      | _ => ((performLanes ctx b.kind (b.lanes.zip (b.kind.tags b.lanes.length)) s).1).opReturn c b.op

/-- Commit a team's buffered writes: fibres ascending, each in program order (18 R377). -/
def State.commitTeam (s : State) (e : EpochTeam) : State :=
  let s1 := s.bringTeam e
  match (s1.res e.core e.res).team with
  | none => s1
  | some t =>
    match t.det with
    | none => s1
    | some d =>
      let recs := d.buf.foldl (fun ys b => insertBy (fun z => z.fibre) b ys) []
      let s2 := recs.foldl (fun s b => s.commitRec e.core t.ctx b) s1
      s2.modTeam e.core e.res fun t => { t with det := t.det.map fun d => { d with buf := [] } }

/-- The entries of a bin in the order in which a deterministic launch takes them (18 R378). -/
def detEntries (es : List BinEntry) : List BinEntry := es.foldl (fun ys e => insertBy (fun z => 64 * z.fibre + z.lane) e ys) []

/-- The bins of a deterministic team at the end of an epoch in an order that no timing decides, those with entries first: by the
entry that each takes first, then by target (18 R382; DESIGN CHOICE, log 116). -/
def Team.orderedBins (t : Team) : List Bin :=
  let key (b : Bin) : Nat :=
    match (detEntries b.entries).head? with
    | some e => (64 * e.fibre + e.lane) * 2 ^ 64 + b.target.toNat
    | none => 2 ^ 80
  t.allBins.foldl (fun ys b => insertBy key b ys) []

/-- A bin of a deterministic team launches fibres of up to W entries while slots are free (18 R378). -/
def State.serveBin (n r bin : Nat) : Nat → State → State
  | 0, s => s
  | fuel + 1, s =>
    match (s.res n r).team with
    | none => s
    | some t =>
      let b := t.allBins.getD bin Bin.empty
      let es := detEntries b.entries
      if es = [] then s
      else
        match s.freeSlot n r t with
        | none => s
        | some slot =>
          let k := min t.hdr.width es.length
          let rest := es.drop k
          let b' : Bin := if rest = [] then { Bin.empty with target := b.target } else { b with entries := rest }
          State.serveBin n r bin fuel (s.launchBin n r bin slot t b' (es.take k) (some Config.detQuantum))

/-- The fences of a core whose accesses have all been performed end: those that captured buffered writes end with the
commit (09 R237, 18 R377). -/
def State.settleFences (s : State) (n r : Nat) : State :=
  s.modRes n r fun x => { x with
    fences := x.fences.map fun p =>
      match p.2.busy with
      | some ids => (p.1, if ids.all fun k => ((s.op n k).map (·.done)).getD true then { p.2 with busy := none } else p.2)
      | none => p }

/-- A fibre's next quantum starts; what its plies wait at was counted in an earlier one (18 R373, R374). -/
def Fibre.newQuantum (f : Fibre) : Fibre :=
  { f with sched := { f.sched with left := some Config.detQuantum, tally := f.sched.tally.map fun p => (p.1, false) } }

/-- Step 4 of 18 R374 for a team: fences end, waits are evaluated, bins served; its next quantum starts. -/
def State.endTeamEpoch (s : State) (epoch : Nat) (e : EpochTeam) : State :=
  let s0 := s.bringTeam e
  let s1 := ((s0.teamCores e.core e.res).foldl (fun s c => (s.settleFences c e.res).promoteDeps c e.res) s0).reevaluateAll
    e.core e.res
  let s2 := s1.modTeam e.core e.res fun t => { t with bins := t.orderedBins }
  let s3 := (List.range 8).foldl (fun s bin => State.serveBin e.core e.res bin 130 s) s2
  let s4 := s3.modTeam e.core e.res fun t => { t with det := t.det.map fun d => { d with epoch := epoch + 1 } }
  (s4.teamFibres e.core e.res).foldl (fun s x => s.modFibre x.1 e.res x.2.1 Fibre.newQuantum) s4

/-- The digests of a team of an epoch are compared (18 R381). -/
def State.compareTeam (s : State) (e : EpochTeam) : State := (s.bringTeam e).compareDigests e.core e.res

/-- EPOCH_END (18 R374, R381): digests are compared, every buffered write is committed, waits are evaluated, and the next
epoch starts. -/
def execEpochEnd (die : Nat) (s : State) : Host.Outcome State Fault Refusal :=
  event s <|
    if s.epochReady die then
      let ts := s.epochTeams die
      let epoch := kgetD s.control.epochs die 0
      let s1 := ts.foldl State.commitTeam (ts.foldl State.compareTeam s)
      let s2 := ts.foldl (fun s e => s.endTeamEpoch epoch e) s1
      some { s2 with control := { s2.control with
        epochs := kset s2.control.epochs die (epoch + 1)
        launches := s2.control.launches.map fun p =>
          (p.1, { p.2 with
            resting := p.2.resting.filter fun k => (s2.contextDies p.2.ctx)[k / 80]? != some die }) } }
    else none

end Sys2Proof.Machine
end

