-- ==== Sys2Proof/Machine/Faults.lean ====
section
/-! DEFINITION. The fault service, invalidations, hardware errors, in-field tests and the restart of a home agent
(17 R351 to R354, R362 to R368). -/

namespace Sys2Proof.Machine

open Sys2Proof

/-! ### Writing page tables (17 R344, R345) -/

/-- The levels of a walk: the lowest address bit that a level indexes, and the number of bits. -/
def levelBits (level : Nat) : Nat × Nat :=
  if level = 4 then (39, 17) else if level = 3 then (30, 9) else if level = 2 then (21, 9) else (16, 5)

/-- The bytes of a page that a leaf of a level maps. -/
def levelSize (level : Nat) : Nat := 2 ^ (levelBits level).1

/-- The place of a new table of a level: where firmware puts it (log 23), aligned to the table's size. -/
def newTable (ctx level va : Nat) : Nat :=
  let size := 8 * 2 ^ (levelBits level).2
  Config.tablePlace ctx level (va / 2 ^ ((levelBits level).1 + (levelBits level).2)) % 2 ^ 52 / size * size

/-- Write an entry of a table. -/
def State.writeEntry (s : State) (addr : Nat) (e : BitVec 64) : State := s.store (span addr 8) (bytesOfNat 8 e.toNat)

/-- Go down from a table to the table of a level, making tables that are missing: that table's address, none where a leaf
stands in the way (17 R344), or where an entry would reach a place that does not exist (05 R102).  `levels` are the levels still to go through. -/
def State.descend (ctx va : Nat) : List Nat → Nat → State → Option (State × Nat)
  | [], table, s => some (s, table)
  | level :: more, table, s =>
    let (lo, bits) := levelBits level
    let at_ := table + 8 * (va / 2 ^ lo % 2 ^ bits)
    let e := BitVec.ofNat 64 (readNat s.mem at_ 8)
    if entryValid e then (if entryLeaf e then none else State.descend ctx va more (entryAddr e) s)
    else
      let next := newTable ctx (level - 1) va
      let size := 8 * 2 ^ (levelBits (level - 1)).2
      if kindOf next = 0 ∧ dieOf next < 8 ∧ paExists next ∧ paExists (next + size - 1) then
        let s1 := s.store (span next size) (List.replicate size 0)
        State.descend ctx va more next (s1.writeEntry at_ (BitVec.ofNat 64 (next + 1)))
      else none

/-- The place of the entry of a level for an address, tables made on the way. -/
def State.entryPlace (s : State) (ctx va level : Nat) : Option (State × Nat) :=
  match s.context ctx with
  | none => none
  | some c =>
    (State.descend ctx va ((List.range (4 - level)).map (4 - ·)) c.root s).map fun x =>
      (x.1, x.2 + 8 * (va / 2 ^ (levelBits level).1 % 2 ^ (levelBits level).2))

/-- Whether stack frames have been mapped under the other decoding (05 R103; log 101). -/
def State.framesTaken (s : State) (base size : Nat) (cl : Bool) : Bool :=
  kindOf base == 0 && s.control.frames.any fun f => f.cl != cl && overlaps f.base f.size base size

/-- Stack frames are mapped under a decoding. -/
def State.takeFrames (s : State) (base size : Nat) (cl : Bool) : State :=
  let f : FrameUse := { base := base, size := size, cl := cl }
  if kindOf base ≠ 0 ∨ s.control.frames.contains f then s
  else { s with control := { s.control with frames := s.control.frames ++ [f] } }

/-! ### The fault service (17 R351, R352) -/

/-- Where a fibre sits: core, residency, slot. -/
def State.findFibre (s : State) (who : Nat × Nat × Nat) : Option (Nat × Nat × Nat) :=
  (s.findTeam who.1 who.2.1).bind fun x =>
    ((s.teamFibres x.1 x.2).find? fun y => y.2.2.num == who.2.2).map fun y => (y.1, x.2, y.2.1)

/-- A PARKED fibre takes the fill of its resolved fault and is READY (17 R352). -/
def State.fillFibre (s : State) (l : Leaf) (who : Nat × Nat × Nat) : State :=
  match s.findFibre who with
  | none => s
  | some (n, r, slot) =>
    let ply := ((kget (s.res n r).faults slot).map (·.ply)).getD 0
    let s1 := s.modRes n r fun x => { x with faults := kerase x.faults slot }
    s1.modFibre n r slot fun f =>
      if f.status = .parked then { f with status := .ready, sched := { f.sched with fills := f.sched.fills ++ [(ply, l)] } } else f

/-- A fault is resolved: every fibre that it parked is released (17 R351, R352). -/
def State.resolve (s : State) (key : Nat) (f : ServiceFault) (l : Leaf) : State :=
  let s1 : State := { s with control := { s.control with faults := kerase s.control.faults key } }
  f.fibres.foldl (fun s who => s.fillFibre l who) s1

/-- A fault cannot be resolved: its fibres are killed; one that is saved is killed at its restore (17 R350, R351). -/
def State.abortFault (s : State) (key : Nat) (f : ServiceFault) : State :=
  let s1 : State := { s with control := { s.control with faults := kerase s.control.faults key } }
  f.fibres.foldl (fun s who =>
    match s.findFibre who with
    | some (n, r, slot) =>
      (match s.fibre n r slot with
       | some g => if g.status = .parked then s.freezeAt n r slot 6 0xFF 0xFF g.lastPc else s
       | none => s)
    | none => { s with control := { s.control with aborts := s.control.aborts ++ [who] } }) s1

/-- The permissions of a range as leaf bits R, WR and X. -/
def permBits (p : BitVec 8) : Nat := 4 * (p.toNat % 8)

/-- An on-demand range that covers a fault and grants what its access needs (17 R351). -/
def State.demandFor (s : State) (f : ServiceFault) : Option Demand :=
  if f.kind = .np then
    s.control.demands.find? fun d =>
      d.ctx == f.ctx && decide (d.va ≤ f.va) && decide (f.va < d.va + 65536 * d.pages)
        && f.cls.allowed (BitVec.ofNat 64 (permBits d.perm))
  else none

/-- Code of an access class and of a fault kind in an event (17 R346, R349). -/
def AccClass.code : AccClass → Nat
  | .load => 0 | .store => 1 | .atomic => 2 | .fetch => 3 | .engineRead => 4 | .engineWrite => 5 | .bankRead => 6
  | .bankWrite => 7
def FaultKind.code : FaultKind → Nat
  | .np => 0 | .perm => 1 | .rsvd => 2 | .hole => 3

/-- A translation-fault event: the page, the kind, the access, and whether a pool is exhausted (17 R351). -/
def State.postFault (s : State) (key : Nat) (f : ServiceFault) (exhausted : Bool) : State :=
  let s1 := s.post .translationFault controlSource f.ctx [f.va, f.kind.code, f.cls.code, bitNat exhausted]
  { s1 with control := { s1.control with faults := kset s1.control.faults key { f with posted := true } } }

/-- The service serves a page on demand: the next frame of the pool, filled with zeros, and a 64 KiB leaf. -/
def State.serveDemand (s : State) (key : Nat) (f : ServiceFault) (d : Demand) : Option State :=
  let frame := d.pool + 65536 * d.taken
  match s.entryPlace f.ctx f.va 1 with
  | none => none
  | some (s1, at_) =>
    let entry : BitVec 64 := BitVec.ofNat 64 (frame + 3 + permBits d.perm)
    let s2 := (s1.store (span frame 65536) (List.replicate 65536 0)).writeEntry at_ entry
    let s3 : State :=
      { s2 with control := { s2.control with
          demands := s2.control.demands.map fun x => if x = d then { x with taken := x.taken + 1 } else x } }
    some (s3.resolve key f { ctx := f.ctx, va := f.va, size := 65536, entry := entry })

/-- FAULT_SERVICE (17 R351). -/
def execFaultService (fault : Nat) (s : State) : Host.Outcome State Fault Refusal :=
  event s <|
    match kget s.control.faults fault with
    | none => none
    | some f =>
      if f.posted then none
      else
        let fn := ((s.context f.ctx).map (·.fn)).getD 0
        match (if s.featureOn fn 4 then s.demandFor f else none) with
        | some d =>
          if d.taken < d.frames then some ((s.serveDemand fault f d).getD (s.postFault fault f false))
          else some (s.postFault fault f true)
        | none => some (s.postFault fault f false)

/-! ### Invalidation (17 R353) -/

/-- Whether a leaf covers some of a range of a context. -/
def Leaf.touches (l : Leaf) (ctx va size : Nat) : Bool := l.ctx == ctx && overlaps l.va l.size va size

/-- Whether an outstanding access uses a translation of a range: near accesses until they are performed, far ones and
engine commands until they have returned. -/
def State.usesPage (s : State) (n ctx va size : Nat) (o : Op) : Bool :=
  !o.done && s.opCtx n o == ctx && o.pages.any fun p => overlaps (p * 65536) 65536 va size

/-- Start an invalidation of a page of a context (17 R353). -/
def State.startInvalidation (s : State) (ctx va size fn resp cmd : Nat) : State :=
  let dies := ((s.context ctx).map (·.presence)).getD []
  if dies = [] then s.respond fn resp 0 0
  else
    let k := s.control.nextInv
    let inv : Invalidation :=
      { ctx := ctx, va := va, size := size, dies := dies.foldl (fun m d => kset m d InvState.sent) [], left := dies.length
        fn := fn, resp := resp, cmd := cmd }
    { s with control := { s.control with invs := kset s.control.invs k inv, nextInv := k + 1 } }

/-- Set where an invalidation stands at a die. -/
def State.setInv (s : State) (k die : Nat) (x : InvState) : State :=
  { s with control := { s.control with invs := kmod s.control.invs k fun i => { i with dies := kset i.dies die x } } }

/-- A die drops what it holds of a page: cache entries and fills; its monitors on the page are abandoned. -/
def State.dropPage (s : State) (ctx va size die : Nat) : State :=
  let clear (r : Residency) : Residency :=
    { r with
      slots := r.slots.map fun p =>
        (p.1, { p.2 with sched := { p.2.sched with fills := p.2.sched.fills.filter fun l => !l.2.touches ctx va size } }) }
  let s1 : State :=
    { s with
      cores := s.cores.map fun p =>
        if p.1 / 80 = die then
          (p.1, { p.2 with tlb := p.2.tlb.filter fun l => !l.touches ctx va size, r0 := clear p.2.r0, r1 := clear p.2.r1 })
        else p }
  s1.abandonWhere (fun n c => n / 80 == die && c == ctx) fun _ a => decide (va ≤ a) && decide (a < va + size)

/-- INVALIDATION (17 R353). -/
def execInvalidation (inv die : Nat) (s : State) : Host.Outcome State Fault Refusal :=
  event s <|
    match kget s.control.invs inv with
    | none => none
    | some i =>
      if kget i.dies die = some .sent then
        let waits := (s.cores.filter fun p => p.1 / 80 == die).flatMap fun p =>
          (p.2.ops.filter fun q => s.usesPage p.1 i.ctx i.va i.size q.2).map fun q => (p.1, q.1)
        some ((s.dropPage i.ctx i.va i.size die).setInv inv die (.dropped waits))
      else none

/-- INVALIDATION_ACK (17 R353): every access that used a dropped translation has ended. -/
def execInvalidationAck (inv die : Nat) (s : State) : Host.Outcome State Fault Refusal :=
  event s <|
    match (kget s.control.invs inv).bind fun i => kget i.dies die with
    | some (.dropped waits) =>
      if waits.all fun w => ((s.op w.1 w.2).map (·.done)).getD true then some (s.setInv inv die .acked) else none
    | _ => none

/-- INVALIDATION_ACK_RECEIPT (17 R353): counted; at the target the mapping command completes. -/
def execInvalidationAckReceipt (inv die : Nat) (s : State) : Host.Outcome State Fault Refusal :=
  event s <|
    match kget s.control.invs inv with
    | none => none
    | some i =>
      if kget i.dies die = some .acked then
        let j := { i with dies := kerase i.dies die, left := i.left - 1 }
        let s1 (m : KMap Invalidation) : State := { s with control := { s.control with invs := m } }
        if j.left = 0 then some ((s1 (kerase s.control.invs inv)).respond i.fn i.resp 0 0)
        else some (s1 (kset s.control.invs inv j))
      else none

/-! ### Hardware errors (17 R362 to R366) -/

/-- Poison lanes of a register. -/
def Reg.poisonLane (x : Reg) (l : Nat) : Reg :=
  match x.val with
  | .u _ => { x with poison := 1 }
  | _ => { x with poison := x.poison ||| (1#64 <<< l) }

/-- A home agent restarts: filter, regions and engines are cleared, each region's owner learns of it, and the agent
discards far packets for its period, or stays down where it is held in reset (17 R364, 20 R400). -/
def State.restartHome (s : State) (st : Nat) (held : Bool) : State :=
  let h := s.agent st
  let s1 := h.regions.foldl (fun s r => s.post .regionLost (stackSource st) r.owner [r.base, r.size]) s
  (s1.forgetSent fun t => tagAgent t == 672 + st && tagSlot t != linkSlot).modAgent st fun _ =>
    { Home.reset with
      linkSeq := h.linkSeq, down := held, lastFar := h.lastFar, farReady := false
      discardUntil := if held then none else some (s.clock + Config.closingCycles) }

/-- UNCORRECTABLE_ERROR (17 R362, R364 to R366; 18 R380). -/
def execUncorrectableError (place : ErrorPlace) (s : State) : Host.Outcome State Fault Refusal :=
  event s <|
    match place with
    | .atom pa => some (s.poisonAt pa)
    | .vreg c r sl i l =>
      some (s.atCore c r fun s c =>
        match s.team c r, s.fibre c r sl with
        | some t, some f => s.setV c r sl t.hdr i ((getV t.hdr (s.res c r) sl f i).poisonLane l)
        | _, _ => s)
    | .oreg c r sl i l =>
      some (s.atCore c r fun s c =>
        match s.team c r, s.fibre c r sl with
        | some t, some f => s.setO c r sl t.hdr i ((getO t.hdr f i).poisonLane l)
        | _, _ => s)
    | .latch c r sl mem l =>
      some (s.atCore c r fun s c => s.modFibre c r sl fun f =>
        let g := f.regs
        let m : Mask := 1#64 <<< l
        { f with
          regs := if mem then { g with lmPoison := g.lmPoison ||| m } else { g with laPoison := g.laPoison ||| m } })
    | .cell c r sl t x =>
      some (s.atCore c r fun s c =>
        match s.fibre c r sl with
        | some f => s.setTile c r sl t { f.tile t with poison := x :: ((f.tile t).poison.filter (· != x)) }
        | none => s)
    | .bankReg p b k => some (s.modChannel p fun c => c.setReg b k { c.reg b k with poison := true })
    | .root p => some (s.modChannel p fun c => { c with root := { c.root with poison := true } })
    | .home st => some (s.restartHome st false)
    | .shadow c n =>
      some ([0, 1].foldl (fun s r =>
        match s.copyAt c r with
        | some (x, k) => s.replaceCopy { x with cores := kmod x.cores k fun y => { y with shadow := n } }
        | none => s) (s.modCore c fun x => { x with shadow := n }))
    | .checkCopy c r =>
      some <|
        match (s.team c r).bind fun t => s.copyOf t.launch t.num with
        | some x =>
          s.replaceCopy (((s.worldOf x).modTeam c r fun t =>
            { t with det := t.det.map fun d => { d with digest := ~~~d.digest } }).imageOf x.launch x.num (s.home c r) r)
        | none => s

/-- HOME_RESTART_PERIOD_END (17 R364). -/
def execHomeRestartPeriodEnd (stack : Nat) (s : State) : Host.Outcome State Fault Refusal :=
  event s <|
    match (s.agent stack).discardUntil with
    | some t => if t ≤ s.clock then some (s.modAgent stack fun h => { h with discardUntil := none }) else none
    | none => none

/-! ### In-field tests (17 R367, R368) -/

/-- Whether a core hosts a team, or waits for one. -/
def State.coreEmpty (s : State) (n : Nat) : Bool :=
  (s.team n 0).isNone && (s.team n 1).isNone && (s.core n).restore == []

/-- The pseudo-channels that the fibres of a team drive. -/
def Saved.bankChannels (x : Saved) : List Nat := x.residencies.flatMap fun r => r.slots.filterMap fun p => p.2.spec.bankCh

/-- The teams that stepped aside on a core are saved for a test, each as a save holds it (10 R256, 11 R297, 15 R318). -/
def State.saveTurns (s : State) (n : Nat) : State :=
  (s.core n).turns.foldl (fun s x =>
    let s1 := x.bankChannels.foldl State.saveRows s
    { s1 with control := { s1.control with underTest := s1.control.underTest ++ [(n / 2, x.asSave)] } })
    (s.modCore n fun c => { c with turns := [] })

/-- INFIELD_TEST_START (17 R367): once no `NOPRE` section is open on the pair, its teams are saved; once they are, and those that
have stepped aside stand between quanta (18 R374), the test runs. -/
def execInfieldTestStart (pair : Nat) (s : State) : Host.Outcome State Fault Refusal :=
  event s <|
    let cores := [2 * pair, 2 * pair + 1]
    let c := s.core (2 * pair)
    if Config.cores ≤ 2 * pair ∨ !c.health.busy ∨ c.health.testing ∨ cores.any s.coreNopre then none
    else if cores.all fun n => s.coreEmpty n && (s.core n).turns.all Saved.betweenQuanta then
      let s1 := cores.foldl State.saveTurns s
      some (s1.modPair (2 * pair) fun c => { c with health := { c.health with testing := true } })
    else some (cores.foldl (fun s n => [0, 1].foldl (fun s r => s.askSave n r .test) s) s)

/-- The cores of a cluster (01 R9). -/
def clusterCores (n : Nat) : List Nat := (List.range 8).map (n / 8 * 8 + ·)

/-- A team that uses the matrix engine. -/
def Saved.usesMatrix (x : Saved) : Bool := x.team.hdr.flags.getLsbD 1

/-- The teams of a core that use the matrix engine leave it, its engine being fenced: those that it hosts and those that have
stepped aside there are to be saved, those that the control die would restore there are placed again (10 R270, 17 R367). -/
def State.leaveCore (s : State) (n : Nat) : State :=
  let back := (s.core n).restore.filter fun q => q.2.saved.usesMatrix && q.2.base.isNone
  let mark (x : Saved) : Saved :=
    if x.usesMatrix && x.team.save.isNone then { x with team := { x.team with save := some .replace } } else x
  let s1 := s.modCore n fun c => { c with
    turns := c.turns.map mark, restore := c.restore.filter fun q => !(q.2.saved.usesMatrix && q.2.base.isNone) }
  back.foldl (fun s q => s.requeue q.2.saved true) ([0, 1].foldl (fun s r => s.leaveFenced n r) s1)

/-- Teams that use the matrix engine leave a fenced cluster (17 R367). -/
def State.moveMatrixTeams (s : State) (n : Nat) : State := (clusterCores n).foldl State.leaveCore s

/-- Set the result of a test on both cores. -/
def State.testResult (s : State) (pair result : Nat) (f : Health → Health) : State :=
  s.modPair (2 * pair) fun c => { c with health := { f c.health with busy := false, testing := false, result := result } }

/-- The device of a die. -/
def State.dieDevice (s : State) (die : Nat) : Nat :=
  if s.control.mode = 8 then die else if s.control.mode = 2 then die / 4 else 0

/-- The teams that were saved for a test of a pair enter placement again, at the head of their lists: the first that was saved
comes first (17 R367). -/
def State.endTest (s : State) (pair : Nat) : State :=
  let xs := s.control.underTest.filter fun x => x.1 == pair
  xs.foldr (fun x s => s.requeue x.2 true)
    { s with control := { s.control with underTest := s.control.underTest.filter fun x => x.1 != pair } }

/-- INFIELD_TEST_COMPLETE (17 R367): the result takes effect, and the teams that were saved for the test are placed again. -/
def execInfieldTestComplete (pair : Nat) (result : TestResult) (s0 : State) : Host.Outcome State Fault Refusal :=
  event s0 <|
    let n := 2 * pair
    if Config.cores ≤ n ∨ !(s0.core n).health.testing then none
    else
      let s := s0.endTest pair
      match result with
      | .pass =>
        let s1 := s.testResult pair 1 fun h => { h with suspect := false, offline := false, untested := false }
        some (s1.reserveCores (s.dieDevice (n / 80)) [n, n + 1])
      | .mfail =>
        let s1 := s.testResult pair 2 id
        let s2 := (clusterCores n).foldl (fun s c => s.modCore c fun x => { x with health := { x.health with mfence := true } }) s1
        some (((s2.post .matrixFenced controlSource noContext [n / 8]).moveMatrixTeams n).reserveCores
          (s.dieDevice (n / 80)) [n, n + 1])
      | .fail =>
        some ((s.testResult pair 3 fun h => { h with offline := true }).post .pairOffline controlSource noContext [pair])

end Sys2Proof.Machine
end

