-- ==== Sys2Proof/Machine/Manage.lean ====
section
/-! DEFINITION. The management commands of the host (19 R393), the checks of firmware images (20 R402), and a module
reset (20 R400). -/

namespace Sys2Proof.Machine

open Sys2Proof

/-! ### Running a command -/

/-- Whether a function may run a command now: STAGE is 4 and its features are negotiated, but for RESYNC, and for a
firmware download of the physical function in recovery or before GO (19 R392; 20 R401). -/
def State.mayRun (s : State) (p : PendingCmd) : Bool :=
  let b := s.control.boot
  let ready := decide (b.stage = 4) && (p.fn == 17 || (s.fn p.fn).goed)
  match p.cmd with
  | .resync _ => true
  | .firmwareDownload _ _ _ => ready || (p.fn == 0 && (b.recov || decide (b.stage = 4)))
  | _ => ready

/-- Take the oldest pending command of a kind, and run it: a command that may not run, or that `run` refuses, is answered
with status 1; a command of another kind waits. -/
def State.runCommand (s : State) (run : State → PendingCmd → Option (Option State)) : Option State :=
  let answer (p : PendingCmd) (r : Option State) : State :=
    let s1 : State := { s with control := { s.control with cmd := s.control.cmd.filter (· != p) } }
    match if s.mayRun p then r else none with
    | some t => { t with control := { t.control with cmd := t.control.cmd.filter (· != p) } }
    | none => s1.respond p.fn p.resp 1 0
  s.control.cmd.findSome? fun p => (run s p).map fun r => answer p r

/-- Answer a command that is done. -/
def State.done (s : State) (p : PendingCmd) : State := s.respond p.fn p.resp 0 0

/-- Whether a function may act on a context: its own, or any for firmware. -/
def State.ownsContext (s : State) (fn ctx : Nat) : Bool :=
  match s.context ctx with
  | some c => fn == 17 || c.fn == fn
  | none => false

/-! ### Contexts (15 R313, R314) -/

/-- The queues of each device in a presentation mode (01 R14). -/
def queuesPerDevice (mode : Nat) : Nat := if mode = 1 then 64 else if mode = 2 then 32 else 8

/-- The lowest check slot that no context has (18 R379). -/
def State.freeCheckSlot (s : State) : Nat :=
  ((List.range 256).find? fun k => !(s.control.contexts.any fun c => c.2.checkSlot == k)).getD 0

/-- Whether a context may be created: a new identifier, room, a mode that the module has or may still take, a device of
it, privilege for firmware alone, its own function or, of firmware, any, and a root table in KIND 0 of a die that exists. -/
def State.mayCreate (s : State) (fn : Nat) (c : ContextCmd) : Bool :=
  let k := s.control
  decide (c.ctx < 65536) && (s.context c.ctx).isNone && decide (k.contexts.length < 256)
    && [1, 2, 8].contains c.mode && (k.contexts == [] || c.mode == k.mode) && decide (c.device < c.mode)
    && (!c.privileged || fn == 17) && decide (c.fn ≤ 16) && (fn == 17 || c.fn == fn)
    && kindOf c.root == 0 && decide (c.root < 2 ^ 52) && paExists c.root && decide (dieOf c.root < 8) && c.root % 2 ^ 20 == 0

/-- CREATE_CONTEXT (15 R313, R314). -/
def execCreateContext (s : State) : Host.Outcome State Fault Refusal :=
  event s <| s.runCommand fun s p =>
    match p.cmd with
    | .createContext c =>
      some (if s.mayCreate p.fn c then
        let x : Context :=
          { fn := c.fn, mode := c.mode, device := c.device, privileged := c.privileged, root := c.root
            presence := deviceDies c.mode c.device, checkSlot := s.freeCheckSlot, lseq := 0 }
        some (({ s with control := { s.control with
          contexts := kset s.control.contexts c.ctx x, mode := c.mode } } : State).done p)
      else none)
    | _ => none

/-- Whether launches or graph instances of a context are in flight. -/
def State.contextBusy (s : State) (ctx : Nat) : Bool :=
  s.control.launches.any (·.2.ctx == ctx) || s.control.instances.any (·.2.ctx == ctx)

/-- A context is destroyed: its queues lose their assignment (16 R326), and what the control die and the caches
hold for it goes. -/
def State.destroy (s : State) (ctx : Nat) : State :=
  let k := s.control
  { s with
    cores := s.cores.map fun p => (p.1, { p.2 with tlb := p.2.tlb.filter fun l => l.ctx != ctx })
    control := { k with
      contexts := kerase k.contexts ctx
      queues := k.queues.map fun q => if q.2.owner.any (·.2 == ctx) then (q.1, Queue.reset) else q
      deviceQueues := kerase k.deviceQueues ctx
      graphs := k.graphs.filter fun g => g.ctx != ctx
      demands := k.demands.filter fun d => d.ctx != ctx
      faults := k.faults.filter fun f => f.2.ctx != ctx } }

/-- DESTROY_CONTEXT (15 R313): refused while work of the context is in flight (log 30). -/
def execDestroyContext (s : State) : Host.Outcome State Fault Refusal :=
  event s <| s.runCommand fun s p =>
    match p.cmd with
    | .destroyContext ctx =>
      some (if s.ownsContext p.fn ctx && !s.contextBusy ctx then some ((s.destroy ctx).done p) else none)
    | _ => none

/-! ### Mappings (17 R344, R345, R353; 15 R314; 19 R388) -/

/-- Whether a leaf may be written for a context: the fields are legal, its frames have not been mapped under the other
decoding (05 R103; log 101), and it maps a die of its device, or a remote peer; a privileged context may also map KIND 3 and
die 8 (15 R314). -/
def State.leafAllowed (s : State) (c : Context) (level : Nat) (e : BitVec 64) : Bool :=
  let pa := entryAddr e
  entryValid e && entryLeaf e && leafOk e (levelSize level)
    && if entryPeer e then s.featureOn c.fn 2
       else pa % levelSize level == 0 && !s.framesTaken pa (levelSize level) (entryCl e)
         && (c.privileged || kindOf pa != 3)
         && ((deviceDies c.mode c.device).contains (dieOf pa) || (c.privileged && dieOf pa == 8))

/-- Whether a new entry takes something from an old one: it is no leaf any more, maps elsewhere, or lacks a permission. -/
def losesRights (old new : BitVec 64) : Bool :=
  entryValid old && entryLeaf old &&
    ((old &&& ~~~(0x1C#64)) != (new &&& ~~~(0x1C#64)) || (old &&& ~~~new &&& 0x1C#64) != 0)

/-- Write a leaf: none where it may not be written, or stands on a table or under a leaf. -/
def State.mapLeaf (s : State) (p : PendingCmd) (ctx va level : Nat) (e : BitVec 64) : Option State :=
  match s.context ctx with
  | none => none
  | some c =>
    if s.ownsContext p.fn ctx && decide (1 ≤ level) && decide (level ≤ 3) && decide (va < 2 ^ 56)
        && va % levelSize level == 0 && s.leafAllowed c level e then
      match s.entryPlace ctx va level with
      | none => none
      | some (s1, at_) =>
        let old := BitVec.ofNat 64 (readNat s1.mem at_ 8)
        if entryValid old && !entryLeaf old then none
        else
          let s2 := (s1.writeEntry at_ e).takeFrames (entryAddr e) (if entryPeer e then 0 else levelSize level) (entryCl e)
          some (if losesRights old e then s2.startInvalidation ctx va (levelSize level) p.fn p.resp 3 else s2.done p)
    else none

/-- MAP (17 R345, R353). -/
def execMap (s : State) : Host.Outcome State Fault Refusal :=
  event s <| s.runCommand fun s p =>
    match p.cmd with
    | .map ctx va level entry => some (s.mapLeaf p ctx va level entry)
    | _ => none

/-- The level and the place of the leaf that maps an address. -/
def State.findLeaf (s : State) (ctx va : Nat) : Option (Nat × Nat) :=
  match s.context ctx with
  | none => none
  | some c =>
    let go := fun (acc : Nat × Option (Nat × Nat)) (level : Nat) =>
      let (lo, bits) := levelBits level
      let at_ := acc.1 + 8 * (va / 2 ^ lo % 2 ^ bits)
      let e := BitVec.ofNat 64 (readNat s.mem at_ 8)
      if acc.2.isSome || acc.1 == 2 ^ 60 then acc
      else if !entryValid e then (2 ^ 60, none)
      else if entryLeaf e then (acc.1, some (level, at_))
      else (entryAddr e, none)
    ([4, 3, 2, 1].foldl go (c.root, none)).2

/-- UNMAP (17 R353). -/
def execUnmap (s : State) : Host.Outcome State Fault Refusal :=
  event s <| s.runCommand fun s p =>
    match p.cmd with
    | .unmap ctx va =>
      some (if s.ownsContext p.fn ctx then
        (s.findLeaf ctx va).map fun x =>
          let size := levelSize x.1
          (s.writeEntry x.2 0).startInvalidation ctx (va / size * size) size p.fn p.resp 4
      else none)
    | _ => none

/-! ### On-demand ranges and faults (17 R351) -/

/-- Whether a registration's fields are legal, and its frames mappable (05 R103). -/
def State.demandOk (s : State) (fn ctx va pages : Nat) (perm : BitVec 8) (pool frames : Nat) : Bool :=
  s.ownsContext fn ctx && s.featureOn (((s.context ctx).map (·.fn)).getD 0) 4
    && va % 65536 == 0 && decide (va + 65536 * pages ≤ 2 ^ 56) && perm.extractLsb' 3 5 == 0
    && pool % 65536 == 0 && kindOf pool == 0 && decide (pool < 2 ^ 52) && (s.contextDies ctx).contains (dieOf pool)
    && (frames == 0 || decide (offOf pool + 65536 * frames ≤ 0x1800000000))
    && !saveRowFrame false pool (65536 * frames) && !s.framesTaken pool (65536 * frames) false

/-- REGISTER_ON_DEMAND_RANGE (17 R351): a new registration of the same range replaces its pool. -/
def execRegisterOnDemandRange (s : State) : Host.Outcome State Fault Refusal :=
  event s <| s.runCommand fun s p =>
    match p.cmd with
    | .demand ctx va pages perm pool frames =>
      some (if s.demandOk p.fn ctx va pages perm pool frames then
        let d : Demand := { ctx := ctx, va := va, pages := pages, perm := perm, pool := pool, frames := frames, taken := 0 }
        let others := s.control.demands.filter fun x => !(x.ctx == ctx && x.va == va && x.pages == pages)
        some ((({ s with control := { s.control with demands := others ++ [d] } } : State).takeFrames pool (65536 * frames)
          false).done p)
      else none)
    | _ => none

/-- The faults that the service holds for the page of an address and that wait for the host. -/
def State.faultsOn (s : State) (ctx va : Nat) : List (Nat × ServiceFault) :=
  s.control.faults.filter fun f => f.2.ctx == ctx && f.2.va == va / 65536 * 65536 && f.2.posted

/-- The service walks again: the fault is resolved, posted anew, or cannot be resolved (17 R350, R351). -/
def State.retryFault (s : State) (key : Nat) (f : ServiceFault) : State :=
  match s.walkFor f.ctx f.va f.cls with
  | .ok l => s.resolve key f l
  | .error k => if k.resolvable then s.postFault key { f with kind := k } false else s.abortFault key f

/-- FAULT_RETRY (17 R351). -/
def execFaultRetry (s : State) : Host.Outcome State Fault Refusal :=
  event s <| s.runCommand fun s p =>
    match p.cmd with
    | .faultRetry ctx va =>
      some (if s.ownsContext p.fn ctx && !(s.faultsOn ctx va).isEmpty then
        some (((s.faultsOn ctx va).foldl (fun s x => s.retryFault x.1 x.2) s).done p)
      else none)
    | _ => none

/-- FAULT_ABORT (17 R351). -/
def execFaultAbort (s : State) : Host.Outcome State Fault Refusal :=
  event s <| s.runCommand fun s p =>
    match p.cmd with
    | .faultAbort ctx va =>
      some (if s.ownsContext p.fn ctx && !(s.faultsOn ctx va).isEmpty then
        some (((s.faultsOn ctx va).foldl (fun s x => s.abortFault x.1 x.2) s).done p)
      else none)
    | _ => none

/-! ### Graphs (16 R332, R333) -/

/-- The nodes of an image. -/
def imageNodes (image : List Byte) : List (List Byte) :=
  (List.range (image.length / 256)).map fun n => sliceBytes image (256 * n) 256

/-- Whether a node is legal: its header, its predecessors below it, and zeros elsewhere. -/
def State.nodeOk (s : State) (ctx n : Nat) (node : List Byte) : Bool :=
  match Header.ofBytes (node.take 64 ++ List.replicate 192 0) with
  | some h =>
    (s.deviceCores (s.deviceOf ctx)).any (s.servesTeam ctx h) && (nodePreds node).all (fun p => decide (p < n)) && zeroFrom node 72 256
  | none => false

/-- Whether an image is legal (16 R332). -/
def State.imageOk (s : State) (ctx : Nat) (image : List Byte) : Bool :=
  image.length % 256 == 0 && decide (1 ≤ image.length / 256) && decide (image.length / 256 ≤ 256)
    && ((imageNodes image).zipIdx).all fun x => s.nodeOk ctx x.2 x.1

/-- CREATE_GRAPH (16 R332, R333). -/
def execCreateGraph (s : State) : Host.Outcome State Fault Refusal :=
  event s <| s.runCommand fun s p =>
    match p.cmd with
    | .createGraph ctx id image =>
      some (if s.ownsContext p.fn ctx && (s.graph ctx id).isNone && s.imageOk ctx image then
        let g : Graph := { ctx := ctx, id := id, versions := [(1, imageNodes image)], latest := 1 }
        some (({ s with control := { s.control with graphs := s.control.graphs ++ [g] } } : State).done p)
      else none)
    | _ => none

/-- EDIT_GRAPH (16 R333): a new latest version; older ones stay while an instance runs them. -/
def execEditGraph (s : State) : Host.Outcome State Fault Refusal :=
  event s <| s.runCommand fun s p =>
    match p.cmd with
    | .editGraph ctx id image =>
      some (if s.ownsContext p.fn ctx && (s.graph ctx id).isSome && s.imageOk ctx image then
        let s1 : State :=
          { s with control := { s.control with
              graphs := s.control.graphs.map fun g =>
                if g.ctx = ctx ∧ g.id = id then
                  { g with versions := kset g.versions (g.latest + 1) (imageNodes image), latest := g.latest + 1 }
                else g } }
        some ((s1.freeVersions ctx id).done p)
      else none)
    | _ => none

/-! ### Peers and queues (16 R326; 19 R389) -/

/-- WRITE_PEER_ENTRY (19 R389): the entry goes to its row of the table in stack memory, and the cached one goes. -/
def execWritePeerEntry (s : State) : Host.Outcome State Fault Refusal :=
  event s <| s.runCommand fun s p =>
    match p.cmd with
    | .writePeer pidx bytes =>
      some (if (readPeer bytes).isSome ∧ pidx < 2 ^ 20 ∧ s.featureOn p.fn 2 then
          let s1 := s.store (peerRow pidx) bytes
          some (({ s1 with fabric := { s1.fabric with
            peerRows := if s1.fabric.peerRows.contains pidx then s1.fabric.peerRows else s1.fabric.peerRows ++ [pidx]
            peerCache := s1.fabric.peerCache.filter (· != pidx) } } : State).done p)
        else none)
    | _ => none

/-- ASSIGN_QUEUE (16 R326): the physical function assigns a queue to a context of the named function and of the
queue's device; the queue starts afresh. -/
def execAssignQueue (s : State) : Host.Outcome State Fault Refusal :=
  event s <| s.runCommand fun s p =>
    match p.cmd with
    | .assignQueue q owner ctx =>
      some (match s.context ctx with
        | some c =>
          if (p.fn = 0 ∨ p.fn = 17) ∧ q < 64 ∧ owner ≤ 16 ∧ c.fn = owner ∧ c.device = q / queuesPerDevice c.mode then
            some ((s.setQueue q { Queue.reset with owner := some (owner, ctx) }).done p)
          else none
        | none => none)
    | _ => none

/-! ### RESYNC (19 R398) -/

/-- The units that are offline: a pair as 2000 + its number, a stack as 3000 +, a die as 4000 +. -/
def State.offlineUnits (s : State) : List Nat :=
  ((List.range 320).filter fun p => (s.core (2 * p)).health.offline).map (2000 + ·)
    ++ s.control.boot.offlineStacks.map (3000 + ·) ++ s.control.boot.offlineDies.map (4000 + ·)

/-- The units that are fenced, a cluster as 1000 + its number, or offline. -/
def State.outUnits (s : State) : List Nat :=
  ((List.range 80).filter fun c => (s.core (8 * c)).health.mfence).map (1000 + ·) ++ s.offlineUnits

/-- The number of a reset's cause in a summary (log 104). -/
def resetCode : ResetCause → Nat
  | .powerOn => 0
  | .fundamental => 1
  | .thermal => 2

/-- The items of the six sections of a summary, in their order (19 R398). -/
def Resync.sections (r : Resync) : List (List (List Nat)) :=
  [r.contexts.map fun c => [c],
   r.queues.map fun q => [q.1, q.2.1.toNat, q.2.2.toNat],
   (r.launches.map fun k => [0, k]) ++ r.instances.map fun k => [1, k],
   r.regions.map fun x => [x.1, x.2.1, bitNat x.2.2],
   r.units.map fun u => [u],
   r.faults.map fun f => [f.1, f.2]]

/-- A summary as it is written: a header of 64 bytes, and a record of 32 bytes for each item (19 R398; log 104). -/
def Resync.bytes (r : Resync) : List Byte :=
  bytesOfNat 64 (Config.resyncHeader (r.sections.map List.length ++ [resetCode r.reset]) r.seqs).toNat
    ++ (r.sections.zipIdx).flatMap fun x => x.1.flatMap fun item => bytesOfNat 32 (Config.resyncRecord x.2 item).toNat

/-- The summary of one instant. -/
def State.summary (s : State) (fn buffer : Nat) : Resync :=
  let k := s.control
  { fn := fn, buffer := buffer, seqs := k.seqs, contexts := k.contexts.map (·.1)
    queues := k.queues.map fun q => (q.1, q.2.arvcnt, q.2.consumed)
    launches := k.launches.map (·.1), instances := k.instances.map (·.1)
    regions := s.homes.flatMap fun h => h.2.regions.map fun r => (h.1, r.base, r.state != .opened)
    units := s.outUnits, faults := k.faults.map fun f => (f.2.ctx, f.2.va), reset := k.boot.lastReset }

/-- RESYNC (19 R398): the summary goes to the host's buffer, then the response. -/
def execResync (s : State) : Host.Outcome State Fault Refusal :=
  event s <| s.runCommand fun s p =>
    match p.cmd with
    | .resync buffer =>
      let r := s.summary p.fn buffer
      some (some (({ s with
        hostMem := writeAll s.hostMem (span buffer r.bytes.length) r.bytes
        control := { s.control with resyncs := s.control.resyncs ++ [r] } } : State).done p))
    | _ => none

/-! ### Cancelling a launch (19 R394) -/

/-- The waiting teams of a launch leave their lists, those among them that a test keeps from entering one; the reservations of a list
whose head goes end. -/
def State.dropWaiting (s : State) (launch : Nat) : State :=
  let gone := (s.control.lists.map fun l => ((l.2.filter fun w => w.launch == launch).map fun w => w.count).sum).sum
    + (s.control.underTest.filter fun x => x.2.team.launch == launch).length
  let heads := (s.control.lists.filter fun l => (l.2.head?.map fun w => w.launch == launch).getD false).map (·.1)
  { s with control := { s.control with
      lists := s.control.lists.map fun l => (l.1, l.2.filter fun w => w.launch != launch)
      underTest := s.control.underTest.filter fun x => x.2.team.launch != launch
      reservations := s.control.reservations.filter fun r => !heads.contains r.list
      launches := kmod s.control.launches launch fun l => { l with left := l.left - gone, cancelled := true } } }

/-- A fibre that is off its core is killed (17 R356). -/
def Fibre.kill (f : Fibre) (cause : Nat) : Fibre :=
  { f with
    status := .frozen, wait := none, p0 := { f.p0 with atLatch := false }, p1 := { f.p1 with atLatch := false }
    sched := { f.sched with nopre := none, softPending := false, fills := [], killed := some cause } }

/-- Every fibre of a residency that is not FROZEN yet. -/
def Residency.kill (x : Residency) (cause : Nat) : Residency :=
  { x with
    latches := [], faults := []
    slots := x.slots.map fun p => (p.1, if p.2.status = .frozen then p.2 else p.2.kill cause) }

/-- A barrier of a team whose fibres are killed (02 R43). -/
def Barrier.abandon (b : Barrier) : Barrier :=
  if b.state = .armed ∨ b.state = .consumed then { b with state := .abandoned, pend := [] } else b

/-- Every fibre of a team that is off its cores becomes FROZEN. -/
def Saved.kill (x : Saved) (cause : Nat) : Saved :=
  let died := x.residencies.flatMap fun y => (y.slots.filter fun p => p.2.status != .frozen).map fun p => p.2.num
  let rec_ (f : Nat) : CheckRec := { fibre := f, va := 0, code := 0, lane := 0, size := 0, data := bytesOfNat 4 cause }
  { x with
    even := x.even.kill cause, odd := x.odd.map (·.kill cause)
    team := { x.team with
      barriers := x.team.barriers.map fun b => (b.1, b.2.abandon)
      det := x.team.det.map fun d => if d.sampled then { d with check := d.check ++ died.map rec_ } else d } }

/-- The events of the fibres of a team off its cores that are killed, at the core that it stands for. -/
def State.postKills (s : State) (n cause : Nat) (x : Saved) : State :=
  (x.residencies.zipIdx).foldl (fun s y => y.1.slots.foldl (fun s p =>
    if p.2.status = .frozen then s
    else s.post .fibreFrozen (n + y.2) x.team.ctx [n + y.2, p.1, x.team.hdr.res, cause, 0xFF, 0xFF, p.2.lastPc.toNat]) s) s

/-- The teams of a launch that are on no core are killed with cause 8: those that have stepped aside, those about to be
restored, and those in a save area, whose image follows (15 R320). -/
def State.killAway (s : State) (launch : Nat) : State :=
  let hit (x : Saved) : Bool := x.team.launch == launch
  let kill (x : Saved) : Saved := if hit x then x.kill 8 else x
  let s1 := s.cores.foldl (fun s p =>
    let away := p.2.turns ++ (p.2.restore.filter fun q => q.2.base.isNone).map fun q => q.2.saved
    let s' := (away.filter hit).foldl (fun s x => s.postKills p.1 8 x) s
    s'.modCore p.1 fun c => { c with
      turns := c.turns.map kill, restore := c.restore.map fun q => (q.1, { q.2 with saved := kill q.2.saved }) }) s
  s1.control.areas.foldl (fun s p =>
    if hit p.2 then
      let x := if s.areaIs p.1 p.2 then p.2.overlay (s.areaBytes p.1) else p.2
      let byte := readNat s.mem (p.1 + 10) 1
      let s' := s.postKills 0 8 x
      let s'' := if s.areaIs p.1 p.2 then s'.writeArea p.1 (x.kill 8) (decide (2 ≤ byte)) (byte % 2) else s'
      { s'' with control := { s''.control with areas := kset s''.control.areas p.1 (x.kill 8) } }
    else s) s1

/-- Every fibre of the launch's placed teams is killed with cause 8. -/
def State.killLaunch (s : State) (launch : Nat) : State :=
  (s.killAway launch).cores.foldl (fun s p => [0, 1].foldl (fun s r =>
    match (s.res p.1 r).team with
    | some t =>
      if t.launch = launch then
        (s.teamFibres p.1 r).foldl (fun s x => s.freezeAt x.1 r x.2.1 8 0xFF 0xFF x.2.2.lastPc) s
      else s
    | none => s) s) (s.killAway launch)

/-- One launch is cancelled. -/
def State.cancelOne (s : State) (mode launch : Nat) : State :=
  let s1 := s.dropWaiting launch
  let s2 := if mode = 1 then s1.killLaunch launch else s1
  s2.launchDone launch

/-- CANCEL_LAUNCH (19 R394). -/
def execCancelLaunch (s : State) : Host.Outcome State Fault Refusal :=
  event s <| s.runCommand fun s p =>
    match p.cmd with
    | .cancelLaunch queue slot mode =>
      some (
        let mine (ctx : Nat) : Bool := p.fn == 0 || s.ownsContext p.fn ctx
        let inst := s.control.instances.find? fun i => i.2.queue == queue && i.2.slot == slot && mine i.2.ctx
        let launches := s.control.launches.filter fun l => l.2.queue == queue && l.2.slot == slot && mine l.2.ctx
        if mode > 1 ∨ (inst.isNone ∧ launches = []) then none
        else
          let s1 := match inst with
            | some i => s.setInstance i.1 { i.2 with cancelled := true }
            | none => s
          let s2 := launches.foldl (fun s l => s.cancelOne mode l.1) s1
          let s3 := match inst with
            | some i => s2.endInstance i.1
            | none => s2
          some (s3.done p))
    | _ => none

/-! ### A module reset (20 R400) -/

/-- Everything is cleared but the fuses, and what is not the module's: the firmware slots' contents, the host's memory, and
what comes next. -/
def State.moduleReset (s : State) (cause : ResetCause) : State :=
  { State.resetWith s.control.boot.minimum s.control.boot.images cause with
    hostMem := s.hostMem, agenda := s.agenda, free := s.free }

/-- MODULE_RESET (20 R400). -/
def execModuleReset (cause : ResetCause) (s : State) : Host.Outcome State Fault Refusal :=
  event s (some (s.moduleReset cause))

/-! ### Firmware images (19 R395, 20 R402) -/

/-- Why an image is not accepted: 1 its signature, 2 its digest, 3 its SVN, 4 its length, its magic or a header byte that is
not zero (19 R395); LENGTH is that of the body (log 31); r and s are little-endian (00 R5). -/
def imageFault (minimum : BitVec 16) (bs : List Byte) : Option Nat :=
  let g := leAt bs
  let key := Config.publicKey
  let keyBytes := beBytes 32 key.1.toNat ++ beBytes 32 key.2.toNat
  if bs.length < 256 ∨ g 0 4 ≠ 0x57534E44 ∨ bs.length ≠ 256 + g 8 4
      ∨ !(zeroFrom bs 6 8 && zeroFrom bs 12 16 && zeroFrom bs 48 64 && zeroFrom bs 128 256) then some 4
  else if !(sha256 keyBytes == Config.keyDigest
      && ecdsaOk key.1.toNat key.2.toNat (sha256 (bs.take 48)).toNat (leNat (sliceBytes bs 64 32)) (leNat (sliceBytes bs 96 32))) then
    some 1
  else if beBytes 32 (sha256 (bs.drop 256)).toNat ≠ sliceBytes bs 16 32 then some 2
  else if g 4 2 < minimum.toNat then some 3
  else none

/-- SVN of an image. -/
def imageSvn (bs : List Byte) : BitVec 16 := BitVec.ofNat 16 (leAt bs 4 2)

/-- FIRMWARE_DOWNLOAD (19 R395): physical function only; in recovery a module reset follows. -/
def execFirmwareDownload (s : State) : Host.Outcome State Fault Refusal :=
  event s <| s.runCommand fun s p =>
    match p.cmd with
    | .firmwareDownload address length slot =>
      some (if p.fn ≠ 0 ∨ slot > 1 then none
        else if length > 2 ^ 26 then some (s.respond p.fn p.resp 1 4)
        else
          let bs := readAll s.hostMem (span address length)
          match imageFault s.control.boot.minimum bs with
          | some cause => some (s.respond p.fn p.resp 1 cause)
          | none =>
            let s1 : State :=
              { s with control := { s.control with
                  boot := { s.control.boot with images := kset s.control.boot.images slot bs } } }
            let s2 := s1.done p
            some (if s.control.boot.recov then s2.moduleReset .fundamental else s2))
    | _ => none

end Sys2Proof.Machine
end

