-- ==== Sys2Proof/Machine/Boot.lean ====
section
/-! DEFINITION. Resets of one die, bring-up, attestation and power (01 R20; 20 R400 to R404). -/

namespace Sys2Proof.Machine

open Sys2Proof

/-! ### A compute die (01 R20, 20 R400) -/

/-- A team that a die was running is lost; the control die places it again, from its launch header, at the head of its list. -/
def State.restartTeam (s : State) (t : Team) : State :=
  let s1 := s.freeChannels t
  let s2 : State :=
    { s1 with control := { s1.control with
        faults := s1.control.faults.map fun f =>
          (f.1, { f.2 with fibres := f.2.fibres.filter fun x => !(x.1 == t.launch && x.2.1 == t.num) })
        aborts := s1.control.aborts.filter fun x => !(x.1 == t.launch && x.2.1 == t.num) } }
  s2.enqueue (listKey (s.deviceOf t.ctx) t.hdr)
    { launch := t.launch, num := t.num, count := 1, since := s.clock, saved := none, aged := false } true

/-- The teams of a core re-enter placement: from their headers those that it runs, and those that take turns there; as they
were saved those about to be restored there, and those that wait for a test of its pair to end. -/
def State.releaseTeams (s : State) (n : Nat) : State :=
  let s1 := (s.core n).teams.foldl State.restartTeam s
  let s2 := (s.core n).restore.foldl (fun s x => if x.2.base.isNone then s.requeue x.2.saved true else s) s1
  (if n % 2 = 0 then s2.endTest (n / 2) else s2).modCore n fun c => { c with turns := [] }

/-- A core in reset: when its last far packet left is kept, and it may not send one yet (05 R107). -/
def Core.restarted (c : Core) (now : Nat) : Core :=
  { Core.reset now with held := true, lastFar := c.lastFar, farReady := false }

/-- What the cores of a die had under way is lost: packets they were sending, legs of their `FETCH`es, commands at
pseudo-channels and at the die's base-die engines, and what ended monitors. -/
def State.dropDie (s : State) (die : Nat) : State :=
  let mine (n : Nat) : Bool := n / 80 == die
  let s1 := (s.forgetMets (dieCores die)).forgetSent fun t => decide (tagAgent t < 640) && mine (tagAgent t)
  { s1 with
    channels := s1.channels.map fun p => (p.1, { p.2 with queue := p.2.queue.filter fun c => !mine c.core })
    homes := s1.homes.map fun p =>
      if p.1 / 2 = die then (p.1, { p.2 with queue := [], running := none, sums := [], summing := none }) else p
    fabric := { s1.fabric with legs := s1.fabric.legs.filter fun l => !mine l.2.core } }

/-- The scratchpads of a die are cleared, its stacks are not. -/
def State.clearScratch (s : State) (die : Nat) : State :=
  let mine (a : Nat) : Bool := dieOf a == die && kindOf a == 1
  { s with mem := s.mem.filter fun c => !mine c.1, poison := s.poison.filter fun a => !mine (32 * a) }

/-- COMPUTE_DIE_RESET (01 R20, 20 R400): cores, fibres, tables and engines of the die are cleared and its cores held in
reset; the control die keeps contexts, queues and translations, and places the teams again. -/
def execComputeDieReset (die : Nat) (s : State) : Host.Outcome State Fault Refusal :=
  event s <|
    if die < Config.dies then
      let s1 := (dieCores die).foldl State.releaseTeams s
      let s2 := (s1.dropDie die).clearScratch die
      some ((dieCores die).foldl (fun s n => s.modCore n fun c => c.restarted s.clock) s2)
    else none

/-- A die's cores start, their cycle counters at 0 (08 R206). -/
def State.releaseDie (s : State) (die : Nat) : State :=
  (dieCores die).foldl (fun s n => s.modCore n fun c => { c with held := false, resetAt := s.clock }) s

/-- COMPUTE_DIE_RESET_RELEASE (01 R20): the die's cores start, and are free for teams (16 R338); a die that failed its
bring-up stage stays in reset (20 R401). -/
def execComputeDieResetRelease (die : Nat) (s : State) : Host.Outcome State Fault Refusal :=
  event s <|
    if die < Config.dies ∧ die ∉ s.control.boot.offlineDies ∧ 3 ≤ s.control.boot.stage ∧ (s.core (80 * die)).held then
      some ((s.releaseDie die).reserveCores (s.dieDevice die) (dieCores die))
    else none

/-! ### A base die (17 R364, 20 R400) -/

/-- BASE_DIE_RESET (20 R400): home agent, filter, engines and regions of the stack are cleared, its contents survive. -/
def execBaseDieReset (stack : Nat) (s : State) : Host.Outcome State Fault Refusal :=
  event s (if stack < 16 then some (s.restartHome stack true) else none)

/-- BASE_DIE_RESET_RELEASE (20 R400, 17 R364): the home agent is up, and discards far packets for its period. -/
def execBaseDieResetRelease (stack : Nat) (s : State) : Host.Outcome State Fault Refusal :=
  event s <|
    if (s.agent stack).down ∧ stack < 16 ∧ stack ∉ s.control.boot.offlineStacks ∧ 2 ≤ s.control.boot.stage then
      some (s.modAgent stack fun h => { h with down := false, discardUntil := some (s.clock + Config.closingCycles) })
    else none

/-! ### Bring-up (20 R401, R402) -/

/-- Change the boot state. -/
def State.setBoot (s : State) (b : Boot) : State := { s with control := { s.control with boot := b } }

/-- The image that the boot ROM accepts: of slot 0, else of slot 1. -/
def Boot.accept (b : Boot) : Option (Nat × List Byte) :=
  [0, 1].findSome? fun k =>
    (kget b.images k).bind fun bs => if (imageFault b.minimum bs).isNone then some (k, bs) else none

/-- The boot ROM tries the images; where none passes the module is in recovery. -/
def Boot.load (b : Boot) : Boot :=
  match b.accept with
  | some (k, bs) => { b with stage := 1, slot := k, svn := imageSvn bs, running := bs, recov := false }
  | none => { b with recov := true }

/-- BOOT_STAGE_ADVANCE (20 R401, R402): the next stage; STAGE 2 brings the base dies up and STAGE 3 releases the compute
dies, and those that fail stay in reset and offline; at STAGE 4 a higher SVN raises the fused minimum. -/
def execBootStageAdvance (failedStacks failedDies : List Nat) (s : State) : Host.Outcome State Fault Refusal :=
  event s <|
    let b := s.control.boot
    if b.recov then none
    else if b.stage = 0 then some (s.setBoot b.load)
    else if b.stage = 1 then
      let out := (List.range 16).filter fun k => failedStacks.contains k
      some ((List.range 16).foldl (fun s k => s.modAgent k fun h => { h with down := out.contains k })
        (s.setBoot { b with stage := 2, offlineStacks := out }))
    else if b.stage = 2 then
      let out := (List.range 8).filter fun k => failedDies.contains k
      some (((List.range 8).filter fun d => !out.contains d).foldl State.releaseDie
        (s.setBoot { b with stage := 3, offlineDies := out }))
    else if b.stage = 3 then
      some (s.setBoot { b with stage := 4, minimum := if b.minimum < b.svn then b.svn else b.minimum })
    else none

/-! ### Power (20 R404) -/

/-- POWER_SAMPLE (20 R404): the average of the last ten samples; the module throttles above PLIMIT or above 105 °C, and
trips at 115 °C. -/
def execPowerSample (watts hottest : Nat) (s : State) : Host.Outcome State Fault Refusal :=
  event s <|
    let p := s.control.power
    let xs := (watts :: p.samples).take 10
    let pnow := min 8191 (xs.sum / xs.length)
    if 115 ≤ hottest then some (s.moduleReset .thermal)
    else some { s with control := { s.control with
      power := { p with samples := xs, pnow := pnow, tmax := min 255 hottest, throt := decide (p.plimit < pnow ∨ 105 < hottest) } } }

/-- THERMAL_TRIP (20 R404): the module is reset. -/
def execThermalTrip (_die : Nat) (s : State) : Host.Outcome State Fault Refusal :=
  event s (some (s.moduleReset .thermal))

/-! ### Attestation (20 R403) -/

/-- Answer the request in the mailbox, if `run` takes it. -/
def State.spdm (s : State) (run : SpdmRequest → Option SpdmResponse) : Option State :=
  (s.control.spdm.request.bind run).map fun r =>
    { s with control := { s.control with spdm := { s.control.spdm with request := none, response := some r } } }

/-- The digest of the certificate chain. -/
def chainDigest : BitVec 256 := sha256 Config.certificateChain

/-- A measurement (20 R403): the digest of what it names (log 13). -/
def State.measurement (s : State) (i : Nat) : BitVec 256 :=
  let b := s.control.boot
  if i = 1 then sha256 Config.bootRom
  else if i = 2 then sha256 b.running
  else if i = 3 then sha256 (Config.versionPrefix ++ bytesOfNat 2 b.svn.toNat ++ bytesOfNat 2 b.minimum.toNat)
  else sha256 (Config.unitPrefix ++ bytesOfNat 1 s.control.mode ++ s.offlineUnits.flatMap (bytesOfNat 4))

/-- GET_VERSION (20 R403): SPDM 1.3. -/
def execGetVersion (s : State) : Host.Outcome State Fault Refusal :=
  event s <| s.spdm fun
    | .getVersion => some (.version 1 3)
    | _ => none

/-- GET_CAPABILITIES (20 R403): no key exchange, no sessions. -/
def execGetCapabilities (s : State) : Host.Outcome State Fault Refusal :=
  event s <| s.spdm fun
    | .getCapabilities => some (.capabilities false false)
    | _ => none

/-- NEGOTIATE_ALGORITHMS (20 R403): ECDSA P-256 and SHA-256 alone are selected. -/
def execNegotiateAlgorithms (s : State) : Host.Outcome State Fault Refusal :=
  event s <|
    match s.control.spdm.request with
    | some (.negotiateAlgorithms o) =>
      (s.spdm fun _ => some (.algorithms o.ecdsaP256 o.sha256)).map fun t =>
        { t with control := { t.control with spdm := { t.control.spdm with negotiated := o.ecdsaP256 && o.sha256 } } }
    | _ => none

/-- GET_DIGESTS (20 R403). -/
def execGetDigests (s : State) : Host.Outcome State Fault Refusal :=
  event s <| s.spdm fun
    | .getDigests => some (.digests chainDigest)
    | _ => none

/-- GET_CERTIFICATE (20 R403): slot 0 alone holds a chain. -/
def execGetCertificate (s : State) : Host.Outcome State Fault Refusal :=
  event s <| s.spdm fun
    | .getCertificate slot off len =>
      some (if slot = 0 then .certificate ((Config.certificateChain.drop off).take len) else .unsupportedRequest)
    | _ => none

/-- CHALLENGE (20 R403). -/
def execChallenge (s : State) : Host.Outcome State Fault Refusal :=
  event s <| s.spdm fun
    | .challenge slot nonce =>
      some (if slot = 0 then .challengeAuth chainDigest (identitySign (Config.transcript nonce chainDigest))
        else .unsupportedRequest)
    | _ => none

/-- GET_MEASUREMENTS (20 R403): one measurement, or all for index 255. -/
def execGetMeasurements (s : State) : Host.Outcome State Fault Refusal :=
  event s <| s.spdm fun
    | .getMeasurements i nonce =>
      let which := if i = 255 then [1, 2, 3, 4] else [i]
      if which.all fun k => decide (1 ≤ k) && decide (k ≤ 4) then
        let vals := which.map fun k => (k, s.measurement k)
        let digest := sha256 (vals.flatMap fun v => beBytes 32 v.2.toNat)
        some (.measurements vals (identitySign (Config.transcript nonce digest)))
      else some .unsupportedRequest
    | _ => none

/-- UNSUPPORTED_REQUEST (20 R403). -/
def execUnsupportedRequest (s : State) : Host.Outcome State Fault Refusal :=
  event s <| s.spdm fun
    | .other _ => some .unsupportedRequest
    | _ => none

end Sys2Proof.Machine
end

