-- ==== Sys2Proof/Machine/Dispatch.lean ====
section
/-! DEFINITION. One arm for each row of the opcode table. -/

namespace Sys2Proof.Machine

open Sys2Proof

/-- The effect of an instruction or event on the machine. -/
def exec (i : Instr) (s : State) : Host.Outcome State Fault Refusal :=
  match i with
  | .ill y x => Sys2Proof.Machine.execIll y x s
  | .iadd y d a b => Sys2Proof.Machine.execIadd y d a b s
  | .isub y d a b => Sys2Proof.Machine.execIsub y d a b s
  | .imul y d a b => Sys2Proof.Machine.execImul y d a b s
  | .imulh y d a b => Sys2Proof.Machine.execImulh y d a b s
  | .imad y d a b => Sys2Proof.Machine.execImad y d a b s
  | .imin y d a b => Sys2Proof.Machine.execImin y d a b s
  | .imax y d a b => Sys2Proof.Machine.execImax y d a b s
  | .and y d a b => Sys2Proof.Machine.execAnd y d a b s
  | .or y d a b => Sys2Proof.Machine.execOr y d a b s
  | .xor y d a b => Sys2Proof.Machine.execXor y d a b s
  | .andn y d a b => Sys2Proof.Machine.execAndn y d a b s
  | .shl y d a b => Sys2Proof.Machine.execShl y d a b s
  | .shr y d a b => Sys2Proof.Machine.execShr y d a b s
  | .bnkBmode y a => Sys2Proof.Machine.execBnkBmode y a s
  | .bnkBexit y => Sys2Proof.Machine.execBnkBexit y s
  | .bnkBld y k a => Sys2Proof.Machine.execBnkBld y k a s
  | .bnkBst y k a => Sys2Proof.Machine.execBnkBst y k a s
  | .bnkBbc y k a => Sys2Proof.Machine.execBnkBbc y k a s
  | .bnkBmac y v k a => Sys2Proof.Machine.execBnkBmac y v k a s
  | .bnkBrd y d => Sys2Proof.Machine.execBnkBrd y d s
  | .bnkBred y k o => Sys2Proof.Machine.execBnkBred y k o s
  | .bnkBsave y a => Sys2Proof.Machine.execBnkBsave y a s
  | .bnkBrst y a => Sys2Proof.Machine.execBnkBrst y a s
  | .iaddi y d a imm => Sys2Proof.Machine.execIaddi y d a imm s
  | .andi y d a imm => Sys2Proof.Machine.execAndi y d a imm s
  | .ori y d a imm => Sys2Proof.Machine.execOri y d a imm s
  | .xori y d a imm => Sys2Proof.Machine.execXori y d a imm s
  | .shli y d a n => Sys2Proof.Machine.execShli y d a n s
  | .shri y d a n => Sys2Proof.Machine.execShri y d a n s
  | .roti y d a n => Sys2Proof.Machine.execRoti y d a n s
  | .movw y d imm => Sys2Proof.Machine.execMovw y d imm s
  | .movhi y d imm => Sys2Proof.Machine.execMovhi y d imm s
  | .icmp y c p a b => Sys2Proof.Machine.execIcmp y c p a b s
  | .icmpi y c p a imm => Sys2Proof.Machine.execIcmpi y c p a imm s
  | .sel y d a b => Sys2Proof.Machine.execSel y d a b s
  | .not y d a => Sys2Proof.Machine.execNot y d a s
  | .neg y d a => Sys2Proof.Machine.execNeg y d a s
  | .abs y d a => Sys2Proof.Machine.execAbs y d a s
  | .clz y d a => Sys2Proof.Machine.execClz y d a s
  | .ctz y d a => Sys2Proof.Machine.execCtz y d a s
  | .popc y d a => Sys2Proof.Machine.execPopc y d a s
  | .brev y d a => Sys2Proof.Machine.execBrev y d a s
  | .bswap y d a => Sys2Proof.Machine.execBswap y d a s
  | .sextb y d a => Sys2Proof.Machine.execSextb y d a s
  | .sexth y d a => Sys2Proof.Machine.execSexth y d a s
  | .zextb y d a => Sys2Proof.Machine.execZextb y d a s
  | .zexth y d a => Sys2Proof.Machine.execZexth y d a s
  | .bfx y d a b => Sys2Proof.Machine.execBfx y d a b s
  | .bfi y d a b => Sys2Proof.Machine.execBfi y d a b s
  | .ballot y d a => Sys2Proof.Machine.execBallot y d a s
  | .anyl y d a => Sys2Proof.Machine.execAnyl y d a s
  | .alll y d a => Sys2Proof.Machine.execAlll y d a s
  | .popl y d a => Sys2Proof.Machine.execPopl y d a s
  | .firstl y d a => Sys2Proof.Machine.execFirstl y d a s
  | .readl y d a => Sys2Proof.Machine.execReadl y d a s
  | .psumi y d a => Sys2Proof.Machine.execPsumi y d a s
  | .rsumi y d a => Sys2Proof.Machine.execRsumi y d a s
  | .rmin y d a => Sys2Proof.Machine.execRmin y d a s
  | .rmax y d a => Sys2Proof.Machine.execRmax y d a s
  | .psumf y d a => Sys2Proof.Machine.execPsumf y d a s
  | .rsumf y d a => Sys2Proof.Machine.execRsumf y d a s
  | .shuf y d a b => Sys2Proof.Machine.execShuf y d a b s
  | .bflyx y d a j => Sys2Proof.Machine.execBflyx y d a j s
  | .engCpy y d a => Sys2Proof.Machine.execEngCpy y d a s
  | .engCpy2d y d a => Sys2Proof.Machine.execEngCpy2d y d a s
  | .engCpyg y d a => Sys2Proof.Machine.execEngCpyg y d a s
  | .engCpys y d a => Sys2Proof.Machine.execEngCpys y d a s
  | .engFill y d a => Sys2Proof.Machine.execEngFill y d a s
  | .engKvc y d a => Sys2Proof.Machine.execEngKvc y d a s
  | .engSelp y d a => Sys2Proof.Machine.execEngSelp y d a s
  | .engSelk y d a => Sys2Proof.Machine.execEngSelk y d a s
  | .engRdx y d a => Sys2Proof.Machine.execEngRdx y d a s
  | .engLreg y d a => Sys2Proof.Machine.execEngLreg y d a s
  | .engLrev y d a => Sys2Proof.Machine.execEngLrev y d a s
  | .fadd y d a b => Sys2Proof.Machine.execFadd y d a b s
  | .fsub y d a b => Sys2Proof.Machine.execFsub y d a b s
  | .fmul y d a b => Sys2Proof.Machine.execFmul y d a b s
  | .fma y d a b => Sys2Proof.Machine.execFma y d a b s
  | .fmin y d a b => Sys2Proof.Machine.execFmin y d a b s
  | .fmax y d a b => Sys2Proof.Machine.execFmax y d a b s
  | .fcmp y c p a b => Sys2Proof.Machine.execFcmp y c p a b s
  | .fneg y d a => Sys2Proof.Machine.execFneg y d a s
  | .fabs y d a => Sys2Proof.Machine.execFabs y d a s
  | .fsqrt y d a => Sys2Proof.Machine.execFsqrt y d a s
  | .frcp y d a => Sys2Proof.Machine.execFrcp y d a s
  | .frsq y d a => Sys2Proof.Machine.execFrsq y d a s
  | .fexp2 y d a => Sys2Proof.Machine.execFexp2 y d a s
  | .flog2 y d a => Sys2Proof.Machine.execFlog2 y d a s
  | .fsinp y d a => Sys2Proof.Machine.execFsinp y d a s
  | .fcosp y d a => Sys2Proof.Machine.execFcosp y d a s
  | .ffloor y d a => Sys2Proof.Machine.execFfloor y d a s
  | .fceil y d a => Sys2Proof.Machine.execFceil y d a s
  | .ftrunc y d a => Sys2Proof.Machine.execFtrunc y d a s
  | .frint y d a => Sys2Proof.Machine.execFrint y d a s
  | .fclass y d a => Sys2Proof.Machine.execFclass y d a s
  | .cvt y d a t r z => Sys2Proof.Machine.execCvt y d a t r z s
  | .cvtW y d a r => Sys2Proof.Machine.execCvtW y d a r s
  | .fdiv y d a b => Sys2Proof.Machine.execFdiv y d a b s
  | .mov y d a => Sys2Proof.Machine.execMov y d a s
  | .getm y d => Sys2Proof.Machine.execGetm y d s
  | .getf y d => Sys2Proof.Machine.execGetf y d s
  | .getx y d => Sys2Proof.Machine.execGetx y d s
  | .getg y d => Sys2Proof.Machine.execGetg y d s
  | .getl y d => Sys2Proof.Machine.execGetl y d s
  | .setl y a => Sys2Proof.Machine.execSetl y a s
  | .setmode y a => Sys2Proof.Machine.execSetmode y a s
  | .setfmt y a => Sys2Proof.Machine.execSetfmt y a s
  | .setexec y a => Sys2Proof.Machine.execSetexec y a s
  | .setgang y a => Sys2Proof.Machine.execSetgang y a s
  | .qrnd y d a b => Sys2Proof.Machine.execQrnd y d a b s
  | .tanc y d a => Sys2Proof.Machine.execTanc y d a s
  | .tdep y d a => Sys2Proof.Machine.execTdep y d a s
  | .tpath y d a => Sys2Proof.Machine.execTpath y d a s
  | .mma y t a b => Sys2Proof.Machine.execMma y t a b s
  | .tzero y t => Sys2Proof.Machine.execTzero y t s
  | .tld y t a => Sys2Proof.Machine.execTld y t a s
  | .tst y t a => Sys2Proof.Machine.execTst y t a s
  | .trd y d a => Sys2Proof.Machine.execTrd y d a s
  | .twr y d a => Sys2Proof.Machine.execTwr y d a s
  | .metaSlot y a => Sys2Proof.Machine.execMetaSlot y a s
  | .scale y a => Sys2Proof.Machine.execScale y a s
  | .tcvt y d a => Sys2Proof.Machine.execTcvt y d a s
  | .trowmax y d a => Sys2Proof.Machine.execTrowmax y d a s
  | .ld y d a z o => Sys2Proof.Machine.execLd y d a z o s
  | .st y d a z o => Sys2Proof.Machine.execSt y d a z o s
  | .ldx y d a b => Sys2Proof.Machine.execLdx y d a b s
  | .stx y d a b => Sys2Proof.Machine.execStx y d a b s
  | .atom y o z a b => Sys2Proof.Machine.execAtom y o z a b s
  | .cas y d a b => Sys2Proof.Machine.execCas y d a b s
  | .post y o z a b => Sys2Proof.Machine.execPost y o z a b s
  | .fetch y z a b => Sys2Proof.Machine.execFetch y z a b s
  | .fence y d p z => Sys2Proof.Machine.execFence y d p z s
  | .waitt y a => Sys2Proof.Machine.execWaitt y a s
  | .waitc y a p => Sys2Proof.Machine.execWaitc y a p s
  | .mon y d a b => Sys2Proof.Machine.execMon y d a b s
  | .binit y a => Sys2Proof.Machine.execBinit y a s
  | .barv y a => Sys2Proof.Machine.execBarv y a s
  | .bwait y d a => Sys2Proof.Machine.execBwait y d a s
  | .bsync y d a => Sys2Proof.Machine.execBsync y d a s
  | .fbar y a => Sys2Proof.Machine.execFbar y a s
  | .bqry y d a => Sys2Proof.Machine.execBqry y d a s
  | .jmp y o => Sys2Proof.Machine.execJmp y o s
  | .call y o => Sys2Proof.Machine.execCall y o s
  | .bra y p n o => Sys2Proof.Machine.execBra y p n o s
  | .brl y p n o => Sys2Proof.Machine.execBrl y p n o s
  | .brd y p n o => Sys2Proof.Machine.execBrd y p n o s
  | .jmpr y a => Sys2Proof.Machine.execJmpr y a s
  | .callr y a => Sys2Proof.Machine.execCallr y a s
  | .ret y => Sys2Proof.Machine.execRet y s
  | .loop y c l step => Sys2Proof.Machine.execLoop y c l step s
  | .nop y => Sys2Proof.Machine.execNop y s
  | .exit y => Sys2Proof.Machine.execExit y s
  | .exitn y a => Sys2Proof.Machine.execExitn y a s
  | .spawn y a => Sys2Proof.Machine.execSpawn y a s
  | .join y => Sys2Proof.Machine.execJoin y s
  | .yield y => Sys2Proof.Machine.execYield y s
  | .trap y a => Sys2Proof.Machine.execTrap y a s
  | .tret y a => Sys2Proof.Machine.execTret y a s
  | .rdclk y d => Sys2Proof.Machine.execRdclk y d s
  | .launch y d a => Sys2Proof.Machine.execLaunch y d a s
  | .nopre y => Sys2Proof.Machine.execNopre y s
  | .preok y => Sys2Proof.Machine.execPreok y s
  | .qtab y d a => Sys2Proof.Machine.execQtab y d a s
  | .pcown y d a => Sys2Proof.Machine.execPcown y d a s
  | .pcrel y a => Sys2Proof.Machine.execPcrel y a s
  | .setth y a => Sys2Proof.Machine.execSetth y a s
  | .ctxsave y d a => Sys2Proof.Machine.execCtxsave y d a s
  | .ctxld y d a => Sys2Proof.Machine.execCtxld y d a s
  | .haltf y d a => Sys2Proof.Machine.execHaltf y d a s
  | .spindleYieldOnStall core quadrant spindle => Sys2Proof.Machine.execSpindleYieldOnStall core quadrant spindle s
  | .loadDataReturn core op => Sys2Proof.Machine.execLoadDataReturn core op s
  | .nearAccessPerformed core op => Sys2Proof.Machine.execNearAccessPerformed core op s
  | .monitorReevaluate core res slot => Sys2Proof.Machine.execMonitorReevaluate core res slot s
  | .spawnBinTimerExpiry core res bin => Sys2Proof.Machine.execSpawnBinTimerExpiry core res bin s
  | .spawnBinLaunch core res => Sys2Proof.Machine.execSpawnBinLaunch core res s
  | .spawnDeadlock core res => Sys2Proof.Machine.execSpawnDeadlock core res s
  | .longWaitSwap core res => Sys2Proof.Machine.execLongWaitSwap core res s
  | .quantumEnd core res => Sys2Proof.Machine.execQuantumEnd core res s
  | .nopreBudgetExpiry core res slot => Sys2Proof.Machine.execNopreBudgetExpiry core res slot s
  | .teamSaveComplete core res => Sys2Proof.Machine.execTeamSaveComplete core res s
  | .teamRestore core res => Sys2Proof.Machine.execTeamRestore core res s
  | .teamEnd core res => Sys2Proof.Machine.execTeamEnd core res s
  | .gangStart core res group => Sys2Proof.Machine.execGangStart core res group s
  | .mmaComplete core res run => Sys2Proof.Machine.execMmaComplete core res run s
  | .walkComplete core walk => Sys2Proof.Machine.execWalkComplete core walk s
  | .faultService fault => Sys2Proof.Machine.execFaultService fault s
  | .invalidation inv die => Sys2Proof.Machine.execInvalidation inv die s
  | .invalidationAck inv die => Sys2Proof.Machine.execInvalidationAck inv die s
  | .invalidationAckReceipt inv die => Sys2Proof.Machine.execInvalidationAckReceipt inv die s
  | .engineAccept core res => Sys2Proof.Machine.execEngineAccept core res s
  | .baseDieCommandStart stack => Sys2Proof.Machine.execBaseDieCommandStart stack s
  | .engCommandComplete core res entry => Sys2Proof.Machine.execEngCommandComplete core res entry s
  | .fenceComplete core res slot fslot => Sys2Proof.Machine.execFenceComplete core res slot fslot s
  | .bnkCommandComplete pch => Sys2Proof.Machine.execBnkCommandComplete pch s
  | .farRetransmit tag => Sys2Proof.Machine.execFarRetransmit tag s
  | .deliveryFailure tag => Sys2Proof.Machine.execDeliveryFailure tag s
  | .farCopyAgeExpiry copy => Sys2Proof.Machine.execFarCopyAgeExpiry copy s
  | .routerForward copy next crcBad => Sys2Proof.Machine.execRouterForward copy next crcBad s
  | .homeCopyReceipt copy => Sys2Proof.Machine.execHomeCopyReceipt copy s
  | .farAckReceipt ack lost => Sys2Proof.Machine.execFarAckReceipt ack lost s
  | .fetchLandingReport tag => Sys2Proof.Machine.execFetchLandingReport tag s
  | .fetchLegFailure tag => Sys2Proof.Machine.execFetchLegFailure tag s
  | .filterTagExpiry home tag => Sys2Proof.Machine.execFilterTagExpiry home tag s
  | .regionFree stack base => Sys2Proof.Machine.execRegionFree stack base s
  | .farSendRelease agent => Sys2Proof.Machine.execFarSendRelease agent s
  | .residencySwitchRequest core => Sys2Proof.Machine.execResidencySwitchRequest core s
  | .residencyIdleSwitch core => Sys2Proof.Machine.execResidencyIdleSwitch core s
  | .drainComplete core => Sys2Proof.Machine.execDrainComplete core s
  | .dualWrite core value => Sys2Proof.Machine.execDualWrite core value s
  | .swreq core value => Sys2Proof.Machine.execSwreq core value s
  | .quantWrite core value => Sys2Proof.Machine.execQuantWrite core value s
  | .registerWrite space offset value => Sys2Proof.Machine.execRegisterWrite space offset value s
  | .queueEnableWrite queue value => Sys2Proof.Machine.execQueueEnableWrite queue value s
  | .arvadd queue value => Sys2Proof.Machine.execArvadd queue value s
  | .queueSlotWrite queue slot offset bytes => Sys2Proof.Machine.execQueueSlotWrite queue slot offset bytes s
  | .queueConsume queue => Sys2Proof.Machine.execQueueConsume queue s
  | .teamPlace device => Sys2Proof.Machine.execTeamPlace device s
  | .placementAgeing device list => Sys2Proof.Machine.execPlacementAgeing device list s
  | .testRun core value => Sys2Proof.Machine.execTestRun core value s
  | .infieldTestStart pair => Sys2Proof.Machine.execInfieldTestStart pair s
  | .infieldTestComplete pair result => Sys2Proof.Machine.execInfieldTestComplete pair result s
  | .uncorrectableError place => Sys2Proof.Machine.execUncorrectableError place s
  | .homeRestartPeriodEnd stack => Sys2Proof.Machine.execHomeRestartPeriodEnd stack s
  | .epochEnd die => Sys2Proof.Machine.execEpochEnd die s
  | .portLinkChange port up => Sys2Proof.Machine.execPortLinkChange port up s
  | .portIngressPacket port sender packet => Sys2Proof.Machine.execPortIngressPacket port sender packet s
  | .peerEntryFetchComplete pidx => Sys2Proof.Machine.execPeerEntryFetchComplete pidx s
  | .go fn value => Sys2Proof.Machine.execGo fn value s
  | .eventRingConfigure fn offset value => Sys2Proof.Machine.execEventRingConfigure fn offset value s
  | .moduleReset cause => Sys2Proof.Machine.execModuleReset cause s
  | .computeDieReset die => Sys2Proof.Machine.execComputeDieReset die s
  | .baseDieReset stack => Sys2Proof.Machine.execBaseDieReset stack s
  | .portReset port => Sys2Proof.Machine.execPortReset port s
  | .bootStageAdvance failedStacks failedDies => Sys2Proof.Machine.execBootStageAdvance failedStacks failedDies s
  | .powerSample watts hottest => Sys2Proof.Machine.execPowerSample watts hottest s
  | .thermalTrip die => Sys2Proof.Machine.execThermalTrip die s
  | .unassignedFunctionCode w => Sys2Proof.Machine.execUnassignedFunctionCode w s
  | .computeDieResetRelease die => Sys2Proof.Machine.execComputeDieResetRelease die s
  | .baseDieResetRelease stack => Sys2Proof.Machine.execBaseDieResetRelease stack s
  | .createContext => Sys2Proof.Machine.execCreateContext s
  | .destroyContext => Sys2Proof.Machine.execDestroyContext s
  | .map => Sys2Proof.Machine.execMap s
  | .unmap => Sys2Proof.Machine.execUnmap s
  | .registerOnDemandRange => Sys2Proof.Machine.execRegisterOnDemandRange s
  | .faultRetry => Sys2Proof.Machine.execFaultRetry s
  | .faultAbort => Sys2Proof.Machine.execFaultAbort s
  | .createGraph => Sys2Proof.Machine.execCreateGraph s
  | .editGraph => Sys2Proof.Machine.execEditGraph s
  | .writePeerEntry => Sys2Proof.Machine.execWritePeerEntry s
  | .assignQueue => Sys2Proof.Machine.execAssignQueue s
  | .resync => Sys2Proof.Machine.execResync s
  | .cancelLaunch => Sys2Proof.Machine.execCancelLaunch s
  | .firmwareDownload => Sys2Proof.Machine.execFirmwareDownload s
  | .getVersion => Sys2Proof.Machine.execGetVersion s
  | .getCapabilities => Sys2Proof.Machine.execGetCapabilities s
  | .negotiateAlgorithms => Sys2Proof.Machine.execNegotiateAlgorithms s
  | .getDigests => Sys2Proof.Machine.execGetDigests s
  | .getCertificate => Sys2Proof.Machine.execGetCertificate s
  | .challenge => Sys2Proof.Machine.execChallenge s
  | .getMeasurements => Sys2Proof.Machine.execGetMeasurements s
  | .unsupportedRequest => Sys2Proof.Machine.execUnsupportedRequest s

end Sys2Proof.Machine
end

