-- ==== Sys2Proof/Machine/Auto.lean ====
section
/-! DEFINITION. The event of the machine that comes next when the agenda holds none (log 1). -/

namespace Sys2Proof.Machine

open Sys2Proof

/-- The events that may be due at a residency. -/
def Residency.events (x : Residency) (n r : Nat) : List Instr :=
  let slots := x.slots.map (·.1)
  let bins := match x.team with
    | some t => (List.range t.bins.length).map fun b => Instr.spawnBinTimerExpiry n r b
    | none => []
  List.flatten
    [x.mmas.map fun p => .mmaComplete n r p.1,
     x.latches.map fun p => .gangStart n r p.1,
     x.deps.map fun p => .engCommandComplete n r p.1,
     [.engineAccept n r],
     x.fences.map fun p => .fenceComplete n r (p.1 / 8) (p.1 % 8),
     slots.map fun sl => .monitorReevaluate n r sl,
     slots.map fun sl => .nopreBudgetExpiry n r sl,
     bins,
     [.spawnBinLaunch n r, .teamSaveComplete n r, .teamRestore n r, .teamEnd n r, .spawnDeadlock n r, .quantumEnd n r,
      .longWaitSwap n r]]

/-- The events that may be due at a core. -/
def Core.events (c : Core) (n : Nat) : List Instr :=
  List.flatten
    [c.ops.flatMap fun p => [.nearAccessPerformed n p.1, .loadDataReturn n p.1],
     c.walks.map fun p => .walkComplete n p.1,
     c.r0.events n 0,
     c.r1.events n 1,
     [.drainComplete n, .residencyIdleSwitch n, .farSendRelease n, .infieldTestStart (n / 2)]]

/-- The events that may be due in the far fabric. -/
def Fabric.events (f : Fabric) : List Instr :=
  List.flatten
    [f.acks.map fun p => .farAckReceipt p.1 false,
     f.copies.flatMap fun p =>
       .farCopyAgeExpiry p.1 :: .homeCopyReceipt p.1 :: (List.range 12).map fun d => .routerForward p.1 d false,
     f.legs.map fun p => .fetchLandingReport p.1,
     f.peerWait.map fun p => .peerEntryFetchComplete p,
     f.sent.flatMap fun p => [.deliveryFailure p.1, .farRetransmit p.1],
     f.legs.map fun p => .fetchLegFailure p.1,
     f.ports.map fun p => .farSendRelease (640 + p.1)]

/-- The events that may be due at a stack. -/
def Home.events (h : Home) (st : Nat) : List Instr :=
  List.flatten
    [[.homeRestartPeriodEnd st, .baseDieCommandStart st, .farSendRelease (672 + st)],
     h.regions.map fun r => .regionFree st r.base,
     h.filter.map fun t => .filterTagExpiry st t.tag]

/-- The rows of the management commands and of the SPDM requests. -/
def commandRows : List Instr :=
  [.createContext, .destroyContext, .map, .unmap, .registerOnDemandRange, .faultRetry, .faultAbort, .createGraph,
    .editGraph, .writePeerEntry, .assignQueue, .resync, .cancelLaunch, .firmwareDownload]
def spdmRows : List Instr :=
  [.getVersion, .getCapabilities, .negotiateAlgorithms, .getDigests, .getCertificate, .challenge, .getMeasurements,
    .unsupportedRequest]

/-- The events that may be due at the control die. -/
def Control.due (c : Control) : List Instr :=
  List.flatten
    [c.faults.map fun p => .faultService p.1,
     c.invs.flatMap fun p => p.2.dies.flatMap fun d =>
       [.invalidation p.1 d.1, .invalidationAck p.1 d.1, .invalidationAckReceipt p.1 d.1],
     if c.cmd = [] then [] else commandRows,
     if c.spdm.request = none then [] else spdmRows,
     c.queues.map fun p => .queueConsume p.1,
     c.deviceQueues.map fun p => .queueConsume (64 + p.1),
     if c.lists = [] then []
     else (List.range 8).flatMap fun d => .teamPlace d :: (List.range 8).map fun l => .placementAgeing d l,
     if c.launches.any fun l => l.2.det.isSome then (List.range 8).map fun d => .epochEnd d else [],
     c.managers.map fun p => .farSendRelease (704 + p.1),
     [.bootStageAdvance [] []]]

/-- Every event that may be due.  A spindle that yields does so in its quadrant's cycle (02 R26). -/
def State.events (s : State) : List Instr :=
  List.flatten
    [s.cores.flatMap fun p => p.2.events p.1,
     s.fabric.events,
     s.homes.flatMap fun p => p.2.events p.1,
     (s.channels.filter fun p => p.2.queue != []).map fun p => .bnkCommandComplete p.1,
     s.control.due]

/-- Whether an event is due: it changes the machine. -/
def State.due (s : State) (i : Instr) : Bool :=
  match exec i s with
  | .next t => t != s
  | _ => false

/-- The first event that is due. -/
def autoEvent (s : State) : Option Instr := s.events.find? s.due

end Sys2Proof.Machine
end

