-- ==== Sys2Proof/Machine/Cycle.lean ====
section
/-! DEFINITION. A cycle of a quadrant, what a move does, and the check copies that make it too (02 R26; 16 R341, R342;
18 R380). -/

namespace Sys2Proof.Machine

open Sys2Proof

/-- A ply fetches its next instruction and issues it. -/
def issueBy (s : State) (w : Who) : Host.Outcome State Fault Refusal :=
  let s1 := s.prepare w
  match s1.view with
  | none => .fault .noIssuer
  | some v =>
    match s1.fetchInstr v with
    | .ok i =>
      (match exec i s1 with
       | .next t => .next (s1.withSoft t v)
       | o => o)
    | .error e => .next (s1.withSoft (s1.onStop v true e) v)

/-- Whether a ply's next instruction can issue in this clock (16 R341): where it stalls, the state in which it has (02 R26); else
nothing has happened yet. -/
def State.tryStall (s : State) (w : Who) : State :=
  match issueBy s w with
  | .next t => if t.stalledAt w then t.unissued s w else s
  | _ => s

/-- The end of a quadrant's cycle: its spindles yield in the cycle of the stall (02 R26, 16 R342), and every stall is checked
again in the next one. -/
def State.endCycle (s : State) (n q : Nat) : State := (s.yieldSpindles n q).openQuadrant n q

/-- A cycle of a quadrant: of the plies that its spindles' active fibres offer, those that can issue take part in the choice; one
issues (16 R341). -/
def issueCycle (s : State) (n q : Nat) : Host.Outcome State Fault Refusal :=
  let s1 := s.idle.openQuadrant n q
  let s2 := (s1.offered n q).foldl State.tryStall s1
  match s2.quadrantIssue n q with
  | some w =>
    match issueBy s2 w with
    | .next t => .next (t.endCycle n q)
    | o => o
  | none => .next (s2.endCycle n q)

/-- What a move does.  Each event, each issue and each input has a cycle of its own, so no two coincide (log 1). -/
def move (s : State) : Move → Host.Outcome State Fault Refusal
  | .event i => exec i s.idle
  | .issue core q => issueCycle s core q
  | .tick n => .next { s with clock := s.clock + n }
  | .command c => .next (s.idle.startCommand c)
  | .bar2 fn offset bytes => .next (s.idle.writeBar2 fn offset bytes)
  | .spdm r => .next { s.idle with control := { s.control with spdm := { s.control.spdm with request := some r } } }
  | .exports e => .next { s.idle with fabric := { s.fabric with exports := e } }
  | .corrected core => .next (s.idle.modCore core fun c => { c with corrected := c.corrected + 1 })
  | .correctedBase stack => .next (s.idle.modAgent stack fun h => { h with corrected := h.corrected + 1 })

/-! ### Check copies (18 R380) -/

/-- A team as it leaves for a turn, wherever it is. -/
def State.takeOut (s : State) (launch num : Nat) : Option Saved :=
  match s.findTeam launch num with
  | some (n, r) => (s.res n r).team.map fun t => s.collect n r t true
  | none => s.findSaved launch num

/-- A check copy after a step that took the module to `t`, and the module as the copy has it to `u`: it is where its primary is,
and goes when that ends or is no longer sampled; a copy that has ended before its primary stays as it was. -/
def State.nextCopy (t u : State) (c : CheckCopy) : Option CheckCopy :=
  if !((t.anyTeam c.launch c.num).map Team.sampled).getD false then none
  else
    match t.findTeam c.launch c.num with
    | some (n, r) =>
      if u.findTeam c.launch c.num = some (n, r) then some (u.imageOf c.launch c.num n r)
      else
        match u.takeOut c.launch c.num, (t.res n r).team with
        | some y, some tm => some (((t.removeTeam n r tm).returnTeam n r y true).imageOf c.launch c.num n r)
        | _, _ => some c
    | none =>
      match u.takeOut c.launch c.num with
      | some y => some { c with cores := [], cells := [], atoms := [], saved := some y }
      | none => some c

/-- A check copy's shadow mismatches count on the core that runs it (17 R366, 18 R380): `w` and `u` are the module as the copy has
it before and after. -/
def State.copyHealth (s w u : State) (c : CheckCopy) : State :=
  match (s.anyTeam c.launch c.num).bind (·.det) with
  | none => s
  | some d =>
    (c.cores.zipIdx).foldl (fun s x =>
      let b := (w.core x.1.1).health
      let a := (u.core x.1.1).health
      let n := d.copyCore + x.2
      let s1 := if a.suspect && !b.suspect then s.shadowFails n else s
      s1.modCore n fun y => { y with health := { y.health with shretry := min 0xFFFF (y.health.shretry + (a.shretry - b.shretry)) } }) s

/-- The check copies after a step that took `s` to `t`: each that was there makes the step in the module as it has it. -/
def State.withCopies (t s : State) (run : State → Host.Outcome State Fault Refusal) : State :=
  s.copies.foldl (fun t c =>
    match run (s.worldOf c) with
    | .next u =>
      ({ t with copies := t.copies.filterMap fun x => if x.launch = c.launch ∧ x.num = c.num then t.nextCopy u c else some x } :
        State).copyHealth (s.worldOf c) u c
    | _ => t) t

/-- Whether check copies make a move too: an error strikes one of the two copies (18 R380). -/
def Move.mirrored : Move → Bool
  | .event (.uncorrectableError _) => false
  | _ => true

/-- Do something, and each check copy does it on its own image: what it reads and what completes is the state's that the primary
has, and of what it does its own image alone remains (18 R380; DESIGN CHOICE, log 45). -/
def State.mirror (s : State) (run : State → Host.Outcome State Fault Refusal) : Host.Outcome State Fault Refusal :=
  match run s with
  | .next t => .next (t.withCopies s run)
  | o => o

end Sys2Proof.Machine
end

