-- ==== Sys2Proof/Machine/Step.lean ====
section
/-! DEFINITION. One step of the module, and placing an instruction for the next step. -/

namespace Sys2Proof.Machine

open Sys2Proof

/-- What comes next, and the agenda after it: the entry that the agenda holds; else an event of the machine that is due; else
a cycle of a quadrant; else a cycle in which nothing happens (log 1). -/
def State.nextMove (s : State) : Move × List Move :=
  match s.agenda with
  | m :: rest => (m, rest)
  | [] =>
    match autoEvent s with
    | some i => (.event i, [])
    | none =>
      match s.nextIssue with
      | some (n, q) => (.issue n q, [])
      | none => (.tick 1, [])

/-- One step. -/
def step (s : State) : Host.Outcome State Fault Refusal :=
  let (m, rest) := s.settleSpindles.nextMove
  let run (s : State) := move { s.settleSpindles with agenda := rest } m
  if m.mirrored then s.mirror run else run s

/-- The launch header of the fibre that `withFetchWord` places: one fibre of 16 lanes, every register declared. -/
def probeHeader : Header :=
  { entry := 0x200000, width := 16, fibres := 1, tiles := 16, bars := 8, nu := 8, na := 8, ng := 48
    wfirst := 0, wcount := 0, flags := 0, res := 0, prio := 0, scratch := 0x100000 - 57344, tx := 0, ty := 0
    tz := 0, qtaba := 0, handler := 0, param := 0 }

/-- `s` with an instruction stored where `step` fetches next: a team of a privileged context on core 0,
its code page in the translation cache, and the first quadrant's turn (log 15). -/
def State.withFetchWord (s : State) (nbits w : Nat) : State :=
  let frame := 0x1000000
  let leaf : Leaf := { ctx := 0, va := 0x200000, size := 65536, entry := BitVec.ofNat 64 (frame + 0x1F) }
  let team : Team :=
    { ctx := 0, launch := 0, hdr := probeHeader, hdrAddr := 0, num := 0, handler := 0, barriers := [], bins := []
      quantumAt := s.clock, save := none, det := none }
  let res : Residency :=
    { Residency.empty with team := some team, slots := [(0, launchFibre probeHeader 0 0x200000 0xFFFF)], active := [(0, 0)] }
  let core : Core := { Core.reset s.clock with r0 := res, tlb := [leaf], held := false, farReady := true }
  let ctx : Context :=
    { fn := 0, mode := 1, device := 0, privileged := true, root := 0, presence := [0], checkSlot := 0, lseq := 0 }
  { s with
    mem := writeAll s.mem (span frame 8) (bytesOfNat 8 (w % 2 ^ nbits))
    cores := kset s.cores 0 core
    control := { s.control with
      contexts := kset s.control.contexts 0 ctx, mode := 1, boot := { s.control.boot with stage := 4 } }
    agenda := [.issue 0 0] }

end Sys2Proof.Machine
end

