-- ==== Sys2Proof/WellFormed.lean ====
section
/-! DEFINITION. Which instruction terms stand for something.

A word of the instruction stream has exactly one term, so of two terms that would share a word only one is
well formed.  An event names parts that exist. -/

namespace Sys2Proof

/-- Where a device register lies exists (01 R9, 16 R326, 19 R391). -/
def RegSpace.exists_ : RegSpace → Bool
  | .die d => decide (d < Config.dies)
  | .control => true
  | .bar0 f => decide (f ≤ 16)
  | .queue q => decide (q < 64)

/-- Where an error strikes exists. -/
def ErrorPlace.exists_ : ErrorPlace → Bool
  | .atom pa => pa % 32 == 0
  | .vreg c r s i l => decide (c < Config.cores) && decide (r < 2) && decide (s < 32) && decide (i < 64) && decide (l < 64)
  | .oreg c r s i l => decide (c < Config.cores) && decide (r < 2) && decide (s < 32) && decide (i < 16) && decide (l < 64)
  | .latch c r s _ l => decide (c < Config.cores) && decide (r < 2) && decide (s < 32) && decide (l < 64)
  | .cell c r s t x => decide (c < Config.cores) && decide (r < 2) && decide (s < 32) && decide (t < 16) && decide (x < 1024)
  | .bankReg p b k => decide (p < 4096) && decide (b < 16) && decide (k < 8)
  | .root p => decide (p < 4096)
  | .home s => decide (s < 16)
  | .shadow c _ => decide (c < Config.cores)
  | .checkCopy c r => decide (c < Config.cores) && decide (r < 2)

/-- The core that an event names. -/
def Instr.coreOf : Instr → Option Nat
  | .spindleYieldOnStall c _ _ => some c
  | .loadDataReturn c _ => some c
  | .nearAccessPerformed c _ => some c
  | .monitorReevaluate c _ _ => some c
  | .spawnBinTimerExpiry c _ _ => some c
  | .spawnBinLaunch c _ => some c
  | .spawnDeadlock c _ => some c
  | .longWaitSwap c _ => some c
  | .quantumEnd c _ => some c
  | .nopreBudgetExpiry c _ _ => some c
  | .teamSaveComplete c _ => some c
  | .teamRestore c _ => some c
  | .teamEnd c _ => some c
  | .gangStart c _ _ => some c
  | .mmaComplete c _ _ => some c
  | .walkComplete c _ => some c
  | .engineAccept c _ => some c
  | .engCommandComplete c _ _ => some c
  | .fenceComplete c _ _ _ => some c
  | .residencySwitchRequest c => some c
  | .residencyIdleSwitch c => some c
  | .drainComplete c => some c
  | .dualWrite c _ => some c
  | .swreq c _ => some c
  | .quantWrite c _ => some c
  | .testRun c _ => some c
  | _ => none

/-- The compute die that an event names. -/
def Instr.dieOf : Instr → Option Nat
  | .invalidation _ d => some d
  | .invalidationAck _ d => some d
  | .invalidationAckReceipt _ d => some d
  | .epochEnd d => some d
  | .computeDieReset d => some d
  | .computeDieResetRelease d => some d
  | .thermalTrip d => some d
  | _ => none

/-- The stack that an event names. -/
def Instr.stackOf : Instr → Option Nat
  | .baseDieCommandStart k => some k
  | .filterTagExpiry k _ => some k
  | .regionFree k _ => some k
  | .homeRestartPeriodEnd k => some k
  | .baseDieReset k => some k
  | .baseDieResetRelease k => some k
  | _ => none

/-- The scale-out port that an event names. -/
def Instr.portOf : Instr → Option Nat
  | .portLinkChange p _ => some p
  | .portIngressPacket p _ _ => some p
  | .portReset p => some p
  | _ => none

/-- The launch queue that an event names. -/
def Instr.queueOf : Instr → Option Nat
  | .queueEnableWrite q _ => some q
  | .arvadd q _ => some q
  | .queueSlotWrite q _ _ _ => some q
  | _ => none

/-- The residency of a core that an event names. -/
def Instr.resOf : Instr → Option Nat
  | .monitorReevaluate _ r _ => some r
  | .spawnBinTimerExpiry _ r _ => some r
  | .spawnBinLaunch _ r => some r
  | .spawnDeadlock _ r => some r
  | .longWaitSwap _ r => some r
  | .quantumEnd _ r => some r
  | .nopreBudgetExpiry _ r _ => some r
  | .teamSaveComplete _ r => some r
  | .teamRestore _ r => some r
  | .teamEnd _ r => some r
  | .gangStart _ r _ => some r
  | .mmaComplete _ r _ => some r
  | .engineAccept _ r => some r
  | .engCommandComplete _ r _ => some r
  | .fenceComplete _ r _ _ => some r
  | _ => none

/-- What remains of each row: the word that no other row has, the place or space that exists. -/
def Instr.ownOk : Instr → Bool
  | .unassignedFunctionCode w => decide (decodeWord w 0 = .unassignedFunctionCode w)
  | .cvt _ _ _ t r s => !(t == 14 && r.extractLsb' 1 2 == 0 && s == 0)
  | .registerWrite sp _ _ => sp.exists_
  | .uncorrectableError p => p.exists_
  | .queueConsume q => decide (q < 64 + 65536)
  | _ => true

/-- A term that stands for something. -/
def Instr.wellFormed (i : Instr) : Bool :=
  i.ownOk
    && (i.coreOf.map fun c => decide (c < Config.cores)).getD true
    && (i.dieOf.map fun d => decide (d < Config.dies)).getD true
    && (i.stackOf.map fun k => decide (k < 16)).getD true
    && (i.portOf.map fun p => decide (p < 12)).getD true
    && (i.queueOf.map fun q => decide (q < 64)).getD true
    && (i.resOf.map fun r => decide (r < 2)).getD true

end Sys2Proof
end

