-- ==== Sys2Proof/Laws/PerInstr.lean ====
section
/-! SUPPORT. For every instruction: its word decodes to it (06 R134 to R150). -/

namespace Sys2Proof.Laws

open Sys2Proof

/-! ### Fields of joined bits -/

theorem Enc.append_bit {n m : Nat} (x : BitVec n) (y : BitVec m) (i : Nat) :
    (x ++ y).getLsbD i = if i < m then y.getLsbD i else x.getLsbD (i - m) := BitVec.getLsbD_append

theorem Enc.upper {n m : Nat} (x : BitVec n) (y : BitVec m) : (x ++ y).extractLsb' m n = x := by
  apply BitVec.eq_of_getLsbD_eq
  intro i hi
  rw [BitVec.getLsbD_extractLsb', Enc.append_bit]
  simp [hi]

theorem Enc.lower {n m : Nat} (x : BitVec n) (y : BitVec m) : (x ++ y).extractLsb' 0 m = y := by
  apply BitVec.eq_of_getLsbD_eq
  intro i hi
  rw [BitVec.getLsbD_extractLsb', Enc.append_bit]
  simp [hi]

theorem Enc.join2 (x : BitVec 18) : x.extractLsb' 9 9 ++ x.extractLsb' 0 9 = x := by
  apply BitVec.eq_of_getLsbD_eq
  intro i hi
  rw [Enc.append_bit]
  split
  · simp [*]
  · rw [BitVec.getLsbD_extractLsb', show 9 + (i - 9) = i by omega]
    simp; omega

theorem Enc.join3 (x : BitVec 25) : x.extractLsb' 18 7 ++ x.extractLsb' 9 9 ++ x.extractLsb' 0 9 = x := by
  apply BitVec.eq_of_getLsbD_eq
  intro i hi
  rw [Enc.append_bit, Enc.append_bit]
  split
  · simp [*]
  · split
    · rw [BitVec.getLsbD_extractLsb', show 9 + (i - 9) = i by omega]
      simp; omega
    · rw [BitVec.getLsbD_extractLsb', show 18 + (i - 9 - 9) = i by omega]
      simp; omega

/-! ### Words and their five fields -/

theorem Enc.pack_bit (r : RawWord) (i : Nat) :
    r.pack.getLsbD i = if i < 9 then r.b.getLsbD i else if i < 18 then r.a.getLsbD (i - 9) else
      if i < 25 then r.d.getLsbD (i - 18) else if i < 31 then r.op.getLsbD (i - 25) else (decide (i = 31) && r.y) := by
  have h1 := Enc.append_bit (BitVec.ofBool r.y ++ r.op ++ r.d ++ r.a) r.b i
  have h2 := Enc.append_bit (BitVec.ofBool r.y ++ r.op ++ r.d) r.a (i - 9)
  have h3 := Enc.append_bit (BitVec.ofBool r.y ++ r.op) r.d (i - 9 - 9)
  have h4 := Enc.append_bit (BitVec.ofBool r.y) r.op (i - 9 - 9 - 7)
  have h5 : r.pack.getLsbD i = (BitVec.ofBool r.y ++ r.op ++ r.d ++ r.a ++ r.b).getLsbD i := rfl
  rw [h5, h1, h2, h3, h4, BitVec.getLsbD_ofBool]
  repeat' split
  all_goals first | rfl | omega | skip
  all_goals (congr 1; first | omega | (simp; omega))

theorem Enc.unpack_pack (r : RawWord) : RawWord.unpack r.pack = r := by
  cases r with
  | mk y op d a b =>
    simp only [RawWord.unpack, RawWord.mk.injEq]
    refine ⟨?_, ?_, ?_, ?_, ?_⟩
    · have : (RawWord.pack ⟨y, op, d, a, b⟩).extractLsb' 31 1 = BitVec.ofBool y := by
        ext i hi
        rw [BitVec.getElem_extractLsb', Enc.pack_bit]
        simp [show i = 0 by omega]
      rw [this]; cases y <;> decide
    all_goals
      ext i hi
      rw [BitVec.getElem_extractLsb', Enc.pack_bit]
      repeat' split
    all_goals first | omega | skip
    all_goals rw [← BitVec.getLsbD_eq_getElem]; first | rfl | (congr 1; omega)

/-- The word of a word's fields is the word. -/
theorem Enc.pack_unpack (w : Word) : (RawWord.unpack w).pack = w := by
  apply BitVec.eq_of_getLsbD_eq
  intro i hi
  rw [Enc.pack_bit]
  simp only [RawWord.unpack, BitVec.getLsbD_extractLsb']
  repeat' split
  · simp [*]
  · rw [show 9 + (i - 9) = i by omega]; simp; omega
  · rw [show 18 + (i - 18) = i by omega]; simp; omega
  · rw [show 25 + (i - 25) = i by omega]; simp; omega
  · have : i = 31 := by omega
    subst this
    have h : w.extractLsb' 31 1 = BitVec.ofBool (w.getLsbD 31) := by
      ext j hj; simp [show j = 0 by omega]
    rw [h]
    cases w.getLsbD 31 <;> decide

/-! ### The statement, and one lemma for each constructor -/

/-- The words of a well-formed instruction decode to it; a row that is no word has none. -/
def Enc.Statement (i : Instr) : Prop :=
  i.wellFormed = true → ∀ w n, encode i = some (w, n) → decodeWord w (n.getD 0) = i

theorem Enc.word {i : Instr} {r : RawWord} {n : Option Word} (he : encode i = some (r.pack, n))
    (hd : decodeRaw r (n.getD 0) = i) : Enc.Statement i := by
  intro _ w m h
  rw [he] at h
  simp only [Option.some.injEq, Prod.mk.injEq] at h
  obtain ⟨rfl, rfl⟩ := h
  rw [decodeWord, Enc.unpack_pack, hd]

theorem Enc.event {i : Instr} (he : encode i = none) : Enc.Statement i := by
  intro _ w m h
  rw [he] at h
  cases h

theorem Enc.unassigned (w : BitVec 32) : Enc.Statement (.unassignedFunctionCode w) := by
  intro hw w' n h
  have he : encode (.unassignedFunctionCode w) = some (w, none) := rfl
  rw [he] at h
  simp only [Option.some.injEq, Prod.mk.injEq] at h
  obtain ⟨rfl, rfl⟩ := h
  simp only [Instr.wellFormed, Instr.ownOk, Bool.and_eq_true, decide_eq_true_eq] at hw
  exact hw.1.1.1.1.1.1

theorem Enc.then_ {C : Prop} [Decidable C] {x y z : Instr} (h : C) (e : x = z) : (if C then x else y) = z := by
  rw [if_pos h, e]

theorem Enc.else_ {C : Prop} [Decidable C] {x y z : Instr} (h : ¬C) (e : y = z) : (if C then x else y) = z := by
  rw [if_neg h, e]

/-- The fields of a `CVT`; the word of a `CVT.w` is no `CVT`'s. -/
theorem Enc.cvtFields (t : BitVec 4) (r : BitVec 3) (s : BitVec 1) :
    (t ++ r ++ s ++ (0 : BitVec 1) : BitVec 9).extractLsb' 0 1 = 0 ∧
      (t ++ r ++ s ++ (0 : BitVec 1) : BitVec 9).extractLsb' 5 4 = t ∧
      (t ++ r ++ s ++ (0 : BitVec 1) : BitVec 9).extractLsb' 2 3 = r ∧
      (t ++ r ++ s ++ (0 : BitVec 1) : BitVec 9).extractLsb' 1 1 = s ∧
      ((t ++ r ++ s ++ (0 : BitVec 1) : BitVec 9).extractLsb' 0 2 = 0 ∧
        (t ++ r ++ s ++ (0 : BitVec 1) : BitVec 9).extractLsb' 3 6 = 56 →
        (t == 14 && r.extractLsb' 1 2 == 0 && s == 0) = true) := by
  revert t r s
  decide

theorem Enc.cvtRow (y : Bool) (d : BitVec 7) (a : BitVec 9) (t : BitVec 4) (r : BitVec 3) (s : BitVec 1) :
    Enc.Statement (.cvt y d a t r s) := by
  intro hw w n h
  obtain ⟨h0, ht, hr, hs, hx⟩ := Enc.cvtFields t r s
  refine Enc.word (i := .cvt y d a t r s) rfl ?_ hw w n h
  simp only [Instr.wellFormed, Instr.ownOk, Bool.and_eq_true, Bool.not_eq_true'] at hw
  refine Enc.else_ (fun hc => ?_) (Enc.then_ h0 ?_)
  · have := hw.1.1.1.1.1.1
    rw [hx hc] at this
    cases this
  · show Instr.cvt y d a _ _ _ = _
    rw [ht, hr, hs]

theorem Enc.bmacFields (v k : BitVec 3) : ((0 : BitVec 1) ++ v ++ k : BitVec 7).extractLsb' 6 1 = 0 ∧
    ((0 : BitVec 1) ++ v ++ k : BitVec 7).extractLsb' 3 3 = v ∧ ((0 : BitVec 1) ++ v ++ k : BitVec 7).extractLsb' 0 3 = k := by
  revert v k
  decide

theorem Enc.bredFields (k : BitVec 3) (o : BitVec 2) : ((0 : BitVec 2) ++ k ++ o : BitVec 7).extractLsb' 5 2 = 0 ∧
    ((0 : BitVec 2) ++ k ++ o : BitVec 7).extractLsb' 2 3 = k ∧ ((0 : BitVec 2) ++ k ++ o : BitVec 7).extractLsb' 0 2 = o := by
  revert k o
  decide

theorem Enc.branchFields (p : BitVec 3) (n : BitVec 1) (e : BitVec 3) (h : 2 ≤ e) : (p ++ n ++ e : BitVec 7) ≠ 0 ∧
    (p ++ n ++ e : BitVec 7) ≠ 1 ∧ (p ++ n ++ e : BitVec 7).extractLsb' 0 3 = e ∧
    (p ++ n ++ e : BitVec 7).extractLsb' 4 3 = p ∧ (p ++ n ++ e : BitVec 7).extractLsb' 3 1 = n := by
  revert p n e
  decide

theorem Enc.cvtWFields (r : BitVec 1) : (((56 : BitVec 6) ++ r ++ (0 : BitVec 2) : BitVec 9).extractLsb' 0 2 = 0 ∧
    ((56 : BitVec 6) ++ r ++ (0 : BitVec 2) : BitVec 9).extractLsb' 3 6 = 56) ∧
    ((56 : BitVec 6) ++ r ++ (0 : BitVec 2) : BitVec 9).extractLsb' 2 1 = r := by
  revert r
  decide

theorem Enc.waitcFields (p : BitVec 3) : ((1 : BitVec 6) ++ p : BitVec 9) ≠ 0 ∧
    ((1 : BitVec 6) ++ p : BitVec 9).extractLsb' 3 6 = 1 ∧ ((1 : BitVec 6) ++ p : BitVec 9).extractLsb' 0 3 = p := by
  revert p
  decide

theorem Enc.ill (y : Bool) (x : BitVec 25) : Statement (.ill y x) := Enc.word rfl (congrArg _ (Enc.join3 x))
theorem Enc.iadd (y : Bool) (d : BitVec 7) (a : BitVec 9) (b : BitVec 9) : Statement (.iadd y d a b) :=
  Enc.word rfl rfl
theorem Enc.isub (y : Bool) (d : BitVec 7) (a : BitVec 9) (b : BitVec 9) : Statement (.isub y d a b) :=
  Enc.word rfl rfl
theorem Enc.imul (y : Bool) (d : BitVec 7) (a : BitVec 9) (b : BitVec 9) : Statement (.imul y d a b) :=
  Enc.word rfl rfl
theorem Enc.imulh (y : Bool) (d : BitVec 7) (a : BitVec 9) (b : BitVec 9) : Statement (.imulh y d a b) :=
  Enc.word rfl rfl
theorem Enc.imad (y : Bool) (d : BitVec 7) (a : BitVec 9) (b : BitVec 9) : Statement (.imad y d a b) :=
  Enc.word rfl rfl
theorem Enc.imin (y : Bool) (d : BitVec 7) (a : BitVec 9) (b : BitVec 9) : Statement (.imin y d a b) :=
  Enc.word rfl rfl
theorem Enc.imax (y : Bool) (d : BitVec 7) (a : BitVec 9) (b : BitVec 9) : Statement (.imax y d a b) :=
  Enc.word rfl rfl
theorem Enc.and (y : Bool) (d : BitVec 7) (a : BitVec 9) (b : BitVec 9) : Statement (.and y d a b) := Enc.word rfl rfl
theorem Enc.or (y : Bool) (d : BitVec 7) (a : BitVec 9) (b : BitVec 9) : Statement (.or y d a b) := Enc.word rfl rfl
theorem Enc.xor (y : Bool) (d : BitVec 7) (a : BitVec 9) (b : BitVec 9) : Statement (.xor y d a b) := Enc.word rfl rfl
theorem Enc.andn (y : Bool) (d : BitVec 7) (a : BitVec 9) (b : BitVec 9) : Statement (.andn y d a b) :=
  Enc.word rfl rfl
theorem Enc.shl (y : Bool) (d : BitVec 7) (a : BitVec 9) (b : BitVec 9) : Statement (.shl y d a b) := Enc.word rfl rfl
theorem Enc.shr (y : Bool) (d : BitVec 7) (a : BitVec 9) (b : BitVec 9) : Statement (.shr y d a b) := Enc.word rfl rfl
theorem Enc.bnkBmode (y : Bool) (a : BitVec 9) : Statement (.bnkBmode y a) := Enc.word rfl rfl
theorem Enc.bnkBexit (y : Bool) : Statement (.bnkBexit y) := Enc.word rfl rfl
theorem Enc.bnkBld (y : Bool) (k : BitVec 3) (a : BitVec 9) : Statement (.bnkBld y k a) :=
  Enc.word rfl (Enc.then_ (Enc.upper _ k) (congrArg (fun k => Instr.bnkBld y k a) (Enc.lower _ k)))
theorem Enc.bnkBst (y : Bool) (k : BitVec 3) (a : BitVec 9) : Statement (.bnkBst y k a) :=
  Enc.word rfl (Enc.then_ (Enc.upper _ k) (congrArg (fun k => Instr.bnkBst y k a) (Enc.lower _ k)))
theorem Enc.bnkBbc (y : Bool) (k : BitVec 3) (a : BitVec 9) : Statement (.bnkBbc y k a) :=
  Enc.word rfl (Enc.then_ (Enc.upper _ k) (congrArg (fun k => Instr.bnkBbc y k a) (Enc.lower _ k)))
theorem Enc.bnkBmac (y : Bool) (v : BitVec 3) (k : BitVec 3) (a : BitVec 9) : Statement (.bnkBmac y v k a) := by
  obtain ⟨h0, h1, h2⟩ := Enc.bmacFields v k
  exact Enc.word rfl (Enc.then_ h0 (congrArg₂ (fun v k => Instr.bnkBmac y v k a) h1 h2))
theorem Enc.bnkBrd (y : Bool) (d : BitVec 7) : Statement (.bnkBrd y d) := Enc.word rfl rfl
theorem Enc.bnkBred (y : Bool) (k : BitVec 3) (o : BitVec 2) : Statement (.bnkBred y k o) := by
  obtain ⟨h0, h1, h2⟩ := Enc.bredFields k o
  exact Enc.word rfl (Enc.then_ ⟨h0, rfl⟩ (congrArg₂ (fun k o => Instr.bnkBred y k o) h1 h2))
theorem Enc.bnkBsave (y : Bool) (a : BitVec 9) : Statement (.bnkBsave y a) := Enc.word rfl rfl
theorem Enc.bnkBrst (y : Bool) (a : BitVec 9) : Statement (.bnkBrst y a) := Enc.word rfl rfl
theorem Enc.iaddi (y : Bool) (d : BitVec 7) (a : BitVec 9) (i : BitVec 9) : Statement (.iaddi y d a i) :=
  Enc.word rfl rfl
theorem Enc.andi (y : Bool) (d : BitVec 7) (a : BitVec 9) (i : BitVec 9) : Statement (.andi y d a i) :=
  Enc.word rfl rfl
theorem Enc.ori (y : Bool) (d : BitVec 7) (a : BitVec 9) (i : BitVec 9) : Statement (.ori y d a i) := Enc.word rfl rfl
theorem Enc.xori (y : Bool) (d : BitVec 7) (a : BitVec 9) (i : BitVec 9) : Statement (.xori y d a i) :=
  Enc.word rfl rfl
theorem Enc.shli (y : Bool) (d : BitVec 7) (a : BitVec 9) (n : BitVec 6) : Statement (.shli y d a n) :=
  Enc.word rfl (Enc.then_ (Enc.upper _ n) (congrArg (fun n => Instr.shli y d a n) (Enc.lower _ n)))
theorem Enc.shri (y : Bool) (d : BitVec 7) (a : BitVec 9) (n : BitVec 6) : Statement (.shri y d a n) := by
  refine Enc.word rfl ?_
  show decodeShifti _ = _
  simp only [decodeShifti]
  rw [Enc.upper (2 : BitVec 3) n, Enc.lower (2 : BitVec 3) n]
  exact Enc.else_ (by decide) (Enc.then_ rfl rfl)
theorem Enc.roti (y : Bool) (d : BitVec 7) (a : BitVec 9) (n : BitVec 6) : Statement (.roti y d a n) := by
  refine Enc.word rfl ?_
  show decodeShifti _ = _
  simp only [decodeShifti]
  rw [Enc.upper (4 : BitVec 3) n, Enc.lower (4 : BitVec 3) n]
  exact Enc.else_ (by decide) (Enc.else_ (by decide) (Enc.then_ rfl rfl))
theorem Enc.movw (y : Bool) (d : BitVec 7) (i : BitVec 18) : Statement (.movw y d i) :=
  Enc.word rfl (congrArg _ (Enc.join2 i))
theorem Enc.movhi (y : Bool) (d : BitVec 7) (i : BitVec 18) : Statement (.movhi y d i) :=
  Enc.word rfl (congrArg _ (Enc.join2 i))
theorem Enc.icmp (y : Bool) (c : BitVec 4) (p : BitVec 3) (a : BitVec 9) (b : BitVec 9) : Statement (.icmp y c p a b) :=
  Enc.word rfl (congrArg₂ (fun c p => Instr.icmp y c p a b) (Enc.upper c p) (Enc.lower c p))
theorem Enc.icmpi (y : Bool) (c : BitVec 4) (p : BitVec 3) (a : BitVec 9) (i : BitVec 9) : Statement (.icmpi y c p a i) :=
  Enc.word rfl (congrArg₂ (fun c p => Instr.icmpi y c p a i) (Enc.upper c p) (Enc.lower c p))
theorem Enc.sel (y : Bool) (d : BitVec 7) (a : BitVec 9) (b : BitVec 9) : Statement (.sel y d a b) := Enc.word rfl rfl
theorem Enc.not (y : Bool) (d : BitVec 7) (a : BitVec 9) : Statement (.not y d a) := Enc.word rfl rfl
theorem Enc.neg (y : Bool) (d : BitVec 7) (a : BitVec 9) : Statement (.neg y d a) := Enc.word rfl rfl
theorem Enc.abs (y : Bool) (d : BitVec 7) (a : BitVec 9) : Statement (.abs y d a) := Enc.word rfl rfl
theorem Enc.clz (y : Bool) (d : BitVec 7) (a : BitVec 9) : Statement (.clz y d a) := Enc.word rfl rfl
theorem Enc.ctz (y : Bool) (d : BitVec 7) (a : BitVec 9) : Statement (.ctz y d a) := Enc.word rfl rfl
theorem Enc.popc (y : Bool) (d : BitVec 7) (a : BitVec 9) : Statement (.popc y d a) := Enc.word rfl rfl
theorem Enc.brev (y : Bool) (d : BitVec 7) (a : BitVec 9) : Statement (.brev y d a) := Enc.word rfl rfl
theorem Enc.bswap (y : Bool) (d : BitVec 7) (a : BitVec 9) : Statement (.bswap y d a) := Enc.word rfl rfl
theorem Enc.sextb (y : Bool) (d : BitVec 7) (a : BitVec 9) : Statement (.sextb y d a) := Enc.word rfl rfl
theorem Enc.sexth (y : Bool) (d : BitVec 7) (a : BitVec 9) : Statement (.sexth y d a) := Enc.word rfl rfl
theorem Enc.zextb (y : Bool) (d : BitVec 7) (a : BitVec 9) : Statement (.zextb y d a) := Enc.word rfl rfl
theorem Enc.zexth (y : Bool) (d : BitVec 7) (a : BitVec 9) : Statement (.zexth y d a) := Enc.word rfl rfl
theorem Enc.bfx (y : Bool) (d : BitVec 7) (a : BitVec 9) (b : BitVec 9) : Statement (.bfx y d a b) := Enc.word rfl rfl
theorem Enc.bfi (y : Bool) (d : BitVec 7) (a : BitVec 9) (b : BitVec 9) : Statement (.bfi y d a b) := Enc.word rfl rfl
theorem Enc.ballot (y : Bool) (d : BitVec 7) (a : BitVec 9) : Statement (.ballot y d a) := Enc.word rfl rfl
theorem Enc.anyl (y : Bool) (d : BitVec 7) (a : BitVec 9) : Statement (.anyl y d a) := Enc.word rfl rfl
theorem Enc.alll (y : Bool) (d : BitVec 7) (a : BitVec 9) : Statement (.alll y d a) := Enc.word rfl rfl
theorem Enc.popl (y : Bool) (d : BitVec 7) (a : BitVec 9) : Statement (.popl y d a) := Enc.word rfl rfl
theorem Enc.firstl (y : Bool) (d : BitVec 7) (a : BitVec 9) : Statement (.firstl y d a) := Enc.word rfl rfl
theorem Enc.readl (y : Bool) (d : BitVec 7) (a : BitVec 9) : Statement (.readl y d a) := Enc.word rfl rfl
theorem Enc.psumi (y : Bool) (d : BitVec 7) (a : BitVec 9) : Statement (.psumi y d a) := Enc.word rfl rfl
theorem Enc.rsumi (y : Bool) (d : BitVec 7) (a : BitVec 9) : Statement (.rsumi y d a) := Enc.word rfl rfl
theorem Enc.rmin (y : Bool) (d : BitVec 7) (a : BitVec 9) : Statement (.rmin y d a) := Enc.word rfl rfl
theorem Enc.rmax (y : Bool) (d : BitVec 7) (a : BitVec 9) : Statement (.rmax y d a) := Enc.word rfl rfl
theorem Enc.psumf (y : Bool) (d : BitVec 7) (a : BitVec 9) : Statement (.psumf y d a) := Enc.word rfl rfl
theorem Enc.rsumf (y : Bool) (d : BitVec 7) (a : BitVec 9) : Statement (.rsumf y d a) := Enc.word rfl rfl
theorem Enc.shuf (y : Bool) (d : BitVec 7) (a : BitVec 9) (b : BitVec 9) : Statement (.shuf y d a b) :=
  Enc.word rfl rfl
theorem Enc.bflyx (y : Bool) (d : BitVec 7) (a : BitVec 9) (j : BitVec 9) : Statement (.bflyx y d a j) :=
  Enc.word rfl rfl
theorem Enc.engCpy (y : Bool) (d : BitVec 7) (a : BitVec 9) : Statement (.engCpy y d a) := Enc.word rfl rfl
theorem Enc.engCpy2d (y : Bool) (d : BitVec 7) (a : BitVec 9) : Statement (.engCpy2d y d a) := Enc.word rfl rfl
theorem Enc.engCpyg (y : Bool) (d : BitVec 7) (a : BitVec 9) : Statement (.engCpyg y d a) := Enc.word rfl rfl
theorem Enc.engCpys (y : Bool) (d : BitVec 7) (a : BitVec 9) : Statement (.engCpys y d a) := Enc.word rfl rfl
theorem Enc.engFill (y : Bool) (d : BitVec 7) (a : BitVec 9) : Statement (.engFill y d a) := Enc.word rfl rfl
theorem Enc.engKvc (y : Bool) (d : BitVec 7) (a : BitVec 9) : Statement (.engKvc y d a) := Enc.word rfl rfl
theorem Enc.engSelp (y : Bool) (d : BitVec 7) (a : BitVec 9) : Statement (.engSelp y d a) := Enc.word rfl rfl
theorem Enc.engSelk (y : Bool) (d : BitVec 7) (a : BitVec 9) : Statement (.engSelk y d a) := Enc.word rfl rfl
theorem Enc.engRdx (y : Bool) (d : BitVec 7) (a : BitVec 9) : Statement (.engRdx y d a) := Enc.word rfl rfl
theorem Enc.engLreg (y : Bool) (d : BitVec 7) (a : BitVec 9) : Statement (.engLreg y d a) := Enc.word rfl rfl
theorem Enc.engLrev (y : Bool) (d : BitVec 7) (a : BitVec 9) : Statement (.engLrev y d a) := Enc.word rfl rfl
theorem Enc.fadd (y : Bool) (d : BitVec 7) (a : BitVec 9) (b : BitVec 9) : Statement (.fadd y d a b) :=
  Enc.word rfl rfl
theorem Enc.fsub (y : Bool) (d : BitVec 7) (a : BitVec 9) (b : BitVec 9) : Statement (.fsub y d a b) :=
  Enc.word rfl rfl
theorem Enc.fmul (y : Bool) (d : BitVec 7) (a : BitVec 9) (b : BitVec 9) : Statement (.fmul y d a b) :=
  Enc.word rfl rfl
theorem Enc.fma (y : Bool) (d : BitVec 7) (a : BitVec 9) (b : BitVec 9) : Statement (.fma y d a b) := Enc.word rfl rfl
theorem Enc.fmin (y : Bool) (d : BitVec 7) (a : BitVec 9) (b : BitVec 9) : Statement (.fmin y d a b) :=
  Enc.word rfl rfl
theorem Enc.fmax (y : Bool) (d : BitVec 7) (a : BitVec 9) (b : BitVec 9) : Statement (.fmax y d a b) :=
  Enc.word rfl rfl
theorem Enc.fcmp (y : Bool) (c : BitVec 4) (p : BitVec 3) (a : BitVec 9) (b : BitVec 9) : Statement (.fcmp y c p a b) :=
  Enc.word rfl (congrArg₂ (fun c p => Instr.fcmp y c p a b) (Enc.upper c p) (Enc.lower c p))
theorem Enc.fneg (y : Bool) (d : BitVec 7) (a : BitVec 9) : Statement (.fneg y d a) := Enc.word rfl rfl
theorem Enc.fabs (y : Bool) (d : BitVec 7) (a : BitVec 9) : Statement (.fabs y d a) := Enc.word rfl rfl
theorem Enc.fsqrt (y : Bool) (d : BitVec 7) (a : BitVec 9) : Statement (.fsqrt y d a) := Enc.word rfl rfl
theorem Enc.frcp (y : Bool) (d : BitVec 7) (a : BitVec 9) : Statement (.frcp y d a) := Enc.word rfl rfl
theorem Enc.frsq (y : Bool) (d : BitVec 7) (a : BitVec 9) : Statement (.frsq y d a) := Enc.word rfl rfl
theorem Enc.fexp2 (y : Bool) (d : BitVec 7) (a : BitVec 9) : Statement (.fexp2 y d a) := Enc.word rfl rfl
theorem Enc.flog2 (y : Bool) (d : BitVec 7) (a : BitVec 9) : Statement (.flog2 y d a) := Enc.word rfl rfl
theorem Enc.fsinp (y : Bool) (d : BitVec 7) (a : BitVec 9) : Statement (.fsinp y d a) := Enc.word rfl rfl
theorem Enc.fcosp (y : Bool) (d : BitVec 7) (a : BitVec 9) : Statement (.fcosp y d a) := Enc.word rfl rfl
theorem Enc.ffloor (y : Bool) (d : BitVec 7) (a : BitVec 9) : Statement (.ffloor y d a) := Enc.word rfl rfl
theorem Enc.fceil (y : Bool) (d : BitVec 7) (a : BitVec 9) : Statement (.fceil y d a) := Enc.word rfl rfl
theorem Enc.ftrunc (y : Bool) (d : BitVec 7) (a : BitVec 9) : Statement (.ftrunc y d a) := Enc.word rfl rfl
theorem Enc.frint (y : Bool) (d : BitVec 7) (a : BitVec 9) : Statement (.frint y d a) := Enc.word rfl rfl
theorem Enc.fclass (y : Bool) (d : BitVec 7) (a : BitVec 9) : Statement (.fclass y d a) := Enc.word rfl rfl
theorem Enc.cvt (y : Bool) (d : BitVec 7) (a : BitVec 9) (t : BitVec 4) (r : BitVec 3) (s : BitVec 1) : Statement (.cvt y d a t r s) :=
  Enc.cvtRow y d a t r s
theorem Enc.cvtW (y : Bool) (d : BitVec 7) (a : BitVec 9) (r : BitVec 1) : Statement (.cvtW y d a r) := by
  obtain ⟨h, hr⟩ := Enc.cvtWFields r
  refine Enc.word rfl ?_
  show decodeCvt _ = _
  simp only [decodeCvt]
  rw [if_pos h, hr]
theorem Enc.fdiv (y : Bool) (d : BitVec 7) (a : BitVec 9) (b : BitVec 9) : Statement (.fdiv y d a b) :=
  Enc.word rfl rfl
theorem Enc.mov (y : Bool) (d : BitVec 7) (a : BitVec 9) : Statement (.mov y d a) := Enc.word rfl rfl
theorem Enc.getm (y : Bool) (d : BitVec 7) : Statement (.getm y d) := Enc.word rfl rfl
theorem Enc.getf (y : Bool) (d : BitVec 7) : Statement (.getf y d) := Enc.word rfl rfl
theorem Enc.getx (y : Bool) (d : BitVec 7) : Statement (.getx y d) := Enc.word rfl rfl
theorem Enc.getg (y : Bool) (d : BitVec 7) : Statement (.getg y d) := Enc.word rfl rfl
theorem Enc.getl (y : Bool) (d : BitVec 7) : Statement (.getl y d) := Enc.word rfl rfl
theorem Enc.setl (y : Bool) (a : BitVec 9) : Statement (.setl y a) := Enc.word rfl rfl
theorem Enc.setmode (y : Bool) (a : BitVec 9) : Statement (.setmode y a) := Enc.word rfl rfl
theorem Enc.setfmt (y : Bool) (a : BitVec 9) : Statement (.setfmt y a) := Enc.word rfl rfl
theorem Enc.setexec (y : Bool) (a : BitVec 9) : Statement (.setexec y a) := Enc.word rfl rfl
theorem Enc.setgang (y : Bool) (a : BitVec 9) : Statement (.setgang y a) := Enc.word rfl rfl
theorem Enc.qrnd (y : Bool) (d : BitVec 7) (a : BitVec 9) (b : BitVec 9) : Statement (.qrnd y d a b) :=
  Enc.word rfl rfl
theorem Enc.tanc (y : Bool) (d : BitVec 7) (a : BitVec 9) : Statement (.tanc y d a) := Enc.word rfl rfl
theorem Enc.tdep (y : Bool) (d : BitVec 7) (a : BitVec 9) : Statement (.tdep y d a) := Enc.word rfl rfl
theorem Enc.tpath (y : Bool) (d : BitVec 7) (a : BitVec 9) : Statement (.tpath y d a) := Enc.word rfl rfl
theorem Enc.mma (y : Bool) (t : BitVec 4) (a : BitVec 9) (b : BitVec 9) : Statement (.mma y t a b) :=
  Enc.word rfl (Enc.then_ (Enc.upper _ t) (congrArg (fun t => Instr.mma y t a b) (Enc.lower _ t)))
theorem Enc.tzero (y : Bool) (t : BitVec 4) : Statement (.tzero y t) :=
  Enc.word rfl (Enc.then_ ⟨Enc.upper _ t, rfl⟩ (congrArg (fun t => Instr.tzero y t) (Enc.lower _ t)))
theorem Enc.tld (y : Bool) (t : BitVec 4) (a : BitVec 9) : Statement (.tld y t a) :=
  Enc.word rfl (Enc.then_ (Enc.upper _ t) (congrArg (fun t => Instr.tld y t a) (Enc.lower _ t)))
theorem Enc.tst (y : Bool) (t : BitVec 4) (a : BitVec 9) : Statement (.tst y t a) :=
  Enc.word rfl (Enc.then_ (Enc.upper _ t) (congrArg (fun t => Instr.tst y t a) (Enc.lower _ t)))
theorem Enc.trd (y : Bool) (d : BitVec 7) (a : BitVec 9) : Statement (.trd y d a) := Enc.word rfl rfl
theorem Enc.twr (y : Bool) (d : BitVec 7) (a : BitVec 9) : Statement (.twr y d a) := Enc.word rfl rfl
theorem Enc.metaSlot (y : Bool) (a : BitVec 9) : Statement (.metaSlot y a) := Enc.word rfl rfl
theorem Enc.scale (y : Bool) (a : BitVec 9) : Statement (.scale y a) := Enc.word rfl rfl
theorem Enc.tcvt (y : Bool) (d : BitVec 7) (a : BitVec 9) : Statement (.tcvt y d a) := Enc.word rfl rfl
theorem Enc.trowmax (y : Bool) (d : BitVec 7) (a : BitVec 9) : Statement (.trowmax y d a) := Enc.word rfl rfl
theorem Enc.ld (y : Bool) (d : BitVec 7) (a : BitVec 9) (s : BitVec 3) (o : BitVec 6) : Statement (.ld y d a s o) :=
  Enc.word rfl (congrArg₂ (fun s o => Instr.ld y d a s o) (Enc.upper s o) (Enc.lower s o))
theorem Enc.st (y : Bool) (d : BitVec 7) (a : BitVec 9) (s : BitVec 3) (o : BitVec 6) : Statement (.st y d a s o) :=
  Enc.word rfl (congrArg₂ (fun s o => Instr.st y d a s o) (Enc.upper s o) (Enc.lower s o))
theorem Enc.ldx (y : Bool) (d : BitVec 7) (a : BitVec 9) (b : BitVec 9) : Statement (.ldx y d a b) := Enc.word rfl rfl
theorem Enc.stx (y : Bool) (d : BitVec 7) (a : BitVec 9) (b : BitVec 9) : Statement (.stx y d a b) := Enc.word rfl rfl
theorem Enc.atom (y : Bool) (o : BitVec 4) (s : BitVec 3) (a : BitVec 9) (b : BitVec 9) : Statement (.atom y o s a b) :=
  Enc.word rfl (congrArg₂ (fun o s => Instr.atom y o s a b) (Enc.upper o s) (Enc.lower o s))
theorem Enc.cas (y : Bool) (d : BitVec 7) (a : BitVec 9) (b : BitVec 9) : Statement (.cas y d a b) := Enc.word rfl rfl
theorem Enc.post (y : Bool) (o : BitVec 4) (s : BitVec 3) (a : BitVec 9) (b : BitVec 9) : Statement (.post y o s a b) :=
  Enc.word rfl (congrArg₂ (fun o s => Instr.post y o s a b) (Enc.upper o s) (Enc.lower o s))
theorem Enc.fetch (y : Bool) (z : BitVec 3) (a : BitVec 9) (b : BitVec 9) : Statement (.fetch y z a b) :=
  Enc.word rfl (Enc.then_ (Enc.lower z _) (congrArg (fun z => Instr.fetch y z a b) (Enc.upper z _)))
theorem Enc.fence (y : Bool) (d : BitVec 7) (p : BitVec 6) (s : BitVec 3) : Statement (.fence y d p s) := by
  refine Enc.word rfl ?_
  show decodeFence _ = _
  simp only [decodeFence]
  rw [if_pos trivial, Enc.upper, Enc.lower]
theorem Enc.waitt (y : Bool) (a : BitVec 9) : Statement (.waitt y a) := Enc.word rfl rfl
theorem Enc.waitc (y : Bool) (a : BitVec 9) (p : BitVec 3) : Statement (.waitc y a p) := by
  obtain ⟨h0, h1, h2⟩ := Enc.waitcFields p
  refine Enc.word rfl ?_
  show decodeWait _ = _
  simp only [decodeWait]
  rw [if_neg (fun h => h0 h.2), if_pos ⟨trivial, h1⟩, h2]
theorem Enc.mon (y : Bool) (d : BitVec 7) (a : BitVec 9) (b : BitVec 9) : Statement (.mon y d a b) := Enc.word rfl rfl
theorem Enc.binit (y : Bool) (a : BitVec 9) : Statement (.binit y a) := Enc.word rfl rfl
theorem Enc.barv (y : Bool) (a : BitVec 9) : Statement (.barv y a) := Enc.word rfl rfl
theorem Enc.bwait (y : Bool) (d : BitVec 7) (a : BitVec 9) : Statement (.bwait y d a) := Enc.word rfl rfl
theorem Enc.bsync (y : Bool) (d : BitVec 7) (a : BitVec 9) : Statement (.bsync y d a) := Enc.word rfl rfl
theorem Enc.fbar (y : Bool) (a : BitVec 9) : Statement (.fbar y a) := Enc.word rfl rfl
theorem Enc.bqry (y : Bool) (d : BitVec 7) (a : BitVec 9) : Statement (.bqry y d a) := Enc.word rfl rfl
theorem Enc.jmp (y : Bool) (o : BitVec 18) : Statement (.jmp y o) := by
  refine Enc.word rfl ?_
  show decodeBr _ = _
  simp only [decodeBr]
  rw [if_pos trivial, Enc.join2]
theorem Enc.call (y : Bool) (o : BitVec 18) : Statement (.call y o) := by
  refine Enc.word rfl ?_
  show decodeBr _ = _
  simp only [decodeBr]
  rw [if_neg (by decide), if_pos trivial, Enc.join2]
theorem Enc.bra (y : Bool) (p : BitVec 3) (n : BitVec 1) (o : BitVec 18) : Statement (.bra y p n o) := by
  obtain ⟨h0, h1, h2, h3, h4⟩ := Enc.branchFields p n 2 (by decide)
  refine Enc.word rfl ?_
  show decodeBr _ = _
  simp only [decodeBr]
  rw [if_neg h0, if_neg h1, if_pos h2, h3, h4, Enc.join2]
theorem Enc.brl (y : Bool) (p : BitVec 3) (n : BitVec 1) (o : BitVec 18) : Statement (.brl y p n o) := by
  obtain ⟨h0, h1, h2, h3, h4⟩ := Enc.branchFields p n 3 (by decide)
  refine Enc.word rfl ?_
  show decodeBr _ = _
  simp only [decodeBr]
  rw [if_neg h0, if_neg h1, if_neg (by rw [h2]; decide), if_pos h2, h3, h4, Enc.join2]
theorem Enc.brd (y : Bool) (p : BitVec 3) (n : BitVec 1) (o : BitVec 18) : Statement (.brd y p n o) := by
  obtain ⟨h0, h1, h2, h3, h4⟩ := Enc.branchFields p n 4 (by decide)
  refine Enc.word rfl ?_
  show decodeBr _ = _
  simp only [decodeBr]
  rw [if_neg h0, if_neg h1, if_neg (by rw [h2]; decide), if_neg (by rw [h2]; decide), if_pos h2, h3, h4, Enc.join2]
theorem Enc.jmpr (y : Bool) (a : BitVec 9) : Statement (.jmpr y a) := Enc.word rfl rfl
theorem Enc.callr (y : Bool) (a : BitVec 9) : Statement (.callr y a) := Enc.word rfl rfl
theorem Enc.ret (y : Bool) : Statement (.ret y) := Enc.word rfl rfl
theorem Enc.loop (y : Bool) (c : BitVec 6) (l : BitVec 5) (step : BitVec 32) : Statement (.loop y c l step) :=
  Enc.word rfl (Enc.then_ ⟨Enc.upper _ c, Enc.lower l _⟩ (congrArg₂ (fun c l => Instr.loop y c l step) (Enc.lower _ c) (Enc.upper l _)))
theorem Enc.nop (y : Bool) : Statement (.nop y) := Enc.word rfl rfl
theorem Enc.exit (y : Bool) : Statement (.exit y) := Enc.word rfl rfl
theorem Enc.exitn (y : Bool) (a : BitVec 9) : Statement (.exitn y a) := Enc.word rfl rfl
theorem Enc.spawn (y : Bool) (a : BitVec 9) : Statement (.spawn y a) := Enc.word rfl rfl
theorem Enc.join (y : Bool) : Statement (.join y) := Enc.word rfl rfl
theorem Enc.yield (y : Bool) : Statement (.yield y) := Enc.word rfl rfl
theorem Enc.trap (y : Bool) (a : BitVec 9) : Statement (.trap y a) := Enc.word rfl rfl
theorem Enc.tret (y : Bool) (a : BitVec 9) : Statement (.tret y a) := Enc.word rfl rfl
theorem Enc.rdclk (y : Bool) (d : BitVec 7) : Statement (.rdclk y d) := Enc.word rfl rfl
theorem Enc.launch (y : Bool) (d : BitVec 7) (a : BitVec 9) : Statement (.launch y d a) := Enc.word rfl rfl
theorem Enc.nopre (y : Bool) : Statement (.nopre y) := Enc.word rfl rfl
theorem Enc.preok (y : Bool) : Statement (.preok y) := Enc.word rfl rfl
theorem Enc.qtab (y : Bool) (d : BitVec 7) (a : BitVec 9) : Statement (.qtab y d a) := Enc.word rfl rfl
theorem Enc.pcown (y : Bool) (d : BitVec 7) (a : BitVec 9) : Statement (.pcown y d a) := Enc.word rfl rfl
theorem Enc.pcrel (y : Bool) (a : BitVec 9) : Statement (.pcrel y a) := Enc.word rfl rfl
theorem Enc.setth (y : Bool) (a : BitVec 9) : Statement (.setth y a) := Enc.word rfl rfl
theorem Enc.ctxsave (y : Bool) (d : BitVec 7) (a : BitVec 9) : Statement (.ctxsave y d a) := Enc.word rfl rfl
theorem Enc.ctxld (y : Bool) (d : BitVec 7) (a : BitVec 9) : Statement (.ctxld y d a) := Enc.word rfl rfl
theorem Enc.haltf (y : Bool) (d : BitVec 7) (a : BitVec 9) : Statement (.haltf y d a) := Enc.word rfl rfl
theorem Enc.spindleYieldOnStall (core quadrant spindle : Nat) : Statement (.spindleYieldOnStall core quadrant spindle) :=
  Enc.event rfl
theorem Enc.loadDataReturn (core op : Nat) : Statement (.loadDataReturn core op) := Enc.event rfl
theorem Enc.nearAccessPerformed (core op : Nat) : Statement (.nearAccessPerformed core op) := Enc.event rfl
theorem Enc.monitorReevaluate (core res slot : Nat) : Statement (.monitorReevaluate core res slot) := Enc.event rfl
theorem Enc.spawnBinTimerExpiry (core res bin : Nat) : Statement (.spawnBinTimerExpiry core res bin) := Enc.event rfl
theorem Enc.spawnBinLaunch (core res : Nat) : Statement (.spawnBinLaunch core res) := Enc.event rfl
theorem Enc.spawnDeadlock (core res : Nat) : Statement (.spawnDeadlock core res) := Enc.event rfl
theorem Enc.longWaitSwap (core res : Nat) : Statement (.longWaitSwap core res) := Enc.event rfl
theorem Enc.quantumEnd (core res : Nat) : Statement (.quantumEnd core res) := Enc.event rfl
theorem Enc.nopreBudgetExpiry (core res slot : Nat) : Statement (.nopreBudgetExpiry core res slot) := Enc.event rfl
theorem Enc.teamSaveComplete (core res : Nat) : Statement (.teamSaveComplete core res) := Enc.event rfl
theorem Enc.teamRestore (core res : Nat) : Statement (.teamRestore core res) := Enc.event rfl
theorem Enc.teamEnd (core res : Nat) : Statement (.teamEnd core res) := Enc.event rfl
theorem Enc.gangStart (core res group : Nat) : Statement (.gangStart core res group) := Enc.event rfl
theorem Enc.mmaComplete (core res run : Nat) : Statement (.mmaComplete core res run) := Enc.event rfl
theorem Enc.walkComplete (core walk : Nat) : Statement (.walkComplete core walk) := Enc.event rfl
theorem Enc.faultService (fault : Nat) : Statement (.faultService fault) := Enc.event rfl
theorem Enc.invalidation (inv die : Nat) : Statement (.invalidation inv die) := Enc.event rfl
theorem Enc.invalidationAck (inv die : Nat) : Statement (.invalidationAck inv die) := Enc.event rfl
theorem Enc.invalidationAckReceipt (inv die : Nat) : Statement (.invalidationAckReceipt inv die) := Enc.event rfl
theorem Enc.engineAccept (core res : Nat) : Statement (.engineAccept core res) := Enc.event rfl
theorem Enc.baseDieCommandStart (stack : Nat) : Statement (.baseDieCommandStart stack) := Enc.event rfl
theorem Enc.engCommandComplete (core res entry : Nat) : Statement (.engCommandComplete core res entry) :=
  Enc.event rfl
theorem Enc.fenceComplete (core res slot fslot : Nat) : Statement (.fenceComplete core res slot fslot) :=
  Enc.event rfl
theorem Enc.bnkCommandComplete (pch : Nat) : Statement (.bnkCommandComplete pch) := Enc.event rfl
theorem Enc.farRetransmit (tag : Nat) : Statement (.farRetransmit tag) := Enc.event rfl
theorem Enc.deliveryFailure (tag : Nat) : Statement (.deliveryFailure tag) := Enc.event rfl
theorem Enc.farCopyAgeExpiry (copy : Nat) : Statement (.farCopyAgeExpiry copy) := Enc.event rfl
theorem Enc.routerForward (copy next : Nat) (crcBad : Bool) : Statement (.routerForward copy next crcBad) :=
  Enc.event rfl
theorem Enc.homeCopyReceipt (copy : Nat) : Statement (.homeCopyReceipt copy) := Enc.event rfl
theorem Enc.farAckReceipt (ack : Nat) (lost : Bool) : Statement (.farAckReceipt ack lost) := Enc.event rfl
theorem Enc.fetchLandingReport (tag : Nat) : Statement (.fetchLandingReport tag) := Enc.event rfl
theorem Enc.fetchLegFailure (tag : Nat) : Statement (.fetchLegFailure tag) := Enc.event rfl
theorem Enc.filterTagExpiry (home tag : Nat) : Statement (.filterTagExpiry home tag) := Enc.event rfl
theorem Enc.regionFree (stack base : Nat) : Statement (.regionFree stack base) := Enc.event rfl
theorem Enc.farSendRelease (agent : Nat) : Statement (.farSendRelease agent) := Enc.event rfl
theorem Enc.residencySwitchRequest (core : Nat) : Statement (.residencySwitchRequest core) := Enc.event rfl
theorem Enc.residencyIdleSwitch (core : Nat) : Statement (.residencyIdleSwitch core) := Enc.event rfl
theorem Enc.drainComplete (core : Nat) : Statement (.drainComplete core) := Enc.event rfl
theorem Enc.dualWrite (core : Nat) (value : BitVec 32) : Statement (.dualWrite core value) := Enc.event rfl
theorem Enc.swreq (core : Nat) (value : BitVec 32) : Statement (.swreq core value) := Enc.event rfl
theorem Enc.quantWrite (core : Nat) (value : BitVec 32) : Statement (.quantWrite core value) := Enc.event rfl
theorem Enc.registerWrite (space : RegSpace) (offset : Nat) (value : BitVec 64) : Statement (.registerWrite space offset value) :=
  Enc.event rfl
theorem Enc.queueEnableWrite (queue : Nat) (value : BitVec 32) : Statement (.queueEnableWrite queue value) :=
  Enc.event rfl
theorem Enc.arvadd (queue : Nat) (value : BitVec 32) : Statement (.arvadd queue value) := Enc.event rfl
theorem Enc.queueSlotWrite (queue slot offset : Nat) (bytes : List (BitVec 8)) : Statement (.queueSlotWrite queue slot offset bytes) :=
  Enc.event rfl
theorem Enc.queueConsume (queue : Nat) : Statement (.queueConsume queue) := Enc.event rfl
theorem Enc.teamPlace (device : Nat) : Statement (.teamPlace device) := Enc.event rfl
theorem Enc.placementAgeing (device list : Nat) : Statement (.placementAgeing device list) := Enc.event rfl
theorem Enc.testRun (core : Nat) (value : BitVec 32) : Statement (.testRun core value) := Enc.event rfl
theorem Enc.infieldTestStart (pair : Nat) : Statement (.infieldTestStart pair) := Enc.event rfl
theorem Enc.infieldTestComplete (pair : Nat) (result : TestResult) : Statement (.infieldTestComplete pair result) :=
  Enc.event rfl
theorem Enc.uncorrectableError (place : ErrorPlace) : Statement (.uncorrectableError place) := Enc.event rfl
theorem Enc.homeRestartPeriodEnd (stack : Nat) : Statement (.homeRestartPeriodEnd stack) := Enc.event rfl
theorem Enc.epochEnd (die : Nat) : Statement (.epochEnd die) := Enc.event rfl
theorem Enc.portLinkChange (port : Nat) (up : Bool) : Statement (.portLinkChange port up) := Enc.event rfl
theorem Enc.portIngressPacket (port : Nat) (sender : Nat) (packet : List (BitVec 8)) : Statement (.portIngressPacket port sender packet) :=
  Enc.event rfl
theorem Enc.peerEntryFetchComplete (pidx : Nat) : Statement (.peerEntryFetchComplete pidx) := Enc.event rfl
theorem Enc.go (fn : Nat) (value : BitVec 32) : Statement (.go fn value) := Enc.event rfl
theorem Enc.eventRingConfigure (fn offset : Nat) (value : BitVec 64) : Statement (.eventRingConfigure fn offset value) :=
  Enc.event rfl
theorem Enc.moduleReset (cause : ResetCause) : Statement (.moduleReset cause) := Enc.event rfl
theorem Enc.computeDieReset (die : Nat) : Statement (.computeDieReset die) := Enc.event rfl
theorem Enc.baseDieReset (stack : Nat) : Statement (.baseDieReset stack) := Enc.event rfl
theorem Enc.portReset (port : Nat) : Statement (.portReset port) := Enc.event rfl
theorem Enc.bootStageAdvance (failedStacks failedDies : List Nat) : Statement (.bootStageAdvance failedStacks failedDies) :=
  Enc.event rfl
theorem Enc.powerSample (watts : Nat) (hottest : Nat) : Statement (.powerSample watts hottest) := Enc.event rfl
theorem Enc.thermalTrip (die : Nat) : Statement (.thermalTrip die) := Enc.event rfl
theorem Enc.unassignedFunctionCode (w : BitVec 32) : Statement (.unassignedFunctionCode w) := Enc.unassigned w
theorem Enc.computeDieResetRelease (die : Nat) : Statement (.computeDieResetRelease die) := Enc.event rfl
theorem Enc.baseDieResetRelease (stack : Nat) : Statement (.baseDieResetRelease stack) := Enc.event rfl
theorem Enc.createContext : Statement .createContext := Enc.event rfl
theorem Enc.destroyContext : Statement .destroyContext := Enc.event rfl
theorem Enc.map : Statement .map := Enc.event rfl
theorem Enc.unmap : Statement .unmap := Enc.event rfl
theorem Enc.registerOnDemandRange : Statement .registerOnDemandRange := Enc.event rfl
theorem Enc.faultRetry : Statement .faultRetry := Enc.event rfl
theorem Enc.faultAbort : Statement .faultAbort := Enc.event rfl
theorem Enc.createGraph : Statement .createGraph := Enc.event rfl
theorem Enc.editGraph : Statement .editGraph := Enc.event rfl
theorem Enc.writePeerEntry : Statement .writePeerEntry := Enc.event rfl
theorem Enc.assignQueue : Statement .assignQueue := Enc.event rfl
theorem Enc.resync : Statement .resync := Enc.event rfl
theorem Enc.cancelLaunch : Statement .cancelLaunch := Enc.event rfl
theorem Enc.firmwareDownload : Statement .firmwareDownload := Enc.event rfl
theorem Enc.getVersion : Statement .getVersion := Enc.event rfl
theorem Enc.getCapabilities : Statement .getCapabilities := Enc.event rfl
theorem Enc.negotiateAlgorithms : Statement .negotiateAlgorithms := Enc.event rfl
theorem Enc.getDigests : Statement .getDigests := Enc.event rfl
theorem Enc.getCertificate : Statement .getCertificate := Enc.event rfl
theorem Enc.challenge : Statement .challenge := Enc.event rfl
theorem Enc.getMeasurements : Statement .getMeasurements := Enc.event rfl
theorem Enc.unsupportedRequest : Statement .unsupportedRequest := Enc.event rfl

end Sys2Proof.Laws
end

