-- ==== Sys2Proof/Safety.lean ====
section
/-! DEFINITION. The terms that statements about the machine use: when an instruction may issue, what a result
does to a fibre, and what a step leaves as it was. -/

namespace Sys2Proof.Machine

open Sys2Proof

/-! ### When an instruction may issue -/

/-- The fields of an instruction pass every check of 06 R151 up to DEADREG: the encoding and the issue state
give no ILL, no access is still to write or read a register that must not change, and every source is live. -/
structure View.Ready (v : View) (fm : Form) : Prop where
  encoding : fm.encOk = true
  state : v.formOk fm = true
  settled : v.owed (v.sourceRegs fm ++ v.destRegs fm) = false
  idle : v.busy (v.sourceRegs fm ++ v.destRegs fm) = false
  free : v.held (v.destRegs fm) = false
  live : v.liveOk fm = .ok ()

/-- As `Ready`, but for the live bits: a source may be dead (03 R65). -/
structure View.ReadyButLive (v : View) (fm : Form) : Prop where
  encoding : fm.encOk = true
  state : v.formOk fm = true
  settled : v.owed (v.sourceRegs fm ++ v.destRegs fm) = false
  idle : v.busy (v.sourceRegs fm ++ v.destRegs fm) = false
  free : v.held (v.destRegs fm) = false

/-- An instruction takes a trap of a kind in place of its effect (17 R355). -/
def View.Traps (v : View) (s : State) (i : Instr) (k : TrapKind) : Prop :=
  ∃ t : Trap, t.kind = k ∧ exec i s = .next (s.takeTrap v t)

/-- An access traps on the lanes that fail a check, and names the address of the lowest of them (09 R219, 17 R358). -/
def View.TrapsLanes (v : View) (s : State) (i : Instr) (k : TrapKind) (ls : List LanePlace) (bad : LanePlace → Prop) : Prop :=
  ∃ (t : Trap) (x : LanePlace), t.kind = k ∧ x ∈ ls ∧ bad x ∧ (∀ q ∈ ls, bad q → x.lane ≤ q.lane) ∧ t.addr.toNat = x.va ∧
    (∀ l, l < 64 → (t.lanes.getLsbD l = true ↔ ∃ q ∈ ls, q.lane = l ∧ bad q)) ∧ exec i s = .next (s.takeTrap v t)

/-- No operand is poisoned in a lane that is read (17 R363). -/
def Clean (xs : List Opnd) (m : Mask) : Prop := ∀ x ∈ xs, x.poison &&& m = 0

/-! ### What changes and what does not -/

/-- Nothing but one fibre and the shared window of its spindle changes: every byte of memory, every other core,
fibre, window and unit, and the control die are as they were. -/
structure View.OnlyFibre (v : View) (s t : State) : Prop where
  rest : t = { s with cores := t.cores }
  bytes : ∀ a, readByte t.mem a = readByte s.mem a
  others : ∀ n, n ≠ v.who.core → t.core n = s.core n
  core : t.core v.who.core = (s.core v.who.core).setRes v.who.res
    { s.res v.who.core v.who.res with
      slots := (t.res v.who.core v.who.res).slots, windows := (t.res v.who.core v.who.res).windows }
  slots : ∀ sl, sl ≠ v.who.slot → t.fibre v.who.core v.who.res sl = s.fibre v.who.core v.who.res sl
  windows : ∀ k, k ≠ spindleKey v.who.slot →
    kget (t.res v.who.core v.who.res).windows k = kget (s.res v.who.core v.who.res).windows k

/-- Nothing but one fibre changes, and it becomes `f`. -/
def View.BecomesFibre (v : View) (s t : State) (f : Fibre) : Prop :=
  v.OnlyFibre s t ∧ t.fibre v.who.core v.who.res v.who.slot = some f ∧
    (t.res v.who.core v.who.res).windows = (s.res v.who.core v.who.res).windows

/-! ### Registers after an instruction -/

/-- Whether a last-use mark names a register (03 R58, R64). -/
def View.marked (v : View) (fm : Form) (id : RegId) : Bool :=
  fm.uses.any fun u => lastUse u.field && ((v.srcOf u).regs u.n).contains id

/-- A register that nothing writes: dead after a last use, else as it was (03 R64). -/
def View.used (v : View) (fm : Form) (id : RegId) : Reg :=
  if v.marked fm id then (v.reg id).kill else v.reg id

/-- The registers that a result goes to, with the part that each takes (03 R57, R61). -/
def View.parts (v : View) (d : BitVec 7) (r : Result) : List (RegId × Value) :=
  match (v.dest d).regs (if r.wide then 2 else 1) with
  | [x] => [(x, r.lo)]
  | [x, y] => [(x, r.lo), (y, r.hi)]
  | _ => []

/-- What a part does to the register it goes to, which a last use of the instruction has made dead (03 R64, R68 to R70). -/
def View.takes (v : View) (fm : Form) (id : RegId) (x : Value) : Taken := (v.used fm id).take v.width v.active v.fib.lanes x

/-- No part of a result raises SHAPE (03 R68, R70). -/
def View.Fits (v : View) (fm : Form) (d : BitVec 7) (r : Result) : Prop := ∀ p ∈ v.parts d r, v.takes fm p.1 p.2 ≠ .shape

/-- A register after an instruction with a result: what it takes, else what a last use leaves. -/
def View.after (v : View) (fm : Form) (d : BitVec 7) (r : Result) (id : RegId) : Reg :=
  match (v.parts d r).find? fun p => p.1 == id with
  | some p =>
    match v.takes fm id p.2 with
    | .writes x => x
    | _ => v.used fm id
  | none => v.used fm id

/-- A main or operand-file register. -/
def RegId.inFile : RegId → Bool
  | .v _ => true
  | .o _ => true
  | _ => false

/-- The issuing fibre goes on after its instruction with nothing changed but main and operand-file registers:
its pc advances, and its plies, lanes, masks, stacks, predicates, tiles, latch `lm` and special registers stay. -/
def Fibre.GoesOn (f g : Fibre) (ply : Nat) : Prop :=
  g = { f.retire ply with regs := { f.regs with v := g.regs.v, o := g.regs.o } }

/-- As `GoesOn`, `la` taking a value in the lanes of a mask and keeping the others (03 R62). -/
def Fibre.GoesOnLa (f g : Fibre) (ply w : Nat) (act : Mask) (x : Nat → DWord) : Prop :=
  g = { f.retire ply with regs := { f.regs with
    v := g.regs.v, o := g.regs.o, la := g.regs.la, laPoison := f.regs.laPoison &&& ~~~act } } ∧
  ∀ l, l < w → g.regs.la.getD l 0 = if act.getLsbD l then x l else f.regs.la.getD l 0

/-- The effect of an instruction of the ALU or float pipe with a result: D takes it by 03 R68 to R70, `la` takes it
in active lanes, last uses make their registers dead, the ply goes on, and all else stays (03 R62, R64, 07 R159). -/
structure View.Delivers (v : View) (fm : Form) (d : BitVec 7) (r : Result) (s t : State) : Prop where
  only : v.OnlyFibre s t
  fibre : ∃ f, t.fibre v.who.core v.who.res v.who.slot = some f ∧ v.fib.GoesOnLa f v.who.ply v.width v.active r.lane
  regs : ∀ id, id.inFile = true → t.getReg v id = v.after fm d r id

/-- As `Delivers`, for an instruction that does not write `la`. -/
structure View.DeliversPlain (v : View) (fm : Form) (d : BitVec 7) (r : Result) (s t : State) : Prop where
  only : v.OnlyFibre s t
  fibre : ∃ f, t.fibre v.who.core v.who.res v.who.slot = some f ∧ v.fib.GoesOn f v.who.ply
  regs : ∀ id, id.inFile = true → t.getReg v id = v.after fm d r id

/-- An instruction that computes a result completes with it, when its fields are ready, its operands are not
poisoned in the lanes that are read, and the destination takes the result. -/
def View.Computes (v : View) (s : State) (i : Instr) (fm : Form) (d : BitVec 7) (xs : List Opnd) (m : Mask)
    (r : Result) : Prop :=
  v.Ready fm → Clean xs m → v.Fits fm d r → ∃ t, exec i s = .next t ∧ v.Delivers fm d r s t

/-! ### The shape of a result (03 R66) -/

/-- A 32-bit result of a shape whose lanes are given. -/
def Value.shaped (sh : Shape) (f : Nat → Word) : Value :=
  match sh with
  | .u => Value.uni (f 0) false
  | .a => Value.aff (f 0) (f 1 - f 0)
  | .g => Value.per f

/-- A result of a shape whose lanes are given; one of 64 bits is never A. -/
def Result.shaped (wide : Bool) (sh : Shape) (f : Nat → DWord) : Result :=
  if wide then
    match sh with
    | .u => Result.uni64 (f 0) false
    | _ => Result.per64 f
  else Result.narrow (Value.shaped sh fun l => (f l).setWidth 32)

/-- A result holds the given lanes; one of 32 bits clears the upper half (03 R62). -/
def Result.Holds (r : Result) (f : Nat → DWord) : Prop :=
  ∀ l, r.lane l = if r.wide then f l else ((f l).setWidth 32).setWidth 64

/-- U when all sources are U, else G. -/
def plainShape (xs : List Opnd) : Shape := if xs.all fun x => x.shape == .u then .u else .g

/-- The A row of a sum or difference: both U or A, not both U. -/
def sumShape (x z : Shape) : Shape :=
  match x, z with
  | .g, _ => .g
  | _, .g => .g
  | .u, .u => .u
  | _, _ => .a

/-- The A row of a product: one U, the other A. -/
def prodShape (x z : Shape) : Shape :=
  match x, z with
  | .u, .u => .u
  | .u, .a => .a
  | .a, .u => .a
  | _, _ => .g

/-- The A row of a shift left: A by U. -/
def shlShape (x z : Shape) : Shape :=
  match x, z with
  | .u, .u => .u
  | .a, .u => .a
  | _, _ => .g

/-- A shape by an A row: it applies only under i32 and n32 without SAT. -/
def rowShape (m : Word) (sh : Shape) (xs : List Opnd) : Shape := if affineMode m then sh else plainShape xs

/-- An instruction completes with a result of a shape whose lanes are given. -/
def View.Lanes (v : View) (s : State) (i : Instr) (fm : Form) (d : BitVec 7) (xs : List Opnd) (wide : Bool) (sh : Shape)
    (f : Nat → DWord) : Prop :=
  (Result.shaped wide sh f).Holds f ∧ v.Computes s i fm d xs v.active (Result.shaped wide sh f)

/-- An instruction completes with one value that every lane receives (03 R67). -/
def View.Uniform (v : View) (s : State) (i : Instr) (fm : Form) (d : BitVec 7) (x : Opnd) (wide : Bool) (u : DWord) : Prop :=
  v.Computes s i fm d [x] v.active (uniResult x wide u)

/-- The number below 2^w whose bits are given. -/
def bitsNat (w : Nat) (f : Nat → Bool) : Nat := (((List.range w).filter f).map (2 ^ ·)).sum

/-- The active lanes, in ascending order. -/
def View.activeLanes (v : View) : List Nat := lanesOf v.active v.width

/-- No enabled exception occurs in an active lane (04 R83). -/
def View.Quiet (v : View) (f : Nat → Exc) : Prop := ∀ l ∈ v.activeLanes, f l &&& modeEnables v.fib.spec.mode = 0

/-- An instruction that reads a U operand changes its fibre as stated, and nothing else but for last uses. -/
def View.Changes (v : View) (s t : State) (fm : Form) (f : Fibre) : Prop :=
  v.OnlyFibre s t ∧ (∀ id, id.inFile = true → t.getReg v id = v.used fm id) ∧
    ∃ g, t.fibre v.who.core v.who.res v.who.slot = some g ∧ g = { f with regs := { f.regs with v := g.regs.v, o := g.regs.o } }

/-- An instruction writes bits of one predicate in active lanes, and no register or latch; last uses make their
registers dead, the ply goes on, and all else stays. -/
def View.SetsPredicate (v : View) (s t : State) (fm : Form) (p : Nat) (f : Nat → Bool) : Prop :=
  v.OnlyFibre s t ∧ (∀ id, id.inFile = true → t.getReg v id = v.used fm id) ∧
    ∃ g, t.fibre v.who.core v.who.res v.who.slot = some g ∧
      g = { v.fib.retire v.who.ply with regs := { v.fib.regs with v := g.regs.v, o := g.regs.o, preds := g.regs.preds } } ∧
      (∀ k, k ≠ p → g.regs.preds.getD k 0 = v.fib.regs.preds.getD k 0) ∧
      ∀ l, l < 64 → (g.regs.preds.getD p 0).getLsbD l =
        if v.active.getLsbD l then decide (l < v.width) && f l else (v.fib.regs.preds.getD p 0).getLsbD l

/-- An address that a program counter may take (08 R194). -/
def Target (x : Addr) : Prop := x.toNat % 4 = 0 ∧ 0x200000 ≤ x.toNat ∧ x.toNat < 2 ^ 56

/-! ### Accesses -/

/-- An access that a ply leaves outstanding when it issues (05 R119, R121). -/
def View.newOp (v : View) (path : Nat) (lm : Bool) (pages : List Nat) (body : OpBody) : Op :=
  { res := v.who.res, slot := v.who.slot, fibre := v.fib.num, ply := v.who.ply, path := path, active := v.active
    lm := if lm then v.active else 0, body := body, done := false, pages := pages
    seq := v.core.nextOp }

/-- A fibre with one more access on a path counter. -/
def Fibre.counts (f : Fibre) (path : Nat) : Fibre :=
  { f with spec := { f.spec with ctr := f.spec.ctr.mod path (· + 1) } }

/-- Places that a near access of a core may use: none is far, none lies in a spill area, none is locked against it
(01 R12; 02 R34; 05 R122). -/
def View.Reaches (v : View) (s : State) (write : Bool) (n : Nat) (ls : List LanePlace) : Prop :=
  ∀ x ∈ ls, (∀ p ∈ x.places, p.peer = none ∧ dieOf p.pa = v.who.core / 80) ∧
    s.inSpill v.who.core v.who.res (x.places.map (·.pa)) = false ∧
    lockStops (s.locksOf v.who.core v.who.res) write x.va n = false

/-- The registers and the fibre after an instruction that writes no register but for last uses. -/
def View.Left (v : View) (t : State) (fm : Form) (f : Fibre) : Prop :=
  (∀ id, id.inFile = true → t.getReg v id = v.used fm id) ∧
    ∃ g, t.fibre v.who.core v.who.res v.who.slot = some g ∧ g = { f with regs := { f.regs with v := g.regs.v, o := g.regs.o } }

/-- An instruction leaves one access outstanding: the core's next number names it, its path counter rises, last uses
make their registers dead, and nothing else changes; no byte of memory does. -/
structure View.Issues (v : View) (s t : State) (fm : Form) (op : Op) : Prop where
  rest : t = { s with cores := t.cores }
  others : ∀ n, n ≠ v.who.core → t.core n = s.core n
  core : t.core v.who.core = ({ s.core v.who.core with
    ops := kset v.core.ops v.core.nextOp op, nextOp := v.core.nextOp + 1 }).setRes v.who.res
    { s.res v.who.core v.who.res with
      slots := (t.res v.who.core v.who.res).slots, windows := (t.res v.who.core v.who.res).windows }
  slots : ∀ sl, sl ≠ v.who.slot → t.fibre v.who.core v.who.res sl = s.fibre v.who.core v.who.res sl
  windows : ∀ k, k ≠ spindleKey v.who.slot →
    kget (t.res v.who.core v.who.res).windows k = kget (s.res v.who.core v.who.res).windows k
  left : v.Left t fm ((v.fib.counts op.path).retire v.who.ply)

/-- An instruction ends with a status in D, which takes it as a uniform value, and changes nothing else but its fibre. -/
def View.GetsStatus (v : View) (s t : State) (fm : Form) (d : BitVec 7) (x : Word) (f : Fibre) : Prop :=
  v.OnlyFibre s t ∧
    (∀ id, id.inFile = true → t.getReg v id =
      if id ∈ (v.dest d).regs 1 then (v.used fm id).writeUniform v.width v.active x false else v.used fm id) ∧
    ∃ g, t.fibre v.who.core v.who.res v.who.slot = some g ∧ g = { f with regs := { f.regs with v := g.regs.v, o := g.regs.o } }

/-- The lanes of an access as an outstanding access holds them. -/
def accs (ls : List LanePlace) (data : Nat → List Byte) : List LaneAcc :=
  ls.map fun x => { lane := x.lane, pas := x.places.map (·.pa), data := data x.lane }

/-- A fibre that waits for a condition at the issuing ply's instruction, which has issued (18 R373). -/
def View.waiting (v : View) (x : Wait) : Fibre :=
  { v.fib.begins v.who.ply with status := .waiting, wait := some { ply := v.who.ply, wait := x } }

/-- The address of a memory access in a lane: base, offset and loop offset, modulo 2^56 (09 R218, 02 R51). -/
def View.place (v : View) (x : Opnd) (off : Int) (l : Nat) : Nat :=
  ((((x.lane l).toNat : Int) + off + v.loff) % 2 ^ 56).toNat

/-! ### Exact values and rounding (04 R81 to R84) -/

/-- A trap that names the enabled exceptions of the active lanes and the lanes in which they occur: what a float
instruction does in place of its effect (04 R83, 17 R358). -/
def View.TrapsMath (v : View) (s : State) (i : Instr) (fm : Form) (xs : List Opnd) (g : Nat → Exc) : Prop :=
  v.Ready fm → Clean xs v.active → ¬v.Quiet g →
    ∃ t : Trap, t.kind = .math ∧
      (∀ l, l < 64 → t.lanes.getLsbD l = decide (l ∈ v.activeLanes ∧ g l &&& modeEnables v.fib.spec.mode ≠ 0)) ∧
      (∀ k, k < 5 → t.code.getLsbD k =
        decide (∃ l ∈ v.activeLanes, (g l &&& modeEnables v.fib.spec.mode).getLsbD k = true)) ∧
      exec i s = .next (s.takeTrap v t)

/-- The number that a finite value is. -/
def FVal.rat : FVal → ℚ
  | .fin n m e => (if n then -1 else 1) * (m * 2 ^ e)
  | _ => 0

/-- A finite value. -/
def FVal.isFin : FVal → Bool
  | .fin .. => true
  | _ => false

/-- The order of a rational against the magnitude of a rational. -/
def against (x q : ℚ) : Ordering := compare q |x|

/-- The sign of a sum that two signs join in: an exact zero of opposite signs is −0 under RD only (04 R84). -/
def sumSign (r : Rnd) (n1 n2 : Bool) (x : ℚ) : Bool := if x = 0 then (if n1 = n2 then n1 else r == .rd) else decide (x < 0)

/-- `y` is the rounding, under a mode of 04 R84, of an exact magnitude under a sign, with the exceptions of 04 R83.
`c q` is the order of a rational `q` against that magnitude.  A finite result is the value of the format that the mode
chooses among all its values; a magnitude is too large, or too small, by its rounding with an unbounded exponent. -/
def Rounds (f : Fmt) (r : Rnd) (neg : Bool) (c : ℚ → Ordering) (y : FRes) : Prop :=
  let away := (r = .ru ∧ neg = false) ∨ (r = .rd ∧ neg = true)
  let near := r = .rne ∨ r = .rna
  let top : ℚ := 2 ^ (f.bias + 1)
  let least : ℚ := 1 / 2 ^ (f.bias - 1)
  let part : ℚ := 1 / 2 ^ (f.frac + 2)
  let most := top * (1 - 2 * part)
  let large := if away then c most = .lt else if near then c (top * (1 - part)) ≠ .gt else c top ≠ .gt
  let tiny := if away then c (least * (1 - 2 * part)) ≠ .lt else if near then c (least * (1 - part)) = .gt else c least = .gt
  y.1.toNat < 2 ^ f.width ∧
  match decodeF f y.1 with
  | .nan _ => False
  | .inf n => n = neg ∧ large ∧ (away ∨ near) ∧ y.2 = excOvf ||| excInx
  | .fin n m e =>
    let v : ℚ := m * 2 ^ e
    n = neg ∧
    (large → ¬(away ∨ near) ∧ v = most ∧ y.2 = excOvf ||| excInx) ∧
    (¬large → y.2 = (if c v = .eq then 0 else excInx) ||| (if c v ≠ .eq ∧ tiny then excUnf else 0)) ∧
    (¬large → ∀ (z : DWord) (b : Bool) (k : Nat) (q : Int), decodeF f z = .fin b k q →
      let u : ℚ := k * 2 ^ q
      if away then c v ≠ .lt ∧ (c u ≠ .lt → v ≤ u)
      else if near then
        (v < u → c ((u + v) / 2) ≠ .lt ∧ (c ((u + v) / 2) = .eq → r = .rne ∧ m % 2 = 0)) ∧
        (u < v → c ((u + v) / 2) ≠ .gt ∧ (c ((u + v) / 2) = .eq → r = .rne → m % 2 = 0))
      else c v ≠ .gt ∧ (c u ≠ .gt → u ≤ v))

/-! ### Invariants -/

/-- The states in which memory and host memory have their canonical form. -/
def State.Inv (s : State) : Prop := s.mem.wf = true ∧ s.hostMem.wf = true

/-- The cores, and those that run check copies (18 R380). -/
def State.allCores (s : State) : List Core := (s.cores ++ s.copies.flatMap (·.cores)).map (·.2)

/-- The teams that are not on a core: saved, waiting, about to be restored, or aside while another has its turn; and their check
copies. -/
def State.allSaved (s : State) : List Saved :=
  s.copies.filterMap (·.saved) ++ s.control.areas.map (·.2) ++ s.control.underTest.map (·.2) ++ (s.control.lists.flatMap fun l => l.2.filterMap (·.saved)) ++
    s.allCores.flatMap fun c => c.turns ++ c.restore.map fun p => p.2.saved

/-- The residencies of the cores and of the teams that are not on one. -/
def State.allResidencies (s : State) : List Residency :=
  (s.allCores.flatMap fun c => [c.r0, c.r1]) ++ s.allSaved.flatMap (·.residencies)

/-- Every team. -/
def State.everyTeam (s : State) : List Team := s.allResidencies.filterMap (·.team) ++ s.allSaved.map (·.team)

/-- A stack holds at most four entries on chip, and all four where older ones are spilled (02 R34). -/
def Ply.StackForm (p : Ply) : Prop := p.stack.length ≤ 4 ∧ (p.spilled ≠ 0 → p.stack.length = 4)

/-- The stacks of every fibre on a core have their form. -/
def State.StackForm (s : State) : Prop :=
  ∀ c ∈ s.allCores, ∀ r ∈ [c.r0, c.r1], ∀ p ∈ r.slots, p.2.p0.StackForm ∧ p.2.p1.StackForm

/-- Operand-file registers have tag G (03 R55); a barrier's count and reload have 12 bits (02 R43); an entry of the
dependency table holds a command exactly while it is not FREE, and its GEN has 16 bits (11 R275). -/
def State.TableForm (s : State) : Prop :=
  (∀ r ∈ s.allResidencies,
    (∀ p ∈ r.slots, ∀ x ∈ p.2.regs.o, x.val.shape = .g) ∧
    ∀ p ∈ r.deps, p.2.gen < 2 ^ 16 ∧ (p.2.state = .free ↔ p.2.cmd = none)) ∧
  ∀ t ∈ s.everyTeam, ∀ p ∈ t.barriers, p.2.count < 2 ^ 12 ∧ p.2.reload < 2 ^ 12

end Sys2Proof.Machine
end

