-- ==== Sys2Proof/Certificates/Slice0/Obligations.lean ====
section
/-! DEFINITION. The statements about the model.  Each holds for every state and every operand that its hypotheses
admit; the conclusion of a statement about an instruction is the state that it answers, all of it. -/

section Statements

open Sys2Proof Sys2Proof.Machine

/-! ### Encoding -/

/-- Every instruction that is well formed is what its words decode to, with every operand (06 R134 to R150). -/
def Obligations.EncodeDecode : Prop := ∀ i : Instr, Laws.Enc.Statement i

/-- Every word, with the word after it, decodes to one well-formed instruction whose words they are. -/
def Obligations.WordsHaveOneMeaning : Prop :=
  ∀ w n : Word, (decodeWord w n).wellFormed = true ∧
    encode (decodeWord w n) = some (w, if isLoopWord w then some n else none)

/-- Words that the spec writes out, and the instructions it says they are (03, 07, 08, 09, 11). -/
def Obligations.DecodeSamples : Prop :=
  decodeWord 0x02094000 0 = .iadd false 2 0x0A0 0 ∧ decodeWord 0x260C0485 0 = .shri false 3 2 5 ∧
  decodeWord 0x2EA54008 0 = .icmpi false 5 1 0x0A0 8 ∧ decodeWord 0x38240800 0 = .ballot false 9 4 ∧
  decodeWord 0x3C203C10 0 = .bflyx false 8 30 16 ∧ decodeWord 0x4E1A0E02 0 = .fsqrt false 6 0x107 ∧
  decodeWord 0x56000002 0 = .setexec false 0 ∧ decodeWord 0x54500003 0 = .getx false 20 ∧
  decodeWord 0x58301A0E 0 = .qrnd false 12 13 14 ∧ decodeWord 0x78500003 0 = .brd false 1 0 3 ∧
  decodeWord 0x7E000004 0 = .join false ∧ decodeWord 0x60240405 0 = .ld false 9 2 0 5 ∧
  decodeWord 0x621804C1 0 = .st false 6 2 3 1 ∧ decodeWord 0x64180403 0 = .ldx false 6 2 3 ∧
  decodeWord 0x68000881 0 = .atom false 0 0 4 0x081 ∧ decodeWord 0x6D8C1481 0 = .post false 12 3 10 0x081 ∧
  decodeWord 0x6E80140C 0 = .fetch false 2 10 12 ∧ decodeWord 0x70500023 0 = .fence false 20 4 3 ∧
  decodeWord 0x72002800 0 = .waitt false 20 ∧ decodeWord 0x74581417 0 = .mon false 22 10 23 ∧
  decodeWord 0x76610603 0 = .bsync false 24 0x083

/-! ### The machine -/

/-- What a module reset leaves: nothing runs, nothing is queued, and the registers that the spec gives a reset value
hold it (15 R325, 16 R326, 18 R379, 19 R384, 20 R400 to R404; memory that reads 0 is the model's choice, log 2). -/
def Obligations.ResetState : Prop :=
  (∀ n r, (State.reset.res n r).team = none) ∧
  (∀ n, (State.reset.core n).quant = 2500000 ∧ (State.reset.core n).swcnt = 0 ∧ State.reset.cycles n = 0 ∧
    (State.reset.core n).dual = false ∧ (State.reset.core n).issuing = 0 ∧ (State.reset.core n).held = true) ∧
  (∀ n, (State.reset.agent n).down = true) ∧
  State.reset.mem = [] ∧ State.reset.poison = [] ∧ State.reset.control.power.plimit = 4400 ∧
  State.reset.fabric.rtip = 120 ∧ State.reset.fabric.rtis = 50 ∧
  (∀ p, (State.reset.port p).latu = 4 ∧ (State.reset.port p).enable = false) ∧
  (∀ q, (State.reset.queue q).enable = false ∧ (State.reset.queue q).arvcnt = 0 ∧ (State.reset.queue q).consumed = 0) ∧
  (∀ n, (State.reset.checks n).chken = true ∧ (State.reset.checks n).seed = 0) ∧ State.reset.control.boot.stage = 0 ∧
  State.reset.Inv ∧ State.reset.StackForm ∧ State.reset.TableForm

/-- In a quadrant's cycle every ply that its spindles offer fetches at its pc, and stalls where what the fetched word, with the
step word after a LOOP, decodes to stalls; of the others 16 R341 and R342 choose one, which runs what it fetches, or takes the
SOFT of a NOPRE section that has run out (17 R361; in a deterministic launch in place of an instruction that would retire, log
115); then the quadrant's spindles yield (02 R26, R48, 06 R134).  An event that the agenda holds is run as it stands.  The model's choices:
the order of steps, the agenda and a cycle for each move (log 1); that every check copy makes the same move in the same step on
its own image (log 45). -/
def Obligations.StepRunsDecoded : Prop :=
  (∀ (s : State) (core q : Nat) (rest : List Move), s.copies = [] →
    (s.agenda = .issue core q :: rest ∨
      (s.agenda = [] ∧ rest = [] ∧ autoEvent s.settleSpindles = none ∧ s.settleSpindles.nextIssue = some (core, q))) →
    let s0 : State := { s.settleSpindles with agenda := rest }
    let s1 := ({ s0 with clock := s0.clock + 1 } : State).openQuadrant core q
    let s2 := (s1.offered core q).foldl State.tryStall s1
    let ended := fun t : State => Host.Outcome.next (φ := Fault) (ρ := Refusal) ((t.yieldSpindles core q).openQuadrant core q)
    (s2.quadrantIssue core q = none → step s = ended s2) ∧
    (∀ (w : Who) (v : View) (i : Instr) (t : State), s2.quadrantIssue core q = some w → (s2.prepare w).view = some v →
      (s2.prepare w).fetchInstr v = .ok i → exec i (s2.prepare w) = .next t →
      let soft := ((s2.prepare w).onFibre v fun f => { f with sched := { f.sched with softPending := false } }).takeTrap v
        (Trap.plain .soft 1)
      (v.fib.sched.softPending = false → step s = ended t) ∧
      (v.fib.sched.softPending = true → (v.team.det = none → step s = ended soft) ∧
        ∀ g, v.team.det ≠ none → t.fibre v.who.core v.who.res v.who.slot = some g →
          step s = ended (if v.fib.sched.retired < g.sched.retired then soft else t)))) ∧
  (∀ (s : State) (w : Who) (v : View) (i : Instr) (t : State), (s.prepare w).view = some v → v.fib.sched.softPending = false →
    (s.prepare w).fetchInstr v = .ok i → exec i (s.prepare w) = .next t →
    (t.stalledAt w = false → s.tryStall w = s) ∧ (t.stalledAt w = true → s.tryStall w = t.unissued s w)) ∧
  (∀ (s : State) (v : View) (x n : Word), v.ply.loop = none → s.fetchWord v v.ply.pc.toNat = .ok x →
    (isLoopWord x = true → s.fetchWord v ((v.ply.pc.toNat + 4) % 2 ^ 56) = .ok n) →
    s.fetchInstr v = .ok (decodeWord x (if isLoopWord x then n else 0))) ∧
  (∀ (s : State) (v : View) (l : LoopState), v.ply.loop = some l →
    s.fetchInstr v = .ok (decodeWord (l.body.getD l.idx 0) 0)) ∧
  (∀ (s : State) (i : Instr) (rest : List Move), s.agenda = .event i :: rest →
    let run := fun s' : State => exec i { s'.settleSpindles with agenda := rest, clock := s'.settleSpindles.clock + 1 }
    (s.copies = [] ∨ (Move.event i).mirrored = false → step s = run s) ∧
    (∀ t, s.copies ≠ [] → (Move.event i).mirrored = true → run s = .next t → step s = .next (t.withCopies s run)))

/-! ### Writing registers -/

/-- What a source field names and what each operand level reads: a main or an operand-file register or a pair of them, an
inline constant, a system value, a latch; and what D reads (03 R57 to R61, R63). What a register of each tag does with a result
of each shape: its new value, or SHAPE (03 R68 to R70). -/
def Obligations.TagRules : Prop :=
  (∀ f : BitVec 9,
    let i := f.toNat % 64
    let level := f.toNat / 64 % 4
    let k := f.getLsbD 8 = true
    (level = 0 → srcOf f = some (.v i)) ∧ (level = 1 → srcOf f = if i < 16 then some (.o i) else none) ∧
    (2 ≤ level → k → srcOf f = none) ∧
    (level = 2 → ¬k → srcOf f = if i < 32 then some (.const (if i < 16 then (i : Int) else i - 32))
      else if i < 50 then some (.sv i) else none) ∧
    (level = 3 → ¬k → srcOf f = if i = 0 then some .la else if i = 1 then some .lm else none) ∧
    (srcOf f = none → ∀ (s : State) (v : View) (y : Bool) (d : BitVec 7) (b : BitVec 9), s.view = some v →
      exec (.iadd y d f b) s = .next (s.takeTrap v (Trap.plain .ill 0)) ∧
      exec (.iadd y d b f) s = .next (s.takeTrap v (Trap.plain .ill 0)))) ∧
  (∀ (v : View) (u : Use) (flt : Option Fmt), u.n = 1 ∨ u.n = 2 →
    let x := v.read u flt
    let h := v.team.hdr
    let all := fullMask v.width
    let low := fun y : DWord => BitVec.ofNat 64 (y.toNat % 2 ^ 32)
    let bad := fun r : Reg => match r.val with | .u _ => if r.poison = 0 then (0 : Mask) else all | _ => r.poison
    let pair := fun (x : Opnd) (p q : Reg) =>
      (∀ l, (x.lane l).toNat = (p.val.lane l).toNat + (q.val.lane l).toNat * 2 ^ 32) ∧ x.poison = bad p ||| bad q ∧
      (x.shape = .u ↔ p.val.shape = .u ∧ q.val.shape = .u)
    let one := fun (x : Opnd) (p : Reg) => (∀ l, (x.lane l).toNat = (p.val.lane l).toNat) ∧ x.poison = bad p ∧ x.shape = p.val.shape
    let word := fun n : Nat => x.shape = .u ∧ x.poison = 0 ∧ ∀ l, x.lane l = BitVec.ofNat 64 n
    let o := fun i => v.fib.regs.o.getD i (Reg.dead 2 v.width)
    let m := fun i => if h.inWindow i = true
      then (kgetD v.res.windows (spindleKey v.who.slot) []).getD (i - h.wfirst) (Reg.dead (h.tag i) v.width)
      else v.fib.regs.v.getD i (Reg.dead (h.tag i) v.width)
    let latch := fun (xs : List DWord) (poison : Mask) =>
      x.shape = .g ∧ x.poison = poison ∧ ∀ l, x.lane l = if u.n = 2 then xs.getD l 0 else low (xs.getD l 0)
    (∀ i, v.srcOf u = .v i → (u.n = 1 → one x (m i)) ∧ (u.n = 2 → pair x (m i) (m (i + 1)))) ∧
    (∀ i, v.srcOf u = .o i → (u.n = 1 → one x (o i)) ∧ (u.n = 2 → pair x (o i) (o (i + 1)))) ∧
    (∀ d i, v.dest d = .v i → one (v.readD d 1) (m i) ∧ pair (v.readD d 2) (m i) (m (i + 1))) ∧
    (∀ d i, v.dest d = .o i → one (v.readD d 1) (o i) ∧ pair (v.readD d 2) (o i) (o (i + 1))) ∧
    (∀ c : Int, -16 ≤ c → c ≤ 15 → v.srcOf u = .const c → x.shape = .u ∧ x.poison = 0 ∧
      (flt = none → ∀ l, (x.lane l).toNat = (c % 2 ^ (32 * u.n)).toNat) ∧
      (∀ f, flt = some f → ∀ l, (decodeF f (x.lane l)).isFin = true ∧ (decodeF f (x.lane l)).rat = c ∧
        (decodeF f (x.lane l)).neg = decide (c < 0) ∧ (x.lane l).toNat < 2 ^ f.width)) ∧
    (v.srcOf u = .sv 32 → x.shape = .a ∧ x.base = 0 ∧ x.stride = 1 ∧ x.poison = 0 ∧ ∀ l, l < 64 → (x.lane l).toNat = l) ∧
    (let c := v.fib.spec.ctr
     let p := h.param.toNat
     ∀ q ∈ [(33, v.fib.num), (34, v.team.num), (35, v.team.num % h.tx), (36, v.team.num / h.tx % h.ty),
        (37, v.team.num / (h.tx * h.ty)), (38, h.width), (40, v.who.core / 80), (41, v.who.ply), (42, c.ld), (43, c.st),
        (44, c.far), (45, c.eng), (46, c.bank), (47, c.sel), (48, p), (49, p / 2 ^ 32 % 2 ^ 24)],
      v.srcOf u = .sv q.1 → word (q.2 % 2 ^ 32)) ∧
    (v.srcOf u = .sv 39 → v.team.det = none → word (v.who.core % 80)) ∧
    (v.srcOf u = .la → latch v.fib.regs.la v.fib.regs.laPoison) ∧ (v.srcOf u = .lm → latch v.fib.regs.lm v.fib.regs.lmPoison)) ∧
  (∀ (old : Reg) (w : Nat) (act lanes : Mask) (x : Value) (u : Word), old.val = .u u →
    (x.shape = .g ∨ (x.shape = .a ∧ x.stride ≠ 0) → old.take w act lanes x = .shape) ∧
    (x.shape = .u → x.gsrc = true → act = 0 → old.take w act lanes x = .keeps) ∧
    ((x.shape = .u ∧ (x.gsrc = false ∨ act ≠ 0)) ∨ (x.shape = .a ∧ x.stride = 0) →
      old.take w act lanes x = .writes { live := true, val := .u x.base, poison := 0 })) ∧
  (∀ (old : Reg) (w : Nat) (act lanes : Mask) (x : Value) (b s : Word), old.val = .a b s →
    (x.shape = .g → old.take w act lanes x = .shape) ∧
    (x.shape ≠ .g → act = 0 → old.take w act lanes x = .keeps) ∧
    (x.shape ≠ .g → act ≠ 0 →
      (old.live = false ∨ ∀ l, l < w → lanes.getLsbD l = true → act.getLsbD l = false → x.lane l = b + BitVec.ofNat 32 l * s) →
      old.take w act lanes x = .writes { live := true, val := .a x.base x.stride, poison := old.poison &&& ~~~act }) ∧
    (x.shape ≠ .g → act ≠ 0 → old.live = true →
      (∃ l, l < w ∧ l < 64 ∧ lanes.getLsbD l = true ∧ act.getLsbD l = false ∧ x.lane l ≠ b + BitVec.ofNat 32 l * s) →
      old.take w act lanes x = .shape)) ∧
  (∀ (old : Reg) (w : Nat) (act lanes : Mask) (x : Value) (xs : List Word), old.val = .g xs →
    (act = 0 → old.take w act lanes x = .keeps) ∧
    (act ≠ 0 → ∃ r, old.take w act lanes x = .writes r ∧ r.live = true ∧ r.poison = old.poison &&& ~~~act ∧
      r.val.shape = .g ∧ ∀ l, l < w → r.val.lane l = if act.getLsbD l then x.lane l else xs.getD l 0))

/-! ### Integer instructions -/

/-- IADD, ISUB, IMUL, IMULH, IMIN and IMAX write, in each lane, the exact result brought into range by MODE, with the shape of
03 R66; IMAD adds the exact product to D. The twelve integer unary operations (07 R171). -/
def Obligations.IntegerOperations : Prop :=
  (∀ (y : Bool) (d : BitVec 7) (a b : BitVec 9) (s : State) (v : View), s.view = some v →
     let m := v.mode
     let ua := intUse m a .a
     let ub := intUse m b .b
     let x := v.read ua none
     let z := v.read ub none
     let p := fun l => intVal m (x.lane l)
     let q := fun l => intVal m (z.lane l)
     let law := fun (i : Instr) (sh : Shape) (f : Nat → Int) =>
       v.Lanes s i { uses := [ua, ub], d := some (dUse d (intRegs m) false) } d [x, z] (intWidth m == 64) sh fun l => intBits m (f l)
     law (.iadd y d a b) (rowShape m (sumShape x.shape z.shape) [x, z]) (fun l => fitInt m (p l + q l)) ∧
     law (.isub y d a b) (rowShape m (sumShape x.shape z.shape) [x, z]) (fun l => fitInt m (p l - q l)) ∧
     law (.imul y d a b) (rowShape m (prodShape x.shape z.shape) [x, z]) (fun l => fitInt m (p l * q l)) ∧
     law (.imulh y d a b) (plainShape [x, z]) (fun l => p l * q l / 2 ^ intWidth m) ∧
     law (.imin y d a b) (plainShape [x, z]) (fun l => min (p l) (q l)) ∧
     law (.imax y d a b) (plainShape [x, z]) (fun l => max (p l) (q l)) ∧
     (let w := v.readD d (intRegs m)
      v.Lanes s (.imad y d a b) { uses := [ua, ub], d := some (dUse d (intRegs m) true) } d [x, z, w] (intWidth m == 64)
       (rowShape m (sumShape w.shape (prodShape x.shape z.shape)) [x, z, w])
       fun l => intBits m (fitInt m (intVal m (w.lane l) + p l * q l)))) ∧
  (∀ (y : Bool) (d : BitVec 7) (a : BitVec 9) (s : State) (v : View), s.view = some v →
     let m := v.mode
     let w := intWidth m
     let ua := intUse m a .a
     let x := v.read ua none
     let bit := fun l => (x.lane l).toNat.testBit
     let law := fun (i : Instr) (f : Nat → Int) =>
       v.Lanes s i { uses := [ua], d := some (dUse d (intRegs m) false) } d [x] (w == 64) (plainShape [x]) fun l => intBits m (f l)
     let pat := fun (i : Instr) (f : Nat → Nat → Bool) => law i fun l => ofPattern m (bitsNat w (f l))
     let count := fun (i : Instr) (f : Nat → List Nat) => law i fun l => ((f l).length : Int)
     pat (.not y d a) (fun l k => !bit l k) ∧
     law (.neg y d a) (fun l => fitInt m (0 - intVal m (x.lane l))) ∧
     law (.abs y d a) (fun l => fitInt m (max (intVal m (x.lane l)) (-intVal m (x.lane l)))) ∧
     count (.clz y d a) (fun l => (List.range w).takeWhile fun k => !bit l (w - 1 - k)) ∧
     count (.ctz y d a) (fun l => (List.range w).takeWhile fun k => !bit l k) ∧
     count (.popc y d a) (fun l => (List.range w).filter (bit l)) ∧
     pat (.brev y d a) (fun l k => bit l (w - 1 - k)) ∧
     pat (.bswap y d a) (fun l k => bit l (w - 8 - k / 8 * 8 + k % 8)) ∧
     pat (.sextb y d a) (fun l k => bit l (min k 7)) ∧ pat (.sexth y d a) (fun l k => bit l (min k 15)) ∧
     pat (.zextb y d a) (fun l k => decide (k < 8) && bit l k) ∧ pat (.zexth y d a) (fun l k => decide (k < 16) && bit l k))

/-- AND, OR, XOR and ANDN write the bits that 07 R164 names, of the w-bit values. -/
def Obligations.IntegerLogic : Prop :=
  ∀ (y : Bool) (d : BitVec 7) (a b : BitVec 9) (s : State) (v : View), s.view = some v →
    let m := v.mode
    let ua := intUse m a .a
    let ub := intUse m b .b
    let x := v.read ua none
    let z := v.read ub none
    let law := fun (i : Instr) (f : Bool → Bool → Bool) =>
      v.Lanes s i { uses := [ua, ub], d := some (dUse d (intRegs m) false) } d [x, z] (intWidth m == 64) (plainShape [x, z]) fun l =>
        intBits m (ofPattern m (bitsNat (intWidth m) fun k => f ((x.lane l).toNat.testBit k) ((z.lane l).toNat.testBit k)))
    law (.and y d a b) (fun p q => p && q) ∧ law (.or y d a b) (fun p q => p || q) ∧
    law (.xor y d a b) (fun p q => p != q) ∧ law (.andn y d a b) (fun p q => p && !q)

/-- IADDI, ANDI, ORI and XORI act as IADD, AND, OR and XOR on the immediate, read at the width of MODE; MOVW writes its
immediate, sign-extended; MOVHI joins its immediate to the low 14 bits of D (07 R163, R167). Shifts by a 32-bit amount, and
by an immediate amount below w; ROTI rotates the w-bit value (07 R165, R166). -/
def Obligations.ShiftsAndImmediates : Prop :=
  (∀ (y : Bool) (d : BitVec 7) (a i : BitVec 9) (s : State) (v : View), s.view = some v →
     let m := v.mode
     let ua := intUse m a .a
     let x := v.read ua none
     let z := Opnd.uni (if intWidth m = 64 then i.signExtend 64 else (i.signExtend 32).setWidth 64)
     let law := fun (j : Instr) (sh : Shape) (f : Nat → Int) =>
       v.Lanes s j { uses := [ua], d := some (dUse d (intRegs m) false) } d [x] (intWidth m == 64) sh fun l => intBits m (f l)
     let bits := fun (f : Bool → Bool → Bool) (l : Nat) =>
       ofPattern m (bitsNat (intWidth m) fun k => f ((x.lane l).toNat.testBit k) ((z.lane l).toNat.testBit k))
     law (.iaddi y d a i) (rowShape m (sumShape x.shape .u) [x]) (fun l => fitInt m (intVal m (x.lane l) + intVal m (z.lane l))) ∧
     law (.andi y d a i) (plainShape [x]) (bits fun p q => p && q) ∧ law (.ori y d a i) (plainShape [x]) (bits fun p q => p || q) ∧
     law (.xori y d a i) (plainShape [x]) (bits fun p q => p != q) ∧
     ∀ k : BitVec 18,
       v.Lanes s (.movw y d k) { uses := [], d := some (dUse d 1 false) } d [] false .u (fun _ => (k.signExtend 32).setWidth 64) ∧
       v.Lanes s (.movhi y d k) { uses := [], d := some (dUse d 1 true) } d [v.readD d 1] false (plainShape [v.readD d 1])
         fun l => BitVec.ofNat 64 ((((v.readD d 1).lane l).toNat % 2 ^ 14 + k.toNat * 2 ^ 14) % 2 ^ 32)) ∧
  (∀ (y : Bool) (d : BitVec 7) (a b : BitVec 9) (n : BitVec 6) (s : State) (v : View), s.view = some v →
     let m := v.mode
     let ua := intUse m a .a
     let ub := wordUse b .b
     let x := v.read ua none
     let z := v.read ub none
     let p := fun l => intVal m (x.lane l)
     let k := fun l => (z.lane l).toNat % 2 ^ 32
     let reg := fun (i : Instr) (sh : Shape) (f : Nat → Int) =>
       v.Lanes s i { uses := [ua, ub], d := some (dUse d (intRegs m) false) } d [x, z] (intWidth m == 64) sh fun l => intBits m (f l)
     let imm := fun (i : Instr) (sh : Shape) (f : Nat → Int) => n.toNat < intWidth m →
       v.Lanes s i { uses := [ua], d := some (dUse d (intRegs m) false) } d [x] (intWidth m == 64) sh fun l => intBits m (f l)
     reg (.shl y d a b) (rowShape m (shlShape x.shape z.shape) [x, z]) (fun l => fitInt m (p l * 2 ^ k l)) ∧
     reg (.shr y d a b) (plainShape [x, z]) (fun l => p l / 2 ^ k l) ∧
     imm (.shli y d a n) (rowShape m (shlShape x.shape .u) [x]) (fun l => fitInt m (p l * 2 ^ n.toNat)) ∧
     imm (.shri y d a n) (plainShape [x]) (fun l => p l / 2 ^ n.toNat) ∧
     imm (.roti y d a n) (plainShape [x]) fun l => ofPattern m (bitsNat (intWidth m) fun i =>
       (x.lane l).toNat.testBit ((i + intWidth m - n.toNat) % intWidth m)))

/-- BFX extracts a field and extends it by the type's signedness; BFI replaces a field of D (07 R172, R173). -/
def Obligations.BitFields : Prop :=
  ∀ (y : Bool) (d : BitVec 7) (a b : BitVec 9) (s : State) (v : View), s.view = some v →
    let m := v.mode
    let w := intWidth m
    let ua := intUse m a .a
    let ub := wordUse b .b
    let x := v.read ua none
    let z := v.read ub none
    let pos := fun l => (z.lane l).toNat % 256
    let len := fun l => (z.lane l).toNat / 256 % 256
    let fit := fun l => min (len l) (w - pos l)
    let bit := fun l => (x.lane l).toNat.testBit
    v.Lanes s (.bfx y d a b) { uses := [ua, ub], d := some (dUse d (intRegs m) false) } d [x, z] (w == 64) (plainShape [x, z]) (fun l =>
      intBits m (if len l = 0 ∨ w ≤ pos l then 0
        else ofPattern m (bitsNat w fun k =>
          if k < fit l then bit l (pos l + k) else intSigned m && bit l (pos l + fit l - 1)))) ∧
    v.Lanes s (.bfi y d a b) { uses := [ua, ub], d := some (dUse d (intRegs m) true) } d [x, z, v.readD d (intRegs m)] (w == 64)
      (plainShape [x, z, v.readD d (intRegs m)]) (fun l =>
      intBits m (ofPattern m (bitsNat w fun k =>
        if len l ≠ 0 ∧ pos l ≤ k ∧ k < pos l + fit l then bit l (k - pos l)
        else ((v.readD d (intRegs m)).lane l).toNat.testBit k)))

/-- ICMP and ICMPI write the truth of the condition into the predicate, in active lanes (07 R168, 06 R145). FCMP writes the
truth of its condition into the predicate, in active lanes, unless invalid is enabled and occurs; a NaN makes a pair
unordered, and −0 equals +0 (07 R169, 06 R145). That FCMP, a comparison whose result is no number, completes in shadow
mode is the model's reading (log 43). -/
def Obligations.Compares : Prop :=
  (∀ (y : Bool) (c : BitVec 4) (p : BitVec 3) (a b : BitVec 9) (s : State) (v : View), s.view = some v → c.toNat ≤ 5 →
     let m := v.mode
     let ua := intUse m a .a
     let ub := intUse m b .b
     let x := v.read ua none
     let z := v.read ub none
     let imm := Opnd.uni (if intWidth m = 64 then b.signExtend 64 else (b.signExtend 32).setWidth 64)
     let holds := fun (r q : Int) =>
       if c = 0 then decide (r = q) else if c = 1 then decide (r ≠ q) else if c = 2 then decide (r < q)
       else if c = 3 then decide (r ≤ q) else if c = 4 then decide (q < r) else decide (q ≤ r)
     (let fm : Form := { uses := [ua, ub], d := none }
      v.Ready fm → Clean [x, z] v.active → ∃ t, exec (.icmp y c p a b) s = .next t ∧
       v.SetsPredicate s t fm p.toNat fun l => holds (intVal m (x.lane l)) (intVal m (z.lane l))) ∧
     (let fm : Form := { uses := [ua], d := none }
      v.Ready fm → Clean [x] v.active → ∃ t, exec (.icmpi y c p a b) s = .next t ∧
       v.SetsPredicate s t fm p.toNat fun l => holds (intVal m (x.lane l)) (intVal m (imm.lane l)))) ∧
  (∀ (y : Bool) (c : BitVec 4) (p : BitVec 3) (a b : BitVec 9) (f : Fmt) (s : State) (v : View), s.view = some v →
     floatFmt v.mode = some f → c.toNat ≤ 11 →
     let m := v.mode
     let ua := fltUse m a .a
     let ub := fltUse m b .b
     let x := v.read ua (some f)
     let z := v.read ub (some f)
     let fm : Form := { uses := [ua, ub], d := none }
     let r := fun l => decodeF f (x.lane l)
     let q := fun l => decodeF f (z.lane l)
     let un := fun l => (r l).isNan || (q l).isNan
     let lt := fun l => (r l).lt (q l)
     let gt := fun l => (q l).lt (r l)
     let eq := fun l => !un l && !lt l && !gt l
     let holds := fun l =>
       if c = 0 then eq l else if c = 1 then !eq l else if c = 2 then lt l else if c = 3 then lt l || eq l
       else if c = 4 then gt l else if c = 5 then gt l || eq l else if c = 6 then un l || eq l else if c = 7 then un l || lt l
       else if c = 8 then un l || lt l || eq l else if c = 9 then un l || gt l else if c = 10 then un l || gt l || eq l else un l
     v.Ready fm → Clean [x, z] v.active →
     v.Quiet (fun l => if (r l).snan || (q l).snan || (decide (2 ≤ c.toNat ∧ c.toNat ≤ 5) && un l) then excInv else 0) →
       ∃ t, exec (.fcmp y c p a b) s = .next t ∧ v.SetsPredicate s t fm p.toNat holds)

/-! ### Lane instructions -/

/-- BALLOT, ANYL, ALLL, POPL, FIRSTL and READL: one value from the active lanes that hold a nonzero value, with the values of 07
R176 where no lane is active (07 R174, R175, R176). PSUMI and RSUMI sum exactly and bring the sum into range once; RMIN and
RMAX give an extreme of the active lanes, or the end of the type's range where none is active (07 R175, R176). That READL moves the
integer bits of an inline constant under a float TYPE is the model's choice (log 94). -/
def Obligations.LaneOperations : Prop :=
  (∀ (y : Bool) (d : BitVec 7) (a : BitVec 9) (s : State) (v : View), s.view = some v →
     let m := v.mode
     let ua := valUse m a .a
     let x := v.read ua none
     let yes := v.activeLanes.filter (laneNonzero m x)
     let law := fun (i : Instr) (wide : Bool) (u : DWord) =>
       v.Uniform s i { uses := [ua], d := some (dUse d (if wide then 2 else 1) false) } d x wide u
     (∃ u : DWord, (∀ l, l < 64 → u.getLsbD l = decide (l ∈ yes)) ∧ law (.ballot y d a) (v.width == 64) u) ∧
     law (.anyl y d a) false (if yes = [] then 0 else 1) ∧
     law (.alll y d a) false (if yes.length = v.activeLanes.length then 1 else 0) ∧
     law (.popl y d a) false (BitVec.ofNat 64 yes.length) ∧
     law (.firstl y d a) false ((yes.head?.map (BitVec.ofNat 64)).getD 0xFFFFFFFF) ∧
     law (.readl y d a) (valRegs m == 2) (x.lane (v.activeLanes.head?.getD 0))) ∧
  (∀ (y : Bool) (d : BitVec 7) (a : BitVec 9) (s : State) (v : View), s.view = some v →
     let m := v.mode
     let wide := intRegs m == 2
     let ua := intUse m a .a
     let x := v.read ua none
     let fm : Form := { uses := [ua], d := some (dUse d (intRegs m) false) }
     let val := fun l => intVal m (x.lane l)
     v.Lanes s (.psumi y d a) fm d [x] wide .g
       (fun l => intBits m (fitInt m (((v.activeLanes.filter fun k => decide (k ≤ l)).map val).sum))) ∧
     v.Uniform s (.rsumi y d a) fm d x wide (intBits m (fitInt m ((v.activeLanes.map val).sum))) ∧
     (floatFmt m = none →
       (∃ r : Int, (∀ l ∈ v.activeLanes, r ≤ val l) ∧ (if v.activeLanes = [] then r = intMax m else ∃ l ∈ v.activeLanes, r = val l) ∧
         v.Uniform s (.rmin y d a) fm d x wide (intBits m r)) ∧
       (∃ r : Int, (∀ l ∈ v.activeLanes, val l ≤ r) ∧ (if v.activeLanes = [] then r = intMin m else ∃ l ∈ v.activeLanes, r = val l) ∧
         v.Uniform s (.rmax y d a) fm d x wide (intBits m r))))

/-- PSUMF and RSUMF sum over the tree of 04 R97, unless an enabled exception occurs at a node; RMIN and RMAX under a
float TYPE give the extreme of 07 R181. The model's choice: of a PSUMF only the nodes in the prefix of an active lane count
for the exceptions (log 84). -/
def Obligations.LaneFloatSums : Prop :=
  ∀ (y : Bool) (d : BitVec 7) (a : BitVec 9) (f : Fmt) (s : State) (v : View), s.view = some v → floatFmt v.mode = some f →
    let m := v.mode
    let wide := valRegs m == 2
    let rnd := Rnd.ofCode (modeRnd m)
    let ua := valUse m a .a
    let x := v.read ua (some f)
    let leaf := fun l => if v.active.getLsbD l then BitVec.ofNat 64 ((x.lane l).toNat % 2 ^ f.width) else (0 : DWord)
    let node := treeNode f rnd leaf
    let fm : Form := { uses := [ua], d := some (dUse d (valRegs m) false) }
    (v.Quiet (fun _ => v.activeLanes.foldl (fun e l => e ||| (prefixNode f rnd leaf l).2) 0) →
      v.Lanes s (.psumf y d a) fm d [x] wide .g fun l => (prefixNode f rnd leaf l).1) ∧
    (v.Quiet (fun _ => (node v.width.log2 0).2) → v.Uniform s (.rsumf y d a) fm d x wide (node v.width.log2 0).1) ∧
    (v.Quiet (fun l => if (decodeF f (x.lane l)).snan then excInv else 0) →
      v.Uniform s (.rmin y d a) fm d x wide (extremeF f false x v.activeLanes) ∧
      v.Uniform s (.rmax y d a) fm d x wide (extremeF f true x v.activeLanes))

/-- SEL takes each lane from A where the choice predicate MODE.CP is 1, and from B elsewhere; its result is G, of a
pair under i64, n64 and f64 (07 R170). SHUF reads the lane that B names modulo W, active or not; BFLYX exchanges bit columns with
the partner lane (07 R177, R178). TANC, TDEP and TPATH give the ancestors of a lane in a tree of parents, its depth, and the path
to a leaf (10 R268, R269). That SEL and SHUF move the integer bits of an inline constant under a float TYPE is the model's choice
(log 94). -/
def Obligations.LaneMoves : Prop :=
  (∀ (y : Bool) (d : BitVec 7) (a b : BitVec 9) (s : State) (v : View), s.view = some v →
    let m := v.mode
    let ua := valUse m a .a
    let ub := valUse m b .b
    let x := v.read ua none
    let z := v.read ub none
    v.Lanes s (.sel y d a b) { uses := [ua, ub], d := some (dUse d (valRegs m) false) } d [x, z]
      (decide (modeType m = 3 ∨ modeType m = 7 ∨ modeType m = 11)) .g
      fun l => if (v.fib.regs.preds.getD (m.extractLsb' 13 3).toNat 0).getLsbD l then x.lane l else z.lane l) ∧
  (∀ (y : Bool) (d : BitVec 7) (a b : BitVec 9) (s : State) (v : View), s.view = some v →
     (let m := v.mode
      let ua := valUse m a .a
      let ub := wordUse b .b
      let x := v.read ua none
      let z := v.read ub none
      let src := fun l => (z.lane l).toNat % v.width
      let wide := valRegs m == 2
      let r := Result.shaped wide (plainShape [x, z]) fun l => x.lane (src l)
      let fm : Form := { uses := [ua, ub], d := some (dUse d (valRegs m) false) }
      r.Holds (fun l => x.lane (src l)) ∧
      (v.Ready fm → Clean [z] v.active → (∀ l ∈ v.activeLanes, x.poison.getLsbD (src l) = false) → v.Fits fm d r →
       ∃ t, exec (.shuf y d a b) s = .next t ∧ v.Delivers fm d r s t)) ∧
     (let ua := wordUse a .a
      let x := v.read ua none
      let w := v.readD d 1
      let j := b.toNat
      let mask : Word := (x.lane 0).setWidth 32
      let old := fun l => ((w.lane l).setWidth 32 : Word)
      let fm : Form := { uses := [ua], d := some (dUse d 1 true) }
      let r := Result.narrow (Value.per fun l =>
       if l &&& j = 0 then (old l &&& mask) ||| ((old (l ^^^ j) <<< j) &&& ~~~mask)
       else (old l &&& ~~~mask) ||| ((old (l ^^^ j) >>> j) &&& mask))
      (∃ e, e < 6 ∧ j = 2 ^ e) → j < v.width → x.shape = .u → w.shape = .g → v.Ready fm → Clean [x] v.active →
       w.poison = 0 → v.Fits fm d r → ∃ t, exec (.bflyx y d a b) s = .next t ∧ v.Delivers fm d r s t)) ∧
  (∀ (y : Bool) (d : BitVec 7) (a : BitVec 9) (s : State) (v : View), s.view = some v →
     let n := if v.width = 64 then 2 else 1
     let ua := wordUse a .a
     let x := v.read ua none
     let all := if v.active = 0 then 0 else fullMask v.width
     let anc := fun (p : Opnd) => ancOf v.width fun j => (p.lane j).toNat
     (let law := fun (i : Instr) (n : Nat) (f : Nat → DWord) => v.Computes s i { uses := [ua], d := some (dUse d n false) } d [x] all
         (Result.shaped (n == 2) .g f)
      law (.tanc y d a) n (fun l => BitVec.ofNat 64 ((anc x l).getD 0)) ∧
      law (.tdep y d a) 1 (fun l => match anc x l with
       | some k => BitVec.ofNat 64 (((List.range 64).filter k.testBit).length - 1)
       | none => 0xFFFFFFFF)) ∧
     (let p := v.readD d 1
      let fm : Form := { uses := [ua], d := some { dUse d n true with reads := false } }
      let r := uniResult p (n == 2) (BitVec.ofNat 64 ((anc p (x.lane 0).toNat).getD 0))
      v.Ready fm → x.shape = .u → v.liveAll ((v.dest d).regs 1) = true → Clean [x] v.active → Clean [p] all → v.Fits fm d r →
       ∃ t, exec (.tpath y d a) s = .next t ∧ v.Delivers fm d r s t))

/-! ### Float instructions -/

/-- FADD, FSUB, FMUL, FMA, FDIV, FMIN and FMAX write the result of the operation in each lane, where no enabled exception occurs
in an active lane and no unit's check fails (07 R179 to R181). The thirteen float functions of one operand, and FCLASS; five
of them only outside f64 (07 R182 to R185). -/
def Obligations.FloatOperations : Prop :=
  (∀ (y : Bool) (d : BitVec 7) (a b : BitVec 9) (f : Fmt) (s : State) (v : View), s.view = some v → floatFmt v.mode = some f →
     v.core.shadow = 0 →
     let m := v.mode
     let rnd := Rnd.ofCode (modeRnd m)
     let ua := fltUse m a .a
     let ub := fltUse m b .b
     let x := v.read ua (some f)
     let z := v.read ub (some f)
     let w := v.readD d (fltRegs m)
     let p := fun l => decodeF f (x.lane l)
     let q := fun l => decodeF f (z.lane l)
     let law := fun (i : Instr) (xs : List Opnd) (reads : Bool) (g : Nat → FRes) => v.Quiet (fun l => (g l).2) →
       v.Lanes s i { uses := [ua, ub], d := some (dUse d (fltRegs m) reads) } d xs (f == .f64) (plainShape xs) fun l => (g l).1
     law (.fadd y d a b) [x, z] false (fun l => addF f rnd (p l) (q l)) ∧
     law (.fsub y d a b) [x, z] false (fun l => addF f rnd (p l) (q l).negate) ∧
     law (.fmul y d a b) [x, z] false (fun l => mulF f rnd (p l) (q l)) ∧
     law (.fma y d a b) [x, z, w] true (fun l => fmaF f rnd (decodeF f (w.lane l)) (p l) (q l)) ∧
     law (.fdiv y d a b) [x, z] false (fun l => divF f rnd (p l) (q l)) ∧
     law (.fmin y d a b) [x, z] false (fun l => minMaxF f false (p l) (q l)) ∧
     law (.fmax y d a b) [x, z] false (fun l => minMaxF f true (p l) (q l))) ∧
  (∀ (y : Bool) (d : BitVec 7) (a : BitVec 9) (f : Fmt) (s : State) (v : View), s.view = some v → floatFmt v.mode = some f →
     v.core.shadow = 0 →
     let m := v.mode
     let rnd := Rnd.ofCode (modeRnd m)
     let root := if f = .f64 then rnd else .rne
     let ua := fltUse m a .a
     let x := v.read ua (some f)
     let p := fun l => decodeF f (x.lane l)
     let law := fun (i : Instr) (g : FVal → FRes) => v.Quiet (fun l => (g (p l)).2) →
       v.Lanes s i { uses := [ua], d := some (dUse d (fltRegs m) false) } d [x] (f == .f64) (plainShape [x]) fun l => (g (p l)).1
     law (.fneg y d a) (signF f (!·)) ∧ law (.fabs y d a) (signF f fun _ => false) ∧
     law (.fsqrt y d a) (sqrtF f root) ∧ law (.frcp y d a) (rcpF f root) ∧
     (f ≠ .f64 → law (.frsq y d a) (rsqF f) ∧ law (.fexp2 y d a) (exp2F f) ∧ law (.flog2 y d a) (log2F f) ∧
       law (.fsinp y d a) (sinpF f) ∧ law (.fcosp y d a) (cospF f)) ∧
     law (.ffloor y d a) (integralF f .rd true) ∧ law (.fceil y d a) (integralF f .ru true) ∧
     law (.ftrunc y d a) (integralF f .rz true) ∧ law (.frint y d a) (integralF f rnd false) ∧
     v.Lanes s (.fclass y d a) { uses := [ua], d := some (dUse d 1 false) } d [x] false (plainShape [x])
       fun l => BitVec.ofNat 64 (classF f (p l)))

/-- A float instruction whose enabled exception occurs in an active lane raises MATH, with the exceptions and the lanes in
which they occurred, in place of its effect: the arithmetic, the functions of one operand, FCMP, the conversions, the float
lane operations (an exception in the tree of a sum occurs in every active lane), TCVT and TROWMAX (04 R83; 07 R169, R175,
R180 to R184, R187, R188; 10 R265, R266). The model's choices: the nodes of a `PSUMF` that count (log 84), that the
frame's CODE holds the enabled exceptions alone (log 48), and that MATH comes before the check that the destination takes the
result's shape (log 43). -/
def Obligations.MathTraps : Prop :=
  (∀ (y : Bool) (d : BitVec 7) (a b : BitVec 9) (f : Fmt) (s : State) (v : View), s.view = some v →
    floatFmt v.mode = some f → v.core.shadow = 0 →
    let m := v.mode
    let rnd := Rnd.ofCode (modeRnd m)
    let root := if f = .f64 then rnd else .rne
    let ua := fltUse m a .a
    let ub := fltUse m b .b
    let x := v.read ua (some f)
    let z := v.read ub (some f)
    let w := v.readD d (fltRegs m)
    let p := fun l => decodeF f (x.lane l)
    let q := fun l => decodeF f (z.lane l)
    let two := fun (i : Instr) (xs : List Opnd) (reads : Bool) (g : Nat → FRes) =>
      v.TrapsMath s i { uses := [ua, ub], d := some (dUse d (fltRegs m) reads) } xs fun l => (g l).2
    let one := fun (i : Instr) (g : FVal → FRes) =>
      v.TrapsMath s i { uses := [ua], d := some (dUse d (fltRegs m) false) } [x] fun l => (g (p l)).2
    two (.fadd y d a b) [x, z] false (fun l => addF f rnd (p l) (q l)) ∧
    two (.fsub y d a b) [x, z] false (fun l => addF f rnd (p l) (q l).negate) ∧
    two (.fmul y d a b) [x, z] false (fun l => mulF f rnd (p l) (q l)) ∧
    two (.fma y d a b) [x, z, w] true (fun l => fmaF f rnd (decodeF f (w.lane l)) (p l) (q l)) ∧
    two (.fdiv y d a b) [x, z] false (fun l => divF f rnd (p l) (q l)) ∧
    two (.fmin y d a b) [x, z] false (fun l => minMaxF f false (p l) (q l)) ∧
    two (.fmax y d a b) [x, z] false (fun l => minMaxF f true (p l) (q l)) ∧
    one (.fneg y d a) (signF f (!·)) ∧ one (.fabs y d a) (signF f fun _ => false) ∧
    one (.fsqrt y d a) (sqrtF f root) ∧ one (.frcp y d a) (rcpF f root) ∧
    (f ≠ .f64 → one (.frsq y d a) (rsqF f) ∧ one (.fexp2 y d a) (exp2F f) ∧ one (.flog2 y d a) (log2F f) ∧
      one (.fsinp y d a) (sinpF f) ∧ one (.fcosp y d a) (cospF f)) ∧
    one (.ffloor y d a) (integralF f .rd true) ∧ one (.fceil y d a) (integralF f .ru true) ∧
    one (.ftrunc y d a) (integralF f .rz true) ∧ one (.frint y d a) (integralF f rnd false) ∧
    (∀ (c : BitVec 4) (k : BitVec 3), c.toNat ≤ 11 →
      v.TrapsMath s (.fcmp y c k a b) { uses := [ua, ub], d := none } [x, z] fun l =>
        if (p l).snan || (q l).snan || (decide (2 ≤ c.toNat ∧ c.toNat ≤ 5) && ((p l).isNan || (q l).isNan)) then excInv else 0) ∧
    (let uv := valUse m a .a
     let o := v.read uv (some f)
     let fm : Form := { uses := [uv], d := some (dUse d (valRegs m) false) }
     let leaf := fun l => if v.active.getLsbD l then BitVec.ofNat 64 ((o.lane l).toNat % 2 ^ f.width) else (0 : DWord)
     let signal := fun l => if (decodeF f (o.lane l)).snan then excInv else (0 : Exc)
     v.TrapsMath s (.psumf y d a) fm [o] (fun _ => v.activeLanes.foldl (fun e l => e ||| (prefixNode f rnd leaf l).2) 0) ∧
     v.TrapsMath s (.rsumf y d a) fm [o] (fun _ => (treeNode f rnd leaf v.width.log2 0).2) ∧
     v.TrapsMath s (.rmin y d a) fm [o] signal ∧ v.TrapsMath s (.rmax y d a) fm [o] signal)) ∧
  (∀ (y : Bool) (d : BitVec 7) (a : BitVec 9) (s : State) (v : View), s.view = some v → v.core.shadow = 0 →
    let m := v.mode
    (∀ (t : BitVec 4) (r : BitVec 3) (q : BitVec 1), t.toNat ≤ 13 → r ≠ 7 → v.tableBusy = false →
      let ua := valUse m a .a
      let x := v.read ua (floatFmt m)
      v.TrapsMath s (.cvt y d a t r q) { uses := [ua], d := some { dUse d (typeRegs t.toNat) false with fixed := true } } [x]
        fun l => (cvtLane (modeType m) t.toNat (CvtRnd.ofField r.toNat (modeRnd m)) (q == 1)
          (v.cvtDraw (if x.shape = .u then 0 else l)) (x.lane l)).2) ∧
    (∀ r : BitVec 1,
      let ua : Use := { field := a, pos := .a, n := 4, fixed := true }
      let xs := v.readQuad (v.srcOf ua)
      let w := v.readD d 1
      v.TrapsMath s (.cvtW y d a r) { uses := [ua], d := some (dUse d 1 true) } (w :: xs)
        fun l => (collect (quadLane xs l) (toSigned 32 (w.lane l).toNat)).2) ∧
    (let ua : Use := { field := a, pos := .a, n := 1, fixed := true }
     let x := v.read ua none
     let w := (x.lane 0).toNat
     let k := w % 16
     let first := w / 16 % 1024
     let tile := v.fib.tile k
     let type := w / 2 ^ 14
     let fm : Form := { uses := [ua], d := some (dUse d 1 false) }
     let ints := fmtAcc v.fib.spec.fmt = 1
     let n := if type = 13 then 4 else 2
     v.team.hdr.flags.getLsbD 1 = true → x.shape = .u → k < v.team.hdr.tiles → v.tileBusy k = false → tile.poison = [] →
      ((type = 13 ∨ (¬ints ∧ (type = 8 ∨ type = 9))) → v.tableBusy = false →
        v.TrapsMath s (.tcvt y d a) fm [x] fun l => (List.range n).foldl (fun e j => e ||| (cvtLane (if ints then 2 else 10) type
          (CvtRnd.mode (Rnd.ofCode (modeRnd m))) false (v.cvtDraw l) ((tile.cell (first + n * l + j)).setWidth 64)).2) 0) ∧
      (type = 0 → v.TrapsMath s (.trowmax y d a) fm [x] fun l =>
        if (List.range 32).any fun j => (decodeF .f32 ((tile.cell ((first / 32 + l) % 32 * 32 + j)).setWidth 64)).snan
        then excInv else 0)))

/-- CVT converts each lane by the kinds of its source and destination, with one draw for a U result, and advances RCNT
where 07 R189 says; CVT.w collects a wide cell; QRND draws from the fibre's table (07 R186 to R193). -/
def Obligations.Conversions : Prop :=
  (∀ (y : Bool) (d : BitVec 7) (a : BitVec 9) (t : BitVec 4) (r : BitVec 3) (q : BitVec 1) (s : State) (v : View),
    s.view = some v → t.toNat ≤ 13 → r ≠ 7 → v.tableBusy = false → v.core.shadow = 0 →
    let m := v.mode
    let rnd := CvtRnd.ofField r.toNat (modeRnd m)
    let ua := valUse m a .a
    let x := v.read ua (floatFmt m)
    let fm : Form := { uses := [ua], d := some { dUse d (typeRegs t.toNat) false with fixed := true } }
    let lane := fun l => cvtLane (modeType m) t.toNat rnd (q == 1) (v.cvtDraw (if x.shape = .u then 0 else l)) (x.lane l)
    let up : Word := if t.toNat = 8 ∨ t.toNat = 9 ∨ t.toNat = 13 ∨ r = 6 then 1 else 0
    let res := Result.shaped (typeRegs t.toNat == 2) (plainShape [x]) fun l => (lane l).1
    v.Ready fm → Clean [x] v.active → v.Quiet (fun l => (lane l).2) → v.Fits fm d res →
      ∃ u, exec (.cvt y d a t r q) s = .next u ∧ (∀ id, id.inFile = true → u.getReg v id = v.after fm d res id) ∧
        v.OnlyFibre s u ∧ ∃ f, u.fibre v.who.core v.who.res v.who.slot = some f ∧
          Fibre.GoesOnLa { v.fib with spec := { v.fib.spec with rcnt := v.fib.spec.rcnt + up } } f v.who.ply v.width v.active
            res.lane) ∧
  (∀ (y : Bool) (d : BitVec 7) (a : BitVec 9) (r : BitVec 1) (s : State) (v : View), s.view = some v →
    let ua : Use := { field := a, pos := .a, n := 4, fixed := true }
    let xs := v.readQuad (v.srcOf ua)
    let w := v.readD d 1
    let lane := fun l => collect (quadLane xs l) (toSigned 32 (w.lane l).toNat)
    v.core.shadow = 0 → v.Quiet (fun l => (lane l).2) →
      v.Computes s (.cvtW y d a r) { uses := [ua], d := some (dUse d 1 true) } d (w :: xs) v.active
        (Result.shaped false (plainShape (w :: xs)) fun l => (lane l).1)) ∧
  (∀ (y : Bool) (d : BitVec 7) (a b : BitVec 9) (s : State) (v : View), s.view = some v → v.tableBusy = false →
    modeType v.mode ≠ 8 → modeType v.mode ≠ 9 → modeType v.mode ≠ 11 →
    let ua := wordUse a .a
    let ub := wordUse b .b
    let x := v.read ua none
    let z := v.read ub none
    let u := fun l => draw v.table (x.lane l).toNat ((z.lane l).toNat % 32)
    v.Computes s (.qrnd y d a b) { uses := [ua, ub], d := some (dUse d 1 false) } d [x, z] v.active
      (Result.shaped false (plainShape [x, z]) fun l =>
        if modeType v.mode = 10 then (roundF .f32 .rne false (u l / 256) (-24) false).1 else BitVec.ofNat 64 (u l)))

/-! ### Moves and special registers -/

/-- MOV copies its source with its shape; GETM, GETF, GETX, GETG and GETL give MODE, FMT, EXEC, GANG and LINK; RDCLK gives
the core's cycle counter, or in a deterministic launch the retired instructions (07 R190, 08 R206, 18 R371). SETL, SETMODE,
SETFMT, SETEXEC and SETGANG set LINK, MODE, FMT, EXEC and GANG from a U operand that holds no reserved value, whatever the
active mask holds; EXEC gains no lane outside the ply mask (07 R190, R191, 03 R71 to R76). The model's readings: the GET
instructions write `la` and RDCLK does not (log 42); MOV moves the integer bits of an inline constant under a float TYPE
(log 94). -/
def Obligations.SpecialRegisters : Prop :=
  (∀ (y : Bool) (d : BitVec 7) (a : BitVec 9) (s : State) (v : View), s.view = some v →
     (let m := v.mode
      let ua := valUse m a .a
      let x := v.read ua none
      v.Lanes s (.mov y d a) { uses := [ua], d := some (dUse d (valRegs m) false) } d [x] (valRegs m == 2)
       (if valRegs m = 2 then plainShape [x] else x.shape) x.lane) ∧
     (let get := fun (i : Instr) (x : Word) =>
       v.Computes s i { uses := [], d := some { dUse d 1 false with fixed := true } } d [] v.active (Result.narrow (Value.uni x false))
      get (.getm y d) v.fib.spec.mode ∧ get (.getf y d) v.fib.spec.fmt ∧ get (.getg y d) v.fib.spec.gang) ∧
     (let fm : Form := { uses := [], d := some { dUse d 2 false with fixed := true } }
      let get := fun (i : Instr) (x : DWord) => v.Computes s i fm d [] v.active (Result.uni64 x false)
      get (.getx y d) v.ply.exec ∧ get (.getl y d) v.ply.link ∧
      (let now := BitVec.ofNat 64 (if v.team.det.isSome then v.fib.sched.retired else s.clock - v.core.resetAt)
       v.Ready fm → v.Fits fm d (Result.uni64 now false) →
         ∃ t, exec (.rdclk y d) s = .next t ∧ v.DeliversPlain fm d (Result.uni64 now false) s t))) ∧
  (∀ (y : Bool) (a : BitVec 9) (s : State) (v : View), s.view = some v →
     let law := fun (i : Instr) (n : Nat) (fixed : Bool) (legal : DWord → Prop) (f : DWord → Fibre) =>
       let ua : Use := { field := a, pos := .a, n := n, fixed := fixed }
       let x := v.read ua none
       let fm : Form := { uses := [ua], d := none }
       v.Ready fm → x.shape = .u → Clean [x] (fullMask v.width) → legal (x.lane 0) →
         ∃ t, exec i s = .next t ∧ v.Changes s t fm ((f (x.lane 0)).retire v.who.ply)
     law (.setl y a) 2 true (fun x => x.toNat % 4 = 0 ∧ x.toNat < 2 ^ 56)
       (fun x => v.fib.setPly v.who.ply { v.ply with link := x }) ∧
     law (.setmode y a) 1 true (fun x => x.toNat % 16 ≤ 12 ∧ x.toNat / 16 % 8 ≤ 4 ∧ x.toNat % 2 ^ 32 < 2 ^ 21)
       (fun x => { v.fib with spec := { v.fib.spec with mode := x.setWidth 32 } }) ∧
     law (.setfmt y a) 1 true
       (fun x => 4 ≤ x.toNat / 8 % 16 ∧ x.toNat / 8 % 16 ≤ 9 ∧ x.toNat / 128 % 4 ≤ 1 ∧ x.toNat / 512 % 8 ≤ 2 ∧
         x.toNat / 4096 % 4 ≤ 1 ∧ x.toNat % 2 ^ 32 < 2 ^ 18)
       (fun x => { v.fib with spec := { v.fib.spec with fmt := x.setWidth 32 } }) ∧
     law (.setexec y a) (if v.width = 64 then 2 else 1) false (fun _ => True)
       (fun x => v.fib.setPly v.who.ply { v.ply with exec := x &&& v.ply.mask }) ∧
     law (.setgang y a) 1 true
       (fun x => x.toNat % 2 ^ 32 ∈ [0, 1, 2, 4, 8, 3, 12, 15] ∧
         (x.toNat % 2 ^ 32 = 0 ∨ x.toNat.testBit (quadOf v.who.slot) = true))
       (fun x => { v.fib with spec := { v.fib.spec with gang := x.setWidth 32 } }))

/-! ### Control flow -/

/-- JMP, CALL, BRA, BRL, JMPR, CALLR and RET move the pc of the ply to a legal target or past the instruction, CALL and
CALLR setting LINK, whose bits [63:56] read 0; the target is checked, taken or not (03 R76; 08 R194, R195, R197). -/
def Obligations.Branches : Prop :=
  ∀ (y : Bool) (p : BitVec 3) (n : BitVec 1) (o : BitVec 18) (a : BitVec 9) (s : State) (v : View), s.view = some v →
    let next := v.ply.pc + 4
    let back : Addr := BitVec.ofNat 64 (next.toNat % 2 ^ 56)
    let x : Addr := BitVec.ofNat 64 (((v.ply.pc.toNat : Int) + 4 * o.toInt) % 2 ^ 56).toNat
    let takes := fun l => v.ply.exec.getLsbD l && ((v.fib.regs.preds.getD p.toNat 0).getLsbD l == (n == 0))
    let none' : Form := { uses := [], d := none }
    let goes := fun (i : Instr) (fm : Form) (pc link : Addr) => ∃ t, exec i s = .next t ∧
      v.Changes s t fm ((v.fib.setPly v.who.ply { v.ply with pc := pc, link := link, stall := none }).count v.who.ply)
    let traps := fun (i : Instr) => exec i s = .next (s.takeTrap v (Trap.plain .ill 7))
    (Target x →
      goes (.jmp y o) none' x v.ply.link ∧ goes (.call y o) none' x back ∧
      goes (.bra y p n o) none' (if (List.range 64).any takes then x else next) v.ply.link ∧
      goes (.brl y p n o) none'
        (if v.ply.exec ≠ 0 ∧ ((List.range 64).all fun l => !v.ply.exec.getLsbD l || takes l) then x else next) v.ply.link) ∧
    (¬Target x →
      traps (.jmp y o) ∧ traps (.call y o) ∧ traps (.bra y p n o) ∧ traps (.brl y p n o) ∧ traps (.brd y p n o)) ∧
    (Target v.ply.link → goes (.ret y) none' v.ply.link v.ply.link) ∧ (¬Target v.ply.link → traps (.ret y)) ∧
    (let ua := v.addrUse a .a
     let z := v.read ua none
     let fm : Form := { uses := [ua], d := none }
     v.Ready fm → z.shape = .u →
      (Target (z.lane 0) → Clean [z] (fullMask v.width) →
        goes (.jmpr y a) fm (z.lane 0) v.ply.link ∧ goes (.callr y a) fm (z.lane 0) back) ∧
      (¬Target (z.lane 0) → traps (.jmpr y a) ∧ traps (.callr y a)))

/-- The stack of a ply: four entries on chip, the older ones in the spill area, laid out as 02 R35 says; a pop gives back
what the push before it found, where entries are spilled only below four on chip, as in every run (02 R34, R35;
StackFormKept). The whole stack is the entries on chip over the spilled ones, the newest first; an entry is poisoned where its
atom is: so the model reads 17 R362 of the spill area (log 95). -/
def Obligations.Stacks : Prop :=
  ∀ (s : State) (v : View) (e : StackEntry), s.view = some v →
    let f := v.fib
    let p := v.ply
    let put := fun (stack : List StackEntry) (spilled : Nat) =>
      f.setPly v.who.ply { p with stack := stack, spilled := spilled }
    let slot := fun k => s.spillPa v.who.core v.who.res v.who.slot v.who.ply k
    (p.stack.length < 4 → v.BecomesFibre s (s.pushEntry v e) (put (e :: p.stack) p.spilled)) ∧
    (∀ old, p.stack.length = 4 → p.stack.getLast? = some old →
      let t := s.pushEntry v e
      let a := slot p.spilled
      t.fibre v.who.core v.who.res v.who.slot = some (put (e :: p.stack.dropLast) (p.spilled + 1)) ∧
      (∀ b, b ∉ span a 32 → readByte t.mem b = readByte s.mem b) ∧
      readNat t.mem a 8 = old.mask.toNat ∧
      readNat t.mem (a + 8) 8 = (old.addr.getD 0).toNat % 2 ^ 56 + (if old.arm then 2 ^ 63 else 0) ∧
      readNat t.mem (a + 16) 4 = old.mode.toNat ∧ readNat t.mem (a + 20) 4 = old.fmt.toNat ∧ readNat t.mem (a + 24) 8 = 0) ∧
    (p.spilled = 0 → v.BecomesFibre s (s.popEntry v) (put p.stack.tail 0)) ∧
    (∀ k, p.spilled = k + 1 → ∃ old : StackEntry, v.BecomesFibre s (s.popEntry v) (put (p.stack.tail ++ [old]) k) ∧
      old.mask.toNat = readNat s.mem (slot k) 8 ∧ old.mode.toNat = readNat s.mem (slot k + 16) 4 ∧
      old.fmt.toNat = readNat s.mem (slot k + 20) 4 ∧ old.arm = (readNat s.mem (slot k + 8) 8).testBit 63 ∧
      (old.addr.getD 0).toNat = readNat s.mem (slot k + 8) 8 % 2 ^ 56) ∧
    (p.stack.length ≤ 4 → (0 < p.spilled → p.stack.length = 4) →
      (∀ x ∈ p.stack, match x.addr with
        | some b => b.toNat < 2 ^ 56 ∧ (x.arm = true ∨ b ≠ 0)
        | none => x.arm = false) →
      ((s.pushEntry v e).popEntry v).fibre v.who.core v.who.res v.who.slot = some f) ∧
    (let whole := s.wholeStack v.who.core v.who.res v.who.slot v.who.ply p
     whole.length = p.stack.length + p.spilled ∧ (∀ k, k < p.stack.length → whole[k]? = p.stack[k]?) ∧
     ∀ k, k < p.spilled → ∃ x : StackEntry, whole[p.stack.length + (p.spilled - 1 - k)]? = some x ∧
      x.mask.toNat = readNat s.mem (slot k) 8 ∧ x.mode.toNat = readNat s.mem (slot k + 16) 4 ∧
      x.fmt.toNat = readNat s.mem (slot k + 20) 4 ∧ x.arm = (readNat s.mem (slot k + 8) 8).testBit 63 ∧
      (x.addr.getD 0).toNat = readNat s.mem (slot k + 8) 8 % 2 ^ 56 ∧
      x.bad = s.poisoned (span (slot k) 32))

/-- BRD: no lane takes it; every lane takes it; it is topmost, and the other ply takes the lanes that take it; it is
nested, and a merge entry and an arm entry are pushed; a push beyond 32 entries raises ILL (02 R31, R34; 08 R196). -/
def Obligations.Divergence : Prop :=
  ∀ (y : Bool) (p : BitVec 3) (n : BitVec 1) (o : BitVec 18) (s : State) (v : View), s.view = some v →
    let next := v.ply.pc + 4
    let x : Addr := BitVec.ofNat 64 (((v.ply.pc.toNat : Int) + 4 * o.toInt) % 2 ^ 56).toNat
    let q := v.fib.regs.preds.getD p.toNat 0
    let t := v.ply.exec &&& (if n = 1 then ~~~q else q)
    let r := v.ply.mask &&& ~~~t
    let none' : Form := { uses := [], d := none }
    let topmost := (v.fib.ply (1 - v.who.ply)).mask = 0 ∧ v.ply.stack = [] ∧ v.ply.spilled = 0
    let goes := fun (g : Ply) (pc : Addr) (m : Mask) => ({ g with pc := pc, exec := m, mask := m, stall := none } : Ply)
    let all := fun (pc : Addr) (m : Mask) => ∃ u, exec (.brd y p n o) s = .next u ∧
      v.Changes s u none' ((v.fib.setPly v.who.ply (goes v.ply pc m)).count v.who.ply)
    let pushed := fun (s1 : State) (pc : Addr) (m : Mask) => ∃ u g, exec (.brd y p n o) s = .next u ∧
      s1.fibre v.who.core v.who.res v.who.slot = some g ∧
      v.BecomesFibre s1 u ((g.setPly v.who.ply (goes (g.ply v.who.ply) pc m)).count v.who.ply)
    let entry : StackEntry :=
      { arm := false, mask := v.ply.mask, addr := none, mode := v.fib.spec.mode, fmt := v.fib.spec.fmt, bad := false }
    let depth := v.ply.stack.length + v.ply.spilled
    let full := exec (.brd y p n o) s = .next (s.takeTrap v (Trap.plain .ill 3))
    Target x →
      (t = 0 → all next v.ply.mask) ∧
      (t ≠ 0 → topmost → r = 0 → all x t) ∧
      (t ≠ 0 → topmost → r ≠ 0 → ∃ u, exec (.brd y p n o) s = .next u ∧
        v.Changes s u none'
          { ((v.fib.setPly v.who.ply (goes v.ply next r)).setPly (1 - v.who.ply)
              { Ply.empty with pc := x, exec := t, mask := t, link := v.ply.link }).count v.who.ply with
            merge := some { mode := v.fib.spec.mode, fmt := v.fib.spec.fmt, owner := v.who.ply } }) ∧
      (t ≠ 0 → ¬topmost → r = 0 → (depth + 1 ≤ 32 → pushed (s.pushEntry v entry) x t) ∧ (32 < depth + 1 → full)) ∧
      (t ≠ 0 → ¬topmost → r ≠ 0 →
        (depth + 2 ≤ 32 →
          pushed ((s.pushEntry v entry).pushEntry v { entry with arm := true, mask := t, addr := some x }) next r) ∧
        (32 < depth + 2 → full))

/-- JOIN: with an empty stack a ply passes it alone, waits for the other ply, or merges with it; else the top entry is
popped and restored, an arm giving the merge entry below it the address after the JOIN.  Entries whose lanes have all left,
on chip or spilled, are passed over at once, and a ply that no entry gives a lane ends (02 R32; 08 R198, R205).  A poisoned entry that would be
taken raises POISON: so the model reads 17 R363 of the stack (log 95). -/
def Obligations.Joining : Prop :=
  ∀ (y : Bool) (s : State) (v : View), s.view = some v →
    let o := v.fib.ply (1 - v.who.ply)
    let none' : Form := { uses := [], d := none }
    let empty := v.ply.stack = [] ∧ v.ply.spilled = 0
    let whole := s.wholeStack v.who.core v.who.res v.who.slot v.who.ply v.ply
    let formed := v.ply.StackForm ∧ whole.length ≤ 32
    let next := v.ply.pc + 4
    let goes := fun (f : Fibre) => ∃ t, exec (.join y) s = .next t ∧ v.Changes s t none' f
    let gone := fun (e : StackEntry) => e.mask &&& v.fib.lanes = 0
    let at_ := fun (e : StackEntry) => if e.arm then e.addr.getD 0 else e.addr.getD next
    let named := fun (es : List StackEntry) => match es with
      | b :: bs => { b with addr := some next } :: bs
      | [] => []
    let restored := fun (f : Fibre) (e : StackEntry) (es : List StackEntry) =>
      ({ (f.setPly v.who.ply
          { f.ply v.who.ply with
            pc := at_ e, exec := e.mask &&& v.fib.lanes, mask := e.mask &&& v.fib.lanes, stall := none
            stack := es.take 4, spilled := es.length - 4 }).count v.who.ply with
        spec := { f.spec with mode := e.mode, fmt := e.fmt } } : Fibre)
    let below := fun (e : StackEntry) (es : List StackEntry) => if e.arm then named es else es
    (empty → o.mask = 0 → goes (v.fib.retire v.who.ply)) ∧
    (empty → o.mask ≠ 0 → o.atJoin = false →
      goes ((v.fib.setPly v.who.ply { v.ply with atJoin := true, stall := none }).count v.who.ply)) ∧
    (∀ m, empty → o.mask ≠ 0 → o.atJoin = true → v.fib.merge = some m → m.owner ≤ 1 →
      goes { ((v.fib.setPly m.owner
                { v.fib.ply m.owner with
                  pc := (v.fib.ply m.owner).pc + 4, exec := v.fib.p0.mask ||| v.fib.p1.mask, stall := none
                  mask := v.fib.p0.mask ||| v.fib.p1.mask, atJoin := false }).setPly (1 - m.owner) Ply.empty).count
                v.who.ply with
              merge := none, spec := { v.fib.spec with mode := m.mode, fmt := m.fmt } }) ∧
    (∀ (e : StackEntry) (es : List StackEntry), formed → whole = e :: es → ¬gone e → e.bad = false →
      ∃ t, exec (.join y) s = .next t ∧ v.BecomesFibre s t (restored v.fib e (below e es))) ∧
    (∀ (a e : StackEntry) (xs es : List StackEntry), formed → whole = a :: xs ++ e :: es → (∀ x ∈ a :: xs, gone x ∧ x.bad = false) →
      ¬gone e → e.bad = false → ∃ t, exec (.join y) s = .next t ∧ v.BecomesFibre s t
        (restored v.fib (if a.arm ∧ xs = [] then { e with addr := some next } else e) es)) ∧
    (formed → whole ≠ [] → (∀ x ∈ whole, gone x ∧ x.bad = false) →
      (o.mask = 0 → ∃ t, exec (.join y) s = .next t ∧ t.fibre v.who.core v.who.res v.who.slot = none) ∧
      (o.mask ≠ 0 → o.atJoin = false → ∃ t, exec (.join y) s = .next t ∧ v.BecomesFibre s t
        { (v.fib.setPly v.who.ply Ply.empty).count v.who.ply with merge := none }) ∧
      (∀ m, o.mask ≠ 0 → o.atJoin = true → v.fib.merge = some m → ∃ t, exec (.join y) s = .next t ∧ v.BecomesFibre s t
        { ((v.fib.setPly v.who.ply Ply.empty).setPly (1 - v.who.ply)
            { o with atJoin := false, pc := o.pc + 4, stall := none }).count v.who.ply with
          merge := none, spec := { v.fib.spec with mode := m.mode, fmt := m.fmt } })) ∧
    (∀ (e : StackEntry) (xs es : List StackEntry), whole = xs ++ e :: es → (∀ x ∈ xs, gone x) → e.bad = true →
      exec (.join y) s = .next (s.takeTrap v (Trap.plain .poison 0)))

/-- LOOP captures its body and runs the first pass, or passes over the body when the count is 0; a body word that may
not stand there raises ILL, and so does a WSTART of 64 or more; each body word and each pass follows the one before; in each
pass the main registers from WSTART on that A, B and D name move by their steps within the window, and a tile index by DSTEP
(02 R48 to R51, 08 R199). -/
def Obligations.Loops : Prop :=
  (∀ (y : Bool) (c : BitVec 6) (l : BitVec 5) (step : BitVec 32) (s : State) (v : View), s.view = some v →
    64 ≤ step.toNat / 2 ^ 16 % 2 ^ 7 → exec (.loop y c l step) s = .next (s.takeTrap v (Trap.plain .ill 0))) ∧
  (∀ (v : View) (u : Use) (d : BitVec 7),
    (∀ l, v.ply.loop = some l → l.step.toNat / 2 ^ 16 % 2 ^ 7 < 64 →
      let start := l.step.toNat / 2 ^ 16 % 2 ^ 7
      let signed := fun n : Nat => if n < 4 then (n : Int) else n - 8
      let dstep := signed (l.step.toNat / 2 ^ 29 % 8)
      let astep := signed (l.step.toNat / 2 ^ 26 % 8)
      let bstep := signed (l.step.toNat / 2 ^ 23 % 8)
      let k : Int := l.pass
      let moved := fun (i : Nat) (st : Int) =>
        if i < start then i else start + (((i : Int) - start + k * st) % (64 - start)).toNat
      (∀ i, srcOf u.field = some (.v i) → (u.pos = .a → v.srcOf u = .v (moved i astep)) ∧
        (u.pos = .b → v.srcOf u = .v (moved i bstep)) ∧ (u.pos = .d → v.srcOf u = .v (moved i dstep))) ∧
      (∀ i, destOf d = some (.v i) → v.dest d = .v (moved i dstep)) ∧
      ∀ i, i < 16 → v.tileIndex i = (((i : Int) + k * dstep) % 16).toNat) ∧
    (∀ x, srcOf u.field = some x → v.ply.loop = none ∨ (∀ i, x ≠ .v i) → v.srcOf u = x) ∧
    (∀ x, destOf d = some x → v.ply.loop = none ∨ (∀ i, x ≠ .v i) → v.dest d = x) ∧
    (v.ply.loop = none → ∀ i, v.tileIndex i = i)) ∧
  (∀ (y : Bool) (c : BitVec 6) (l : BitVec 5) (step : BitVec 32) (s : State) (v : View) (body : List Word),
    s.view = some v → stepStart step < 64 → s.fetchBody v v.ply.pc (l.toNat + 1) = .ok body →
    let d : BitVec 7 := c.setWidth 7
    let x := v.readD d 1
    let fm : Form := { uses := [], d := some { field := d, n := 1, fixed := true, reads := true, discard := false } }
    let n := (x.lane 0).toNat
    let goes := fun (pc : Addr) (loop : Option LoopState) => ∃ t, exec (.loop y c l step) s = .next t ∧
      v.Changes s t fm ((v.fib.setPly v.who.ply { v.ply with pc := pc, loop := loop, stall := none }).count v.who.ply)
    (fm.encOk = true → body.any loopForbids = true → exec (.loop y c l step) s = .next (s.takeTrap v (Trap.plain .ill 6))) ∧
    (v.Ready fm → x.shape = .u → Clean [x] (fullMask v.width) → body.any loopForbids = false →
      (n = 0 → goes (v.ply.pc + 8 + BitVec.ofNat 64 (4 * (l.toNat + 1))) v.ply.loop) ∧
      (n ≠ 0 → goes (v.ply.pc + 8)
        (some { laddr := v.ply.pc, body := body, step := step, pass := 0, count := n, idx := 0, loff := 0 })))) ∧
  (∀ (p : Ply) (l : LoopState), p.loop = some l →
    (l.idx + 1 < l.body.length →
      p.advance = { p with pc := p.pc + 4, stall := none, loop := some { l with idx := l.idx + 1 } }) ∧
    (l.body.length ≤ l.idx + 1 → l.pass + 1 < l.count →
      p.advance = { p with
        pc := l.laddr + 8, stall := none
        loop := some { l with idx := 0, pass := l.pass + 1, loff := l.loff + (l.step.extractLsb' 0 16).toInt } }) ∧
    (l.body.length ≤ l.idx + 1 → l.count ≤ l.pass + 1 →
      p.advance = { p with pc := l.laddr + 8 + BitVec.ofNat 64 (4 * l.body.length), stall := none, loop := none }))

/-- EXIT takes the lanes of the ply out of the fibre: the fibre ends, the other ply goes on alone, or the top entry of
the stack is restored; entries whose lanes have all left, on chip or spilled, are passed over at once, and a ply that no entry gives a lane ends
(02 R32; 08 R202, R205).  A poisoned entry that would be taken raises POISON: so the model reads 17 R363 of the stack (log
95). -/
def Obligations.Ending : Prop :=
  ∀ (y : Bool) (s : State) (v : View), s.view = some v →
    let o := v.fib.ply (1 - v.who.ply)
    let none' : Form := { uses := [], d := none }
    let left := v.fib.lanes &&& ~~~v.ply.mask
    let whole := s.wholeStack v.who.core v.who.res v.who.slot v.who.ply v.ply
    let formed := v.ply.StackForm ∧ whole.length ≤ 32
    let gone := fun (e : StackEntry) => e.mask &&& left = 0
    let restored := fun (f : Fibre) (e : StackEntry) (es : List StackEntry) =>
      ({ (f.setPly v.who.ply
          { f.ply v.who.ply with
            pc := if e.arm then e.addr.getD 0 else e.addr.getD (v.ply.pc + 4)
            exec := e.mask &&& left, mask := e.mask &&& left, stall := none
            stack := es.take 4, spilled := es.length - 4 }).count v.who.ply with
        lanes := left, spec := { f.spec with mode := e.mode, fmt := e.fmt } } : Fibre)
    (formed → (∀ x ∈ whole, gone x ∧ x.bad = false) →
      (o.mask = 0 → ∃ t, exec (.exit y) s = .next t ∧ t.fibre v.who.core v.who.res v.who.slot = none) ∧
      (o.mask ≠ 0 → o.atJoin = false → ∃ t, exec (.exit y) s = .next t ∧
        v.Changes s t none' { (v.fib.setPly v.who.ply Ply.empty).count v.who.ply with lanes := left, merge := none }) ∧
      (∀ m, o.mask ≠ 0 → o.atJoin = true → v.fib.merge = some m → ∃ t, exec (.exit y) s = .next t ∧
        v.Changes s t none'
          { ((v.fib.setPly v.who.ply Ply.empty).setPly (1 - v.who.ply)
              { o with atJoin := false, pc := o.pc + 4, stall := none }).count v.who.ply with
            lanes := left, merge := none, spec := { v.fib.spec with mode := m.mode, fmt := m.fmt } })) ∧
    (∀ (e : StackEntry) (xs es : List StackEntry), formed → whole = xs ++ e :: es → (∀ x ∈ xs, gone x ∧ x.bad = false) →
      ¬gone e → e.bad = false → ∃ t, exec (.exit y) s = .next t ∧ v.BecomesFibre s t (restored v.fib e es)) ∧
    (∀ (e : StackEntry) (xs es : List StackEntry), whole = xs ++ e :: es → (∀ x ∈ xs, gone x) → e.bad = true →
      exec (.exit y) s = .next (s.takeTrap v (Trap.plain .poison 0)))

/-- SPAWN and EXITN push an entry with v0 to v3 for each active lane, EXITN each lane's to the bin of its own successor: the
groups in ascending lane order, all or none; EXITN's lanes then leave: the ply goes on with the others, or, where none is
left, the fibre ends, the other ply goes on alone, or the stack's first entry with a lane left is restored, as at EXIT; more
than eight successors, and one that is no target, raise ILL; a group that does not fit stalls the ply. A bin is chosen by its
target, else the first empty one, holds twice W entries, and is FULL from W on (02 R26, R32, R38, R39; 08 R202 to R205). The model's choices: which empty bin is taken (log 108), and a poisoned entry that would
be taken raises POISON (log 95). -/
def Obligations.Spawning : Prop :=
  (∀ (y : Bool) (a : BitVec 9) (s : State) (v : View) (bins : List Bin), s.view = some v → v.binWait = .ok () →
    let value := fun (i l : Nat) => if i < v.declared ∧ (v.reg (.v i)).live = true then (v.reg (.v i)).val.lane l else 0
    let entry := fun l => ({ v := [value 0 l, value 1 l, value 2 l, value 3 l], fibre := v.fib.num, lane := l } : BinEntry)
    let clean := ∀ i, i < 4 → i < v.declared → (v.reg (.v i)).live = true → Clean [Opnd.ofReg (v.reg (.v i)) v.width] v.active
    let old := (List.range 8).map fun i => v.team.bins.getD i Bin.empty
    (let ua := v.addrUse a .a
     let x := v.read ua none
     let fm : Form := { uses := [ua], d := none }
     v.Ready fm → x.shape = .u → Clean [x] v.active → clean → Target (x.lane 0) →
      pushGroup old v.width s.clock (x.lane 0) (v.activeLanes.map entry) = some bins →
      ∃ t, exec (.spawn y a) s = .next t ∧
        (v.activeLanes = [] → v.Changes s t fm (v.fib.retire v.who.ply)) ∧
        (v.activeLanes ≠ [] → t.team v.who.core v.who.res = some { v.team with bins := bins } ∧ t.mem = s.mem ∧
          ∃ g, t.fibre v.who.core v.who.res v.who.slot = some g ∧ g.p0 = (v.fib.retire v.who.ply).p0 ∧
            g.p1 = (v.fib.retire v.who.ply).p1 ∧ g.lanes = v.fib.lanes)) ∧
    (let ua : Use := { field := a, pos := .a, n := 2, fixed := true }
     let x := v.read ua none
     let fm : Form := { uses := [ua], d := none }
     let groupOf := fun z => (v.activeLanes.filter fun l => x.lane l == z).map entry
     let order := fun (zs : List Addr) => zs.Nodup ∧ (∀ l ∈ v.activeLanes, x.lane l ∈ zs) ∧
       ∀ (i : Nat) (z : Addr), zs[i]? = some z → ∃ l ∈ v.activeLanes, x.lane l = z ∧
        ∀ k ∈ v.activeLanes, k < l → ∃ j, j < i ∧ zs[j]? = some (x.lane k)
     let pushes := fun (zs : List Addr) (at_ : Nat → List Bin) => at_ 0 = old ∧
       ∀ (i : Nat) (z : Addr), zs[i]? = some z → pushGroup (at_ i) v.width s.clock z (groupOf z) = some (at_ (i + 1))
     v.Ready fm →
      ((∃ l ∈ v.activeLanes, ¬Target (x.lane l)) → ∃ t : Trap, t.kind = .ill ∧
        (∀ l, l < 64 → (t.lanes.getLsbD l = true ↔ l ∈ v.activeLanes ∧ ¬Target (x.lane l))) ∧
        exec (.exitn y a) s = .next (s.takeTrap v t)) ∧
      ((∀ l ∈ v.activeLanes, Target (x.lane l)) →
        (∀ zs : List Addr, order zs → 8 < zs.length → v.Traps s (.exitn y a) .ill) ∧
        (v.active = 0 → ∃ t, exec (.exitn y a) s = .next t ∧ v.Changes s t fm (v.fib.retire v.who.ply)) ∧
        (∀ (zs : List Addr) (i : Nat) (z : Addr) (at_ : Nat → List Bin), v.activeLanes ≠ [] → Clean [x] v.active → clean → order zs → zs.length ≤ 8 → at_ 0 = old →
          (∀ (j : Nat) (u : Addr), j < i → zs[j]? = some u → pushGroup (at_ j) v.width s.clock u (groupOf u) = some (at_ (j + 1))) →
          zs[i]? = some z → pushGroup (at_ i) v.width s.clock z (groupOf z) = none →
          ∃ t, exec (.exitn y a) s = .next t ∧ t.mem = s.mem ∧ t.team v.who.core v.who.res = some v.team ∧
            v.OnlyFibre s t ∧ ∃ g, t.fibre v.who.core v.who.res v.who.slot = some g ∧
              g.ply v.who.ply = { v.ply with stall := some y }) ∧
        (∀ (zs : List Addr) (at_ : Nat → List Bin), v.activeLanes ≠ [] → Clean [x] v.active → clean → order zs → zs.length ≤ 8 → pushes zs at_ →
          let bins := at_ zs.length
          (v.ply.mask &&& ~~~v.active ≠ 0 →
            ∃ t g, exec (.exitn y a) s = .next t ∧ t.team v.who.core v.who.res = some { v.team with bins := bins } ∧
              t.mem = s.mem ∧ t.fibre v.who.core v.who.res v.who.slot = some g ∧ g.lanes = v.fib.lanes &&& ~~~v.active ∧
              g.ply v.who.ply = { v.ply with
                pc := v.ply.pc + 4, mask := v.ply.mask &&& ~~~v.active, exec := v.ply.exec &&& ~~~v.active, stall := none }) ∧
          (v.ply.mask &&& ~~~v.active = 0 →
            let o := v.fib.ply (1 - v.who.ply)
            let left := v.fib.lanes &&& ~~~v.active
            let whole := s.wholeStack v.who.core v.who.res v.who.slot v.who.ply v.ply
            let formed := v.ply.StackForm ∧ whole.length ≤ 32
            let gone := fun (e : StackEntry) => e.mask &&& left = 0
            let becomes := fun (f : Fibre) => ∃ t, exec (.exitn y a) s = .next t ∧ v.Left t fm { f with lanes := left } ∧
              t.team v.who.core v.who.res = some { v.team with bins := bins } ∧ t.mem = s.mem
            let restored := fun (f : Fibre) (e : StackEntry) (es : List StackEntry) =>
              ({ (f.setPly v.who.ply
                  { f.ply v.who.ply with
                    pc := if e.arm then e.addr.getD 0 else e.addr.getD (v.ply.pc + 4)
                    exec := e.mask &&& left, mask := e.mask &&& left, stall := none
                    stack := es.take 4, spilled := es.length - 4 }).count v.who.ply with
                spec := { f.spec with mode := e.mode, fmt := e.fmt } } : Fibre)
            (formed → (∀ e ∈ whole, gone e ∧ e.bad = false) →
              (o.mask = 0 → ∃ t, exec (.exitn y a) s = .next t ∧ t.fibre v.who.core v.who.res v.who.slot = none ∧
                (t.team v.who.core v.who.res).map (·.bins) = some bins) ∧
              (o.mask ≠ 0 → o.atJoin = false →
                becomes { (v.fib.setPly v.who.ply Ply.empty).count v.who.ply with merge := none }) ∧
              (∀ m, o.mask ≠ 0 → o.atJoin = true → v.fib.merge = some m →
                becomes { ((v.fib.setPly v.who.ply Ply.empty).setPly (1 - v.who.ply)
                    { o with atJoin := false, pc := o.pc + 4, stall := none }).count v.who.ply with
                  merge := none, spec := { v.fib.spec with mode := m.mode, fmt := m.fmt } })) ∧
            (∀ (e : StackEntry) (xs es : List StackEntry), formed → whole = xs ++ e :: es →
              (∀ k ∈ xs, gone k ∧ k.bad = false) → ¬gone e → e.bad = false → becomes (restored v.fib e es)) ∧
            (∀ (e : StackEntry) (xs es : List StackEntry), whole = xs ++ e :: es → (∀ k ∈ xs, gone k) → e.bad = true →
              exec (.exitn y a) s = .next (s.takeTrap v (Trap.plain .poison 0)))))))) ∧
  (∀ (bins : List Bin) (w now : Nat) (x : Addr) (es : List BinEntry),
    let keyed := bins.findIdx? fun b => b.state != .empty && b.target == x
    let free := bins.findIdx? fun b => b.state == .empty
    (keyed = none → free = none → pushGroup bins w now x es = none) ∧
    (∀ i b, (keyed = some i ∨ (keyed = none ∧ free = some i)) → bins[i]? = some b →
      (2 * w < b.entries.length + es.length → pushGroup bins w now x es = none) ∧
      (b.entries.length + es.length ≤ 2 * w → ∃ b', pushGroup bins w now x es = some (bins.set i b') ∧ b'.target = x ∧
        b'.entries = b.entries ++ es ∧ b'.since = (if b.state = .empty then now else b.since) ∧
        b'.state = (if b.state = .empty ∨ b.state = .filling then
          (if w ≤ b.entries.length + es.length then .full else .filling) else b.state))))

/-- NOP has no effect; YIELD passes the spindle to its next READY fibre; NOPRE opens a section, whose budget runs from when it has
retired, without renewing an open one's; PREOK closes it; SETTH sets or removes the team's handler (08 R201, R206, R207, R211; 02 R27).  The cause 1 of the
ILL of a NOPRE that the header does not allow is the model's choice (log 41). -/
def Obligations.SmallControl : Prop :=
  ∀ (y : Bool) (a : BitVec 9) (s : State) (v : View), s.view = some v →
    let none' : Form := { uses := [], d := none }
    let sched := fun (f : FSched → FSched) => ({ v.fib with sched := f v.fib.sched }.retire v.who.ply : Fibre)
    (∃ t, exec (.nop y) s = .next t ∧ v.Changes s t none' (v.fib.retire v.who.ply)) ∧
    (v.team.hdr.flags.getLsbD 3 = true → ∃ t, exec (.nopre y) s = .next t ∧
      let g := v.fib.retire v.who.ply
      v.Changes s t none' { g with sched := { g.sched with
        nopre := if v.fib.sched.nopre.isSome then g.sched.nopre
          else some (if v.team.det.isSome then g.sched.retired else s.clock) } }) ∧
    (v.team.hdr.flags.getLsbD 3 = false → exec (.nopre y) s = .next (s.takeTrap v (Trap.plain .ill 1))) ∧
    (∃ t, exec (.preok y) s = .next t ∧ v.Changes s t none' (sched fun x => { x with nopre := none })) ∧
    (∃ t, exec (.yield y) s = .next t ∧ t.fibre v.who.core v.who.res v.who.slot = some (v.fib.retire v.who.ply) ∧
      t = { s with cores := t.cores }) ∧
    (v.who.slot < 32 → kget v.res.active (spindleKey v.who.slot) = some v.who.slot →
      (v.fib.retire v.who.ply).isReady = true →
      ∃ t sl, exec (.yield y) s = .next t ∧
        t.fibre v.who.core v.who.res v.who.slot = some (v.fib.retire v.who.ply) ∧ t.mem = s.mem ∧
        kget (t.res v.who.core v.who.res).active (spindleKey v.who.slot) = some sl ∧
        (spindleOrder (spindleKey v.who.slot) (posOf v.who.slot)).find? (fun k =>
          ((t.fibre v.who.core v.who.res k).map Fibre.isReady).getD false) = some sl) ∧
    (let ua := v.addrUse a .a
     let x := v.read ua none
     let fm : Form := { uses := [ua], d := none }
     v.Ready fm → x.shape = .u → Clean [x] (fullMask v.width) → (x.lane 0 = 0 ∨ Target (x.lane 0)) →
      ∃ t, exec (.setth y a) s = .next t ∧ t.team v.who.core v.who.res = some { v.team with handler := x.lane 0 } ∧
        t.mem = s.mem ∧ (∀ id, id.inFile = true → t.getReg v id = v.used fm id) ∧
        ∃ g, t.fibre v.who.core v.who.res v.who.slot = some g ∧ g.ply v.who.ply = v.ply.advance)

/-! ### Traps -/

/-- A trap enters the handler: the frame is written where 17 R357 says, the ply is marked, MODE becomes 2, the pc the handler's
address, EXEC, the ply mask and the stack stay, the ply's fills are freed (17 R352), and an instruction that was counted when it
began to wait is no longer counted (18 R373; log 125); without a handler, in a handler, and for POISON and SHADOW the fibre
freezes with the kill cause, and an event is posted (08 R207; 17 R355 to R358). TRET restores EXEC within the ply mask,
MODE, FMT, LINK and the loop from the frame, clears the mark, and goes on at the trapping instruction or after it, which is
8 bytes on after a LOOP; what a trap wrote into a frame is what the return reads (08 R209, 17 R358). The frame's bytes are those
that a load of the fibre would read: memory, over which a fibre of a deterministic launch sees what it has buffered (05 R127,
18 R376). -/
def Obligations.Handlers : Prop :=
  (∀ (s : State) (v : View) (tr : Trap), s.view = some v → v.fib.status ≠ .frozen →
     let t := s.takeTrap v tr
     let pa := s.framePa v.who.core v.who.res v.who.slot v.who.ply v.team.hdr.scratch
     let at_ := fun o n => readNat t.mem (pa + o) n
     let enters := tr.kind ≠ .poison ∧ tr.kind ≠ .shadow ∧ v.team.handler ≠ 0 ∧ v.ply.inHandler = false ∧
       8192 ≤ v.team.hdr.scratch
     let cause := if tr.kind = .poison then 3 else if tr.kind = .shadow then 4 else if v.team.handler = 0 then 0
       else if v.ply.inHandler then 1 else 7
     (enters →
       t.fibre v.who.core v.who.res v.who.slot = some
         { v.fib.setPly v.who.ply
             { v.ply with pc := v.team.handler, loop := none, inHandler := true, stall := none, atLatch := false } with
           spec := { v.fib.spec with mode := 2 }
           sched := { v.fib.sched.uncount v.who.ply with fills := v.fib.sched.fills.filter (·.1 != v.who.ply) } } ∧
       (∀ a, a ∉ span pa 128 → readByte t.mem a = readByte s.mem a) ∧
       at_ 0 1 = tr.kind.code % 256 ∧ at_ 1 1 = tr.cause % 256 ∧
       at_ 2 1 = (v.who.ply + if v.ply.loop.isSome then 2 else 0) % 256 ∧ at_ 4 4 = tr.code.toNat ∧
       at_ 8 8 = v.ply.pc.toNat ∧ at_ 16 8 = v.ply.exec.toNat ∧ at_ 24 8 = v.ply.link.toNat ∧
       at_ 32 4 = v.fib.spec.mode.toNat ∧ at_ 36 4 = v.fib.spec.fmt.toNat ∧ at_ 40 8 = tr.lanes.toNat ∧
       at_ 48 8 = tr.addr.toNat ∧ at_ 80 2 = tr.field % 65536) ∧
     (¬enters → ∃ f, t.fibre v.who.core v.who.res v.who.slot = some f ∧ f.status = .frozen ∧ f.wait = none ∧
       f.sched.killed = some cause ∧ ∃ e ∈ t.control.events, e.type = .fibreFrozen ∧ e.ctx = v.team.ctx ∧
         e.payload = [v.who.core, v.who.slot, v.who.res, cause, tr.kind.code, tr.cause, v.ply.pc.toNat])) ∧
  ((∀ (y : Bool) (a : BitVec 9) (s : State) (v : View) (loop : Option LoopState) (atLoop : Bool), s.view = some v →
     let ua : Use := { field := a, pos := .a, n := 1, fixed := true }
     let x := v.read ua none
     let fm : Form := { uses := [ua], d := none }
     let pa := s.framePa v.who.core v.who.res v.who.slot v.who.ply v.team.hdr.scratch
     let rd := fun o n => leAt (s.ownBytes v (span pa 128)) o n
     let fr : Frame :=
       { looping := (rd 2 1).testBit 1, pc := BitVec.ofNat 64 (rd 8 8), exec := BitVec.ofNat 64 (rd 16 8)
         link := BitVec.ofNat 64 (rd 24 8), mode := BitVec.ofNat 32 (rd 32 4), fmt := BitVec.ofNat 32 (rd 36 4)
         pass := rd 56 4, count := rd 60 4, loff := toSigned 32 (rd 64 4), laddr := BitVec.ofNat 64 (rd 72 8) }
     let back : Ply := { v.ply with
       pc := fr.pc, exec := fr.exec &&& v.ply.mask, link := fr.link, loop := loop, inHandler := false, stall := none }
     v.Ready fm → x.shape = .u → Clean [x] (fullMask v.width) → v.ply.inHandler = true → (x.lane 0).toNat ≤ 1 →
     s.mustWait v (span pa 128) = false → s.ownPoison v (span pa 128) = false →
     modeLegal fr.mode = true → fmtLegal fr.fmt = true → fr.link.toNat % 4 = 0 → fr.link.toNat < 2 ^ 56 →
     (fr.looping = true → fr.pass < fr.count) → Target fr.pc → s.frameLoop v fr = .ok loop →
     ((x.lane 0).toNat = 0 ∨ fr.looping = true → atLoop = false) →
     ((x.lane 0).toNat = 1 → fr.looping = false →
       ∃ w, s.fetchWord v fr.pc.toNat = .ok w ∧ atLoop = (w.extractLsb' 25 6 == 0x3E)) →
       ∃ t, exec (.tret y a) s = .next t ∧ v.Changes s t fm
         { (v.fib.setPly v.who.ply
             (if (x.lane 0).toNat = 1 then ({ back with pc := if atLoop then fr.pc + 4 else fr.pc } : Ply).advance
              else back)).count v.who.ply with
           spec := { v.fib.spec with mode := fr.mode, fmt := fr.fmt } }) ∧
   (∀ (s : State) (v : View) (as : List Nat), s.view = some v → v.team.det = none →
     s.ownBytes v as = as.map s.loadByte ∧ s.ownPoison v as = s.poisoned as) ∧
   (∀ (x : FSched) (p : Nat) (now : Bool), (kget x.tally p = none → x.uncount p = x) ∧
     (kget x.tally p = some now → (x.uncount p).retired = x.retired - 1 ∧
       (x.uncount p).left = (if now then x.left.map (· + 1) else x.left) ∧ kget (x.uncount p).tally p = none)) ∧
   (∀ (tr : Trap) (ply : Nat) (p : Ply) (mode fmt : Word), ply ≤ 1 →
     (∀ l, p.loop = some l → l.pass < 2 ^ 32 ∧ l.count < 2 ^ 32 ∧ -2 ^ 31 ≤ l.loff ∧ l.loff < 2 ^ 31) →
     frameOf (frameBytes tr ply p mode fmt) =
       { looping := p.loop.isSome, pc := p.pc, exec := p.exec, link := p.link, mode := mode, fmt := fmt
         pass := (p.loop.map (·.pass)).getD 0, count := (p.loop.map (·.count)).getD 0
         loff := (p.loop.map (·.loff)).getD 0, laddr := (p.loop.map (·.laddr)).getD 0 }))

/-- TRAP raises SOFT with its U code, whatever the active mask holds, and SHAPE on a code that is not U (08 R208). -/
def Obligations.SoftTrap : Prop :=
  ∀ (y : Bool) (a : BitVec 9) (s : State) (v : View), s.view = some v →
    let ua : Use := { field := a, pos := .a, n := 1, fixed := true }
    let x := v.read ua none
    let fm : Form := { uses := [ua], d := none }
    fm.encOk = true → v.formOk fm = true →
      (x.shape ≠ .u → exec (.trap y a) s = .next (s.takeTrap v { Trap.plain .shape 0 with field := a.toNat })) ∧
      (x.shape = .u → v.Ready fm → Clean [x] (fullMask v.width) →
        exec (.trap y a) s = .next (s.takeTrap v { Trap.plain .soft 0 with code := (x.lane 0).setWidth 32 }))

/-! ### Memory -/

/-- LD, LDX, ST and STX: under an empty mask nothing is accessed; else the lanes' addresses are translated and checked and
one access is left outstanding, of one lane for a uniform load; a deterministic launch buffers what it stores outside the
team window (09 R218 to R224; 05 R121; 18 R375). The model's readings: every lane is translated before any is checked (log
32), and what a check record holds (log 40). -/
def Obligations.MemoryAccess : Prop :=
  ∀ (y : Bool) (d : BitVec 7) (a b : BitVec 9) (z : BitVec 3) (off : BitVec 6) (s : State) (v : View), s.view = some v →
    let ua := v.addrUse a .a
    let ub := wordUse b .b
    let x := v.read ua none
    let w := v.read ub none
    let index := fun l => ((w.lane l).setWidth 32 : Word).toInt
    let sized := if modeType v.mode = 0 ∨ modeType v.mode = 4 then 1
      else if modeType v.mode ∈ [1, 5, 8, 9] then 2 else if modeType v.mode ∈ [3, 7, 11] then 8 else 4
    let dst := fun (n : Nat) (fixed reads : Bool) =>
      ({ field := d, n := loadRegs n, fixed := fixed, reads := reads, discard := !reads } : DUse)
    let load := fun (i : Instr) (fixed : Bool) (uses : List Use) (xs : List Opnd) (addr : Nat → Nat) (n : Nat) =>
      let fm : Form := { uses := uses, d := some (dst n fixed false) }
      let uniform := xs.all fun x => x.shape == .u
      v.Ready fm →
      (∀ r ∈ (v.dest d).regs (loadRegs n), (v.used fm r).arrivalOk (if uniform then .u else .g) v.active v.fib.lanes = true) →
      (v.active = 0 → ∃ t, exec i s = .next t ∧ v.Changes s t fm (v.fib.retire v.who.ply)) ∧
      (∀ ls, v.active ≠ 0 →
        s.xlatLanes v .load n ((if uniform then v.activeLanes.take 1 else v.activeLanes).map fun l => (l, addr l)) = .ok ls →
        v.Reaches s false n ls → Clean xs v.active → v.fib.spec.ctr.ld < 65535 →
        ∃ t, exec i s = .next t ∧ v.Issues s t fm (v.newOp 0 true (pagesOf n ls)
          (.load (accs ls fun _ => []) (v.dest d) n (decide (modeType v.mode ≤ 3)) uniform)))
    let store := fun (i : Instr) (code : Nat) (fixed : Bool) (uses : List Use) (xs : List Opnd) (addr : Nat → Nat) (n : Nat) =>
      let fm : Form := { uses := uses, d := some (dst n fixed true) }
      let data := v.dataBytes d (loadRegs n) n
      v.Ready fm →
      (v.active = 0 → ∃ t, exec i s = .next t ∧ v.Changes s t fm (v.fib.retire v.who.ply)) ∧
      (∀ ls, v.active ≠ 0 → s.xlatLanes v .store n (v.activeLanes.map fun l => (l, addr l)) = .ok ls →
        v.Reaches s true n ls → Clean xs v.active →
        Clean (((v.dest d).regs (loadRegs n)).map fun r => Opnd.ofReg (v.reg r) v.width) v.active →
        v.fib.spec.ctr.st < 65535 →
        let op := v.newOp 1 false (pagesOf n ls) (.write .store (accs ls data) .nothing)
        (v.team.det = none → ∃ t, exec i s = .next t ∧ v.Issues s t fm op) ∧
        (∀ e : DetTeam, v.team.det = some e → ls ≠ [] → (∀ q ∈ ls, 0x200000 ≤ q.va) → v.buffered + ls.length ≤ 2048 →
          ∃ t, exec i s = .next t ∧ t.mem = s.mem ∧ kget (t.core v.who.core).ops v.core.nextOp = some op ∧
            (t.team v.who.core v.who.res).bind (·.det) = some { e with
              buf := e.buf ++ [{ fibre := v.fib.num, op := v.core.nextOp, kind := .store, lanes := accs ls data
                                 va := ls.map (·.va) }]
              check := if e.sampled then e.check ++ ls.map fun q =>
                  { fibre := v.fib.num, va := q.va, code := code, lane := q.lane, size := n, data := data q.lane }
                else e.check }))
    (z.toNat ≤ 4 →
      load (.ld y d a z off) true [ua] [x] (v.place x (off.toNat * 2 ^ z.toNat)) (2 ^ z.toNat) ∧
      store (.st y d a z off) 0x31 true [ua] [x] (v.place x (off.toNat * 2 ^ z.toNat)) (2 ^ z.toNat)) ∧
    load (.ldx y d a b) false [ua, ub] [x, w] (fun l => v.place x (index l) l) sized ∧
    store (.stx y d a b) 0x33 false [ua, ub] [x, w] (fun l => v.place x (index l) l) sized

/-- A store that is performed writes its lanes' bytes, a later lane over an earlier one, and no other byte. An access is
performed only when no older one of its ply that touches its bytes is outstanding, a buffered one apart, nor an older load
of its fibre that is an acquire; a buffered write is not performed (05 R121, R125, R126, R131; 09 R220; 18 R375). That a
buffered write holds back no access is the model's reading (log 86). A load that returns reads its bytes at that time,
extends a narrow value, and gives it to D and to `lm`, to `lm` in the lanes that no younger return has written (09 R222; 03
R63, R405). The model's choices too: the lanes of a store are written as one event (log 34), and an event that is not due
leaves the state as it is (log 82). -/
def Obligations.AccessesPerformed : Prop :=
  (∀ (core key : Nat) (s : State) (o : Op), s.op core key = some o →
     (∀ ls, o.body = .write .store ls .nothing → o.done = false → s.mayPerform core key o = true →
       s.isBuffered core key o = false → (∀ l ∈ ls, s.regionTouched l.pas = none ∧ kindOf (l.pas.headD 0) ≠ 3) →
       ∃ t, exec (.nearAccessPerformed core key) s = .next t ∧
         (∀ a, readByte t.mem a =
           (ls.flatMap fun l => l.pas.zip l.data).foldl (fun b p => if p.1 = a then p.2 else b) (readByte s.mem a))) ∧
     ((∃ k o', kget (s.core core).ops k = some o' ∧ k < key ∧ o'.done = false ∧ o'.res = o.res ∧ o'.slot = o.slot ∧
         o'.fibre = o.fibre ∧ (s.acquires o' = true ∨
           (o'.ply = o.ply ∧ s.isBuffered core k o' = false ∧
             ∃ as bs w1 w2 a, o'.body.near = some (as, w1) ∧ o.body.near = some (bs, w2) ∧ a ∈ as ∧ a ∈ bs))) ∨ o.done = true →
       exec (.nearAccessPerformed core key) s = .next s ∧ exec (.loadDataReturn core key) s = .next s) ∧
     (s.isBuffered core key o = true → exec (.nearAccessPerformed core key) s = .next s)) ∧
  (∀ (core key : Nat) (s : State) (o : Op) (t : Team) (f : Fibre) (ls : List LaneAcc) (d : Dest) (n : Nat)
     (signed uniform : Bool),
     s.op core key = some o → o.done = false → o.body = .load ls d n signed uniform → s.mayPerform core key o = true →
     s.team core o.res = some t → s.fibre core o.res o.slot = some f → t.det = none → s.poison = [] → n ∈ [1, 2, 4, 8, 16] →
     (ls.map (·.lane)).Nodup → (∀ l ∈ ls, ∀ a ∈ l.pas, kindOf a ≠ 3) →
     (uniform = true → ls.length = 1) → (uniform = false → ∀ l, o.active.getLsbD l = true → l ∈ ls.map (·.lane)) →
     let bytes := fun (l : LaneAcc) => leNat (readAll s.mem l.pas)
     let value := fun (l : LaneAcc) => if n < 4 ∧ signed then (toSigned (8 * n) (bytes l) % 2 ^ 32).toNat else bytes l
     let lane := fun k => if uniform then (ls.map value).headD 0 else ((ls.find? fun l => l.lane == k).map value).getD 0
     ∃ u g, exec (.loadDataReturn core key) s = .next u ∧ u.mem = s.mem ∧ u.fibre core o.res o.slot = some g ∧
       u.regsOf core o.res o.slot d (loadRegs n) = (s.regsOf core o.res o.slot d (loadRegs n)).mapIdx (fun k x =>
         if uniform then x.writeUniform t.hdr.width o.active (BitVec.ofNat 32 (lane 0 / 2 ^ (32 * k))) false
         else x.writeLanes t.hdr.width o.active (fun l => BitVec.ofNat 32 (lane l / 2 ^ (32 * k))) 0) ∧
       ∀ l, l < f.regs.lm.length → l < 64 →
         g.regs.lm.getD l 0 = if o.lm.getLsbD l then BitVec.ofNat 64 (lane l) else f.regs.lm.getD l 0)

/-- ATOM and CAS leave an access outstanding whose read-modify-write 09 R227 to R229 give; a read-modify-write that is
performed stores its new value and returns the old one, which `lm` takes by the age of the instruction (03 R63); POST does
the same at a near scope without a return (05 R104, R105; 09 R226 to R230). The model's choice: the lanes are performed as
one event (log 34). -/
def Obligations.Atomics : Prop :=
  (∀ (y : Bool) (d : BitVec 7) (o : BitVec 4) (z : BitVec 3) (a b : BitVec 9) (s : State) (v : View), s.view = some v →
    v.team.det = none →
    let wide := decide (modeType v.mode ∈ [3, 7, 11])
    let uns := decide (4 ≤ modeType v.mode ∧ modeType v.mode ≤ 7)
    let ua := v.addrUse a .a
    let x := v.read ua none
    let fixed := decide (o.toNat = 9)
    let aw := wide && !fixed
    let ub : Bool → Bool → Use := fun w fx => { field := b, pos := .b, n := if w then 2 else 1, fixed := fx }
    let size : Bool → Nat := fun w => if w then 8 else 4
    let lanes : Nat → List (Nat × Nat) := fun n => v.activeLanes.map fun l => (l, v.place x 0 l / n * n)
    let rd : Bool → Opnd := fun w => v.read (ub w fixed) (if fixed then some .f32 else none)
    let data : Bool → Nat → List Byte := fun w l => bytesOfNat (size w) (((rd w).lane l).toNat % 2 ^ (8 * size w))
    let law := fun (i : Instr) (fm : Form) (xs : List Opnd) (cls : AccClass) (w : Bool) (ok : LanePlace → Prop) (lm : Bool)
        (kind : List LanePlace → WriteKind) (dest : Dest) =>
      (v.active = 0 → ∃ t, exec i s = .next t ∧ v.Changes s t fm (v.fib.retire v.who.ply)) ∧
      ∀ ls, v.active ≠ 0 → s.xlatLanes v cls (size w) (lanes (size w)) = .ok ls → v.Reaches s true (size w) ls →
        (∀ q ∈ ls, ok q) → Clean xs v.active → v.fib.spec.ctr.st < 65535 →
        ∃ t, exec i s = .next t ∧
          v.Issues s t fm (v.newOp 1 lm (pagesOf (size w) ls) (.write (kind ls) (accs ls (data w)) dest))
    (let fm : Form := { uses := [ua, ub aw fixed], d := none }
     let rmw : List LanePlace → WriteKind := fun _ => .rmw { code := o.toNat, wide := aw, unsigned := uns, cas := false } []
     v.Ready fm → z.toNat ≤ 2 → o.toNat ≤ 9 →
      (law (.atom y o z a b) fm [x, rd aw] .atomic aw
        (fun q => ∀ p ∈ q.places, s.scopeHolds v z.toNat p = true) true rmw .discard) ∧
      (o.toNat ≠ 7 → law (.post y o z a b) fm [x, rd aw] .store aw
        (fun q => ∀ p ∈ q.places, s.scopeHolds v z.toNat p = true) false rmw .nothing)) ∧
    (let k := if wide then 2 else 1
     let c := v.readD d k
     let ub := ub wide false
     let fm : Form := { uses := [ua, ub], d := some { field := d, n := k, fixed := false, reads := true, discard := false } }
     v.Ready fm → (∀ r ∈ (v.dest d).regs k, (v.used fm r).arrivalOk .g v.active v.fib.lanes = true) → o.toNat ≠ 9 →
      law (.cas y d a b) fm [x, v.read ub none, c] .atomic wide (fun q => ∀ p ∈ q.places, kindOf p.pa ≤ 1) true
        (fun ls => .rmw { code := 7, wide := wide, unsigned := false, cas := true } (ls.map fun q => (q.lane, c.lane q.lane)))
        (v.dest d))) ∧
  (∀ (core key : Nat) (s : State) (o : Op) (r : Rmw) (cmp : List (Nat × DWord)) (l : LaneAcc) (d : Dest),
    s.op core key = some o → o.done = false → s.mayPerform core key o = true → s.isBuffered core key o = false →
    o.body = .write (.rmw r cmp) [l] d → s.regionTouched l.pas = none → s.poisoned l.pas = false →
    l.pas.length = (if r.wide then 8 else 4) → l.pas.Nodup →
    let old : DWord := BitVec.ofNat 64 (leNat (readAll s.mem l.pas))
    let x : DWord := BitVec.ofNat 64 (leNat l.data)
    let new := if r.cas then (if old = kgetD cmp l.lane 0 then x else old) else r.new old x
    ∃ t, exec (.nearAccessPerformed core key) s = .next t ∧
      readAll t.mem l.pas = bytesOfNat l.pas.length new.toNat ∧
      (∀ a, a ∉ l.pas → readByte t.mem a = readByte s.mem a) ∧
      (d ≠ .nothing → ∃ k o', kget (t.core core).ops k = some o' ∧ o'.body = .oldValue [(l.lane, old, false)] d r.wide ∧
        o'.slot = o.slot ∧ o'.res = o.res ∧ o'.seq = o.seq ∧ o'.lm = o.lm))

/-- A far POST sends one packet for each active lane, in ascending lanes, with the sender's next tags; FETCH sends one
request for each and opens its leg; each leaves one access outstanding on the far path, once no acquire of its fibre is
outstanding (05 R107, R131; 09 R230 to R234). The mark of an unsigned comparison in a packet's code is the model's choice
(log 18). -/
def Obligations.FarAccess : Prop :=
  ∀ (y : Bool) (o : BitVec 4) (z : BitVec 3) (a b : BitVec 9) (s : State) (v : View), s.view = some v →
    v.team.det = none → v.core.farReady = true → s.acquiring v = false → v.fib.spec.ctr.far < 65535 → v.active ≠ 0 → v.who.core < 640 →
    let ua := v.addrUse a .a
    let x := v.read ua none
    let tag := fun k => v.who.core * 2 ^ 54 + v.who.slot * 2 ^ 48 + (v.core.seq + k) % 2 ^ 48
    let head := fun (q : LanePlace) => (q.places.map (·.pa)).headD 0
    let sends := fun (i : Instr) (ls : List LanePlace) (pages : List Nat) (sys : Bool) (ok : LanePlace → Packet → Prop) (t : State) =>
      exec i s = .next t ∧ t.mem = s.mem ∧
        kget (t.core v.who.core).ops v.core.nextOp = some (v.newOp 2 false pages (.far ((List.range ls.length).map tag))) ∧
        (t.core v.who.core).seq = v.core.seq + ls.length ∧
        ∀ k q, ls[k]? = some q → ∃ e, kget t.fabric.sent (tag k) = some e ∧ e.first = s.clock ∧ e.pkt.tag = tag k ∧
          e.pkt.target = head q ∧ e.pkt.sys = sys ∧ e.pkt.ctx = v.team.ctx ∧ ok q e.pkt
    (let fixed := decide (o.toNat = 9 ∨ o.toNat = 12 ∨ o.toNat = 13)
     let w := decide (modeType v.mode ∈ [3, 7, 11]) && !fixed
     let n := if w then 8 else 4
     let uns := decide (4 ≤ modeType v.mode ∧ modeType v.mode ≤ 7)
     let ub : Use := { field := b, pos := .b, n := if w then 2 else 1, fixed := fixed }
     let r := v.read ub (if o.toNat = 9 ∨ o.toNat = 13 then some .f32 else none)
     let fm : Form := { uses := [ua, ub], d := none }
     ∀ ls, v.Ready fm → (z = 3 ∨ z = 4) → o.toNat ≤ 13 → o.toNat ≠ 7 → o.toNat ≠ 10 →
      s.xlatLanes v .store (postBytes o.toNat n)
        (v.activeLanes.map fun l => (l, v.place x 0 l / postAlign o.toNat n * postAlign o.toNat n)) = .ok ls →
      (∀ q ∈ ls, postAllowed o.toNat z.toNat = true ∧ ∀ p ∈ q.places, p.peer = none ∧ s.postHolds v o.toNat z.toNat p = true) →
      Clean [x, r] v.active →
      ∃ t, sends (.post y o z a b) ls (pagesOf (postBytes o.toNat n) ls) (z == 4) (fun q p => p.kind = .op ∧
        p.code = o.toNat + (if uns then 16 else 0) ∧ p.data = bytesOfNat n ((r.lane q.lane).toNat % 2 ^ (8 * n))) t) ∧
    (let n := 4 * 2 ^ z.toNat
     let ub := v.addrUse b .b
     let r := v.read ub none
     let fm : Form := { uses := [ua, ub], d := none }
     ∀ src land, v.Ready fm → z.toNat ≤ 4 → s.xlatLanes v .load n (v.activeLanes.map fun l => (l, v.place x 0 l / n * n)) = .ok src →
      s.xlatLanes v .store n (v.activeLanes.map fun l => (l, v.place r 0 l / n * n)) = .ok land →
      (∀ q ∈ land, ∀ p ∈ q.places, p.peer = none ∧ dieOf p.pa = v.who.core / 80 ∧ kindOf p.pa = 0) →
      (∀ q ∈ src, ∀ p ∈ q.places, p.peer = none ∧ kindOf p.pa = 0 ∧ dieOf p.pa ∈ s.contextDies v.team.ctx) →
      Clean [x, r] v.active →
      ∃ t, sends (.fetch y z a b) src (pagesOf n (src ++ land)) false (fun _ p => p.kind = .request ∧ p.size = n) t ∧
        ∀ k q, land[k]? = some q → ∃ l, kget t.fabric.legs (tag k) = some l ∧ l.landing = head q ∧ l.first = s.clock ∧
          l.core = v.who.core ∧ l.reported = false)

/-! ### Waiting -/

/-- FENCE captures the outstanding accesses of its paths in its lowest free slot and returns the slot's token, or token 0
for no path; it completes when all of them have returned (05 R120; 09 R236 to R239). That the completion of a fence that is
not due leaves the state as it is, is the model's choice (log 82). -/
def Obligations.Fences : Prop :=
  (∀ (y : Bool) (d : BitVec 7) (p : BitVec 6) (z : BitVec 3) (s : State) (v : View), s.view = some v → z.toNat ≤ 4 →
    let fm : Form := { uses := [], d := some { dUse d 1 false with fixed := true } }
    let word := fun (x : Word) => Result.narrow (Value.uni x false)
    (p = 0 → v.Ready fm → v.Fits fm d (word 0) →
      ∃ t, exec (.fence y d p z) s = .next t ∧ v.DeliversPlain fm d (word 0) s t) ∧
    (∀ k, p ≠ 0 → v.Ready fm → (List.range 8).find? (fun k =>
        (kgetD v.res.fences (8 * v.who.slot + k) FenceSlot.fresh).busy.isNone) = some k →
      let gen := ((kgetD v.res.fences (8 * v.who.slot + k) FenceSlot.fresh).gen + 1) % 2 ^ 16
      let token := word (BitVec.ofNat 32 (2 ^ 30 + v.who.slot * 2 ^ 19 + k * 2 ^ 16 + gen))
      let caught := v.captured p
      v.Fits fm d token → ∃ t, exec (.fence y d p z) s = .next t ∧ t.mem = s.mem ∧
        (t.res v.who.core v.who.res).fences = kset v.res.fences (8 * v.who.slot + k)
          { gen := gen, busy := if caught = [] then none else some caught } ∧
        (∀ id, id.inFile = true → t.getReg v id = v.after fm d token id) ∧
        ∃ f, t.fibre v.who.core v.who.res v.who.slot = some f ∧ v.fib.GoesOn f v.who.ply)) ∧
  (∀ (core res slot k : Nat) (s : State) (f : FenceSlot) (ids : List Nat), res ≤ 1 →
    kget (s.res core res).fences (8 * slot + k) = some f → f.busy = some ids →
    ((∀ i ∈ ids, ∀ o, s.op core i = some o → o.done = true) → ∃ t, exec (.fenceComplete core res slot k) s = .next t ∧
      kget (t.res core res).fences (8 * slot + k) = some { f with busy := none } ∧ t.mem = s.mem) ∧
    ((∃ i ∈ ids, ∃ o, s.op core i = some o ∧ o.done = false) → exec (.fenceComplete core res slot k) s = .next s))

/-- WAITT and WAITC go on at once when the token is complete or the counter at its threshold, and wait otherwise; MON waits
until its word is at or above its value, which every write to the word tests, so that a later write takes back nothing, and a
poisoned word kills its fibre; a deterministic launch lets them go on, and reads the word, at epoch ends only (09 R240, R241;
08 R216; 17 R363; 18 R378). The model's choices: a re-evaluation that is not due leaves the state as it is (log 82), and the CAUSE of the ILL
of WAITT on a token of no kind (log 41). -/
def Obligations.Waits : Prop :=
  (∀ (y : Bool) (d : BitVec 7) (a b : BitVec 9) (p : BitVec 3) (s : State) (v : View), s.view = some v →
    let ua : Use := { field := a, pos := .a, n := 1, fixed := true }
    let x := v.read ua none
    let w : Word := (x.lane 0).setWidth 32
    let fm : Form := { uses := [ua], d := none }
    (v.Ready fm → x.shape = .u → Clean [x] (fullMask v.width) →
      let goes := fun (i : Instr) (now : Bool) (wt : Wait) => ∃ t, exec i s = .next t ∧
        v.Changes s t fm (if now && v.team.det.isNone then v.fib.retire v.who.ply else v.waiting wt)
      (tokenLegal v.core w = true → goes (.waitt y a) (v.res.tokenDone w) (.token w)) ∧
      (tokenLegal v.core w = false → exec (.waitt y a) s = .next (s.takeTrap v (Trap.plain .ill 1))) ∧
      (p.toNat ≤ 5 → goes (.waitc y a p) (decide (v.fib.spec.ctr.get p.toNat ≤ w.toNat)) (.counter p.toNat w.toNat))) ∧
    (let ua := v.addrUse a .a
     let ub : Use := { field := b, pos := .b, n := 1, fixed := true }
     let x := v.read ua none
     let z := v.read ub none
     let fm : Form := { uses := [ua, ub], d := some { dUse d 1 false with fixed := true } }
     let value : Word := (z.lane 0).setWidth 32
     let ends := fun (status : Word) => ∃ t, exec (.mon y d a b) s = .next t ∧
      v.GetsStatus s t fm d status (v.fib.retire v.who.ply)
     v.Ready fm → x.shape = .u → z.shape = .u →
     (∀ r ∈ (v.dest d).regs 1, (v.used fm r).arrivalOk .u v.active v.fib.lanes = true) →
      (v.active = 0 → ends 1) ∧
      (∀ lp, v.active ≠ 0 →
        s.xlatLanes v .load 4 ((v.activeLanes.take 1).map fun l => (l, v.place x 0 l / 4 * 4)) = .ok [lp] →
        v.Reaches s false 4 [lp] → Clean [x, z] v.active →
        let pas := lp.places.map (·.pa)
        let room := if v.core.dual then 16 else 32
        let armed := s.armed v.who.core v.who.res
        (room ≤ armed → ends 2) ∧
        (armed < room →
          let waits := ∃ t, exec (.mon y d a b) s = .next t ∧
            v.Changes (s.forgetMet v.who.core v.who.res v.who.slot) t fm
              (v.waiting (.mon (pas.headD 0) lp.va value (v.dest d)))
          (v.team.det ≠ none → waits) ∧
          (v.team.det = none → s.mustWait v pas = false → s.poisoned pas = false →
            (value.toNat ≤ s.wordAt (pas.headD 0) → ends 0) ∧ (s.wordAt (pas.headD 0) < value.toNat → waits)))))) ∧
  (∀ (core res slot : Nat) (s : State) (t : Team) (f : Fibre) (p pa va : Nat) (value : Word) (d : Dest),
    s.team core res = some t → s.fibre core res slot = some f → f.status = .waiting →
    f.wait = some { ply := p, wait := .mon pa va value d } →
    let met := s.metAt core res slot
    (t.det = none → (met = some false ∨ (met = none ∧ s.poisoned [pa] = false ∧ value.toNat ≤ s.wordAt pa)) → ∃ u g, exec (.monitorReevaluate core res slot) s = .next u ∧
      u.fibre core res slot = some g ∧ g.status = .ready ∧ g.wait = none ∧ g.ply p = (f.ply p).advance ∧ u.mem = s.mem ∧
      u.regsOf core res slot d 1 = (s.regsOf core res slot d 1).map fun x =>
        x.writeUniform t.hdr.width (activeMask f (f.ply p)) 0 false) ∧
    (t.det = none → (met = some true ∨ (met = none ∧ s.poisoned [pa] = true)) →
      exec (.monitorReevaluate core res slot) s =
        .next ((s.forgetMet core res slot).trapAt core res slot p (Trap.plain .poison 0))) ∧
    (t.det ≠ none ∨ (met = none ∧ s.poisoned [pa] = false ∧ s.wordAt pa < value.toNat) →
      exec (.monitorReevaluate core res slot) s = .next s) ∧
    (t.det = none → res ≤ 1 → met = none → ∀ (as : List Nat) (bs : List Byte), (∃ a ∈ as, pa ≤ a ∧ a < pa + 4) →
      let u := s.store as bs
      (pa / 32 ∈ u.poison → u.metAt core res slot = some true) ∧
      (pa / 32 ∉ u.poison → value.toNat ≤ readNat u.mem pa 4 → u.metAt core res slot = some false)))

/-- BINIT, BARV, BWAIT, BSYNC and FBAR by the state of the barrier: an arrival at count 0 or 1 completes, the waiters go on and
lose their pending bits, and with no bit left the barrier is armed again; the last bit that a BWAIT clears re-arms it too, and
takes the held arrivals; BINIT releases waiters and held arrivals with status 1; ids of BARS or more, nonzero fields, and an
FBAR mask without the fibre's own position are ILL (02 R30, R43, R44; 08 R212, R215). The model's choices: BARV and BSYNC wait
for the fibre's own scratchpad accesses (log 47), FBAR for its loads into window registers (log 112), and the CAUSE of the
ILL (log 41). -/
def Obligations.Barriers : Prop :=
  ∀ (y : Bool) (d : BitVec 7) (a : BitVec 9) (s : State) (v : View), s.view = some v → v.fib.wait = none →
    v.fib.status = .ready →
    let n := v.who.core
    let r := v.who.res
    let ua : Use := { field := a, pos := .a, n := 1, fixed := true }
    let x := v.read ua none
    let w := (x.lane 0).toNat % 2 ^ 32
    let id := w % 32
    let b := s.bar n r id
    let only : Form := { uses := [ua], d := none }
    let both : Form := { uses := [ua], d := some { dUse d 1 false with fixed := true } }
    let named := x.shape = .u ∧ Clean [x] (fullMask v.width) ∧ id < v.team.hdr.bars
    let late := ∀ q ∈ (v.dest d).regs 1, (v.used both q).arrivalOk .u v.active v.fib.lanes = true
    let goes := fun (i : Instr) (fm : Form) (f : Fibre) => ∃ t, exec i s = .next t ∧ v.Changes s t fm f
    let ends := fun (i : Instr) (status : Word) => ∃ t, exec i s = .next t ∧
      v.GetsStatus s t both d status (v.fib.retire v.who.ply)
    let arrived : Barrier := { b with
      count := b.count - 1, pend := if b.pend.contains v.fib.num then b.pend else v.fib.num :: b.pend }
    let quiet := v.scratchPending s = false
    let held := s.barWaiters n r id true
    let resumed := fun (t : State) (c slot : Nat) (f : Fibre) (p : Nat) => ∃ g, t.fibre c r slot = some g ∧ g.status = .ready ∧
      g.wait = none ∧ g.ply p = (f.ply p).advance
    let freed := fun (t : State) (any : Bool) => ∀ c ∈ s.teamCores n r, ∀ slot f p h sync d', s.fibre c r slot = some f →
      f.wait = some { ply := p, wait := .barrier id h sync d' } → h = false ∨ any = true → resumed t c slot f p
    let settled := fun (b : Barrier) (left : List Nat) => if left = []
      then ({ b with state := .armed, count := b.reload, pend := [] } : Barrier)
      else { b with state := .consumed, count := 0, pend := left }
    let waits := fun (k : Nat) => (s.barWaiters n r id false).any fun q => q.2.2.num == k
    let ill := fun (i : Instr) => exec i s = .next (s.takeTrap v (Trap.plain .ill 1))
    (x.shape = .u →
      (v.Ready only → v.team.hdr.bars ≤ id ∨ w / 32 % 8 ≠ 0 → ill (.binit y a)) ∧
      (v.team.hdr.bars ≤ id ∨ w / 32 ≠ 0 → (v.Ready only → ill (.barv y a)) ∧
        (v.Ready both → ill (.bqry y d a) ∧ (late → ill (.bwait y d a) ∧ ill (.bsync y d a)))) ∧
      (v.Ready only → w / 16 ≠ 0 ∨ w.testBit (posOf v.who.slot) = false → ill (.fbar y a))) ∧
    (named → v.Ready only → w / 32 % 8 = 0 → ∃ t g, exec (.binit y a) s = .next t ∧ t.mem = s.mem ∧
      t.bar n r id = { state := .armed, count := w / 2 ^ 8 % 2 ^ 12, reload := w / 2 ^ 20, pend := [] } ∧
      (∀ j, j ≠ id → t.bar n r j = s.bar n r j) ∧ t.fibre n r v.who.slot = some g ∧ g.ply v.who.ply = v.ply.advance ∧
      freed t true ∧
      ∀ q p h d', s.barWaiters n r id false ++ held = [q] → q.1 = n → s.fibre n r q.2.1 = some q.2.2 →
        q.2.2.wait = some { ply := p, wait := .barrier id h true d' } →
        t.regsOf q.1 r q.2.1 d' 1 = ((s.lastUses v only).regsOf q.1 r q.2.1 d' 1).map fun z =>
          z.writeUniform v.team.hdr.width (activeMask q.2.2 (q.2.2.ply p)) 1 false) ∧
    (named → w / 32 = 0 → v.Ready only → quiet →
      (b.state = .armed → 2 ≤ b.count → ∃ t g, exec (.barv y a) s = .next t ∧ t.mem = s.mem ∧
        t.team n r = some { v.team with barriers := kset v.team.barriers id arrived } ∧
        t.fibre n r v.who.slot = some g ∧ g.ply v.who.ply = v.ply.advance) ∧
      (b.state = .armed → b.count ≤ 1 → ∃ t g, exec (.barv y a) s = .next t ∧ t.mem = s.mem ∧ freed t false ∧
        t.bar n r id = settled arrived (arrived.pend.filter fun k => !waits k) ∧
        t.fibre n r v.who.slot = some g ∧ g.status = .ready ∧ g.ply v.who.ply = v.ply.advance) ∧
      (b.state = .consumed → goes (.barv y a) only (v.waiting (.barrier id true false .nothing))) ∧
      (b.state = .free ∨ b.state = .abandoned → goes (.barv y a) only (v.fib.retire v.who.ply))) ∧
    (named → w / 32 = 0 → v.Ready both → late →
      (b.state = .free ∨ b.state = .abandoned → ends (.bwait y d a) 1 ∧ (quiet → ends (.bsync y d a) 1)) ∧
      (b.state = .armed → v.fib.num ∉ b.pend → ends (.bwait y d a) 0) ∧
      (b.state = .armed → v.fib.num ∈ b.pend → goes (.bwait y d a) both (v.waiting (.barrier id false true (v.dest d)))) ∧
      (b.state = .consumed → v.fib.num ∉ b.pend → ends (.bwait y d a) 0) ∧
      (b.state = .consumed → v.fib.num ∈ b.pend → b.pend.filter (· != v.fib.num) ≠ [] → ∃ t g,
        exec (.bwait y d a) s = .next t ∧ t.mem = s.mem ∧
        t.team n r = some { v.team with
          barriers := kset v.team.barriers id { b with pend := b.pend.filter (· != v.fib.num) } } ∧
        t.fibre n r v.who.slot = some g ∧ g.ply v.who.ply = v.ply.advance) ∧
      (b.state = .consumed → v.fib.num ∈ b.pend → b.pend.filter (· != v.fib.num) = [] → ∃ t g,
        exec (.bwait y d a) s = .next t ∧ t.mem = s.mem ∧ t.fibre n r v.who.slot = some g ∧
        g.ply v.who.ply = v.ply.advance ∧
        (held = [] → t.team n r = some { v.team with
          barriers := kset v.team.barriers id { b with state := .armed, count := b.reload, pend := [] } }) ∧
        (held.length < b.reload → (t.bar n r id).state = .armed ∧ (t.bar n r id).count = b.reload - held.length ∧
          ∀ k, k ∈ (t.bar n r id).pend ↔ ∃ q ∈ held, q.2.2.num = k) ∧
        ∀ q p sync d', held = [q] → 1 < b.reload → s.fibre q.1 r q.2.1 = some q.2.2 →
          q.2.2.wait = some { ply := p, wait := .barrier id true sync d' } →
          if sync then ∃ f, t.fibre q.1 r q.2.1 = some f ∧ f.wait = some { ply := p, wait := .barrier id false true d' }
          else resumed t q.1 q.2.1 q.2.2 p) ∧
      (b.state = .consumed → quiet → goes (.bsync y d a) both (v.waiting (.barrier id true true (v.dest d)))) ∧
      (b.state = .armed → quiet → 2 ≤ b.count → ∃ t g, exec (.bsync y d a) s = .next t ∧ t.mem = s.mem ∧
        t.team n r = some { v.team with barriers := kset v.team.barriers id arrived } ∧
        t.fibre n r v.who.slot = some g ∧ g.status = .waiting ∧
        g.wait = some { ply := v.who.ply, wait := .barrier id false true (v.dest d) }) ∧
      (b.state = .armed → quiet → b.count ≤ 1 → n ∈ s.teamCores n r → ∃ t g, exec (.bsync y d a) s = .next t ∧ t.mem = s.mem ∧ freed t false ∧
        t.bar n r id = settled arrived (arrived.pend.filter fun k => !waits k && k != v.fib.num) ∧
        t.fibre n r v.who.slot = some g ∧ g.status = .ready ∧ g.wait = none ∧ g.ply v.who.ply = v.ply.advance)) ∧
    (let m := w % 16
     x.shape = .u → Clean [x] (fullMask v.width) → w / 16 = 0 → m.testBit (posOf v.who.slot) = true → v.Ready only →
      (∀ p ∈ v.core.ops, v.windowPending p = false) →
      let key := spindleKey v.who.slot
      let others := fun (arrived : Nat → Prop) => ∀ p, p < 4 → m.testBit p = true → p ≠ posOf v.who.slot → arrived p
      let here := fun p => match kget v.res.slots (p * 8 + key % 2 * 4 + key / 2) with
        | none => True
        | some g => (g.status = .frozen ∧ g.wait = none) ∨ g.wait.map (·.wait) = some (.fbar m)
      ∃ t g, exec (.fbar y a) s = .next t ∧ t.fibre n r v.who.slot = some g ∧ t.mem = s.mem ∧
        (others here → g.status = .ready ∧ g.ply v.who.ply = v.ply.advance) ∧
        (¬(others fun p => fbarArrived v.res key m p = true) → g.status = .waiting ∧ g.wait = some { ply := v.who.ply, wait := .fbar m } ∧ g.ply v.who.ply = v.ply))

/-- BQRY writes the state, the fibre's pending bit, the count and the reload of a barrier, and changes nothing (08 R213). -/
def Obligations.BarrierQuery : Prop :=
  ∀ (y : Bool) (d : BitVec 7) (a : BitVec 9) (s : State) (v : View), s.view = some v →
    let ua : Use := { field := a, pos := .a, n := 1, fixed := true }
    let x := v.read ua none
    let w := (x.lane 0).toNat % 2 ^ 32
    let b := s.bar v.who.core v.who.res (w % 32)
    let fm : Form := { uses := [ua], d := some { dUse d 1 false with fixed := true } }
    b.count < 2 ^ 12 → b.reload < 2 ^ 12 → x.shape = .u → Clean [x] (fullMask v.width) → w / 32 = 0 →
    w < v.team.hdr.bars → v.Ready fm →
      ∃ q : Word, q.toNat % 4 = (match b.state with | .free => 0 | .armed => 1 | .consumed => 2 | .abandoned => 3) ∧
        q.toNat / 4 % 2 = (if v.fib.num ∈ b.pend then 1 else 0) ∧ q.toNat / 8 % 32 = 0 ∧ q.toNat / 2 ^ 8 % 2 ^ 12 = b.count ∧
        q.toNat / 2 ^ 20 = b.reload ∧
        (v.Fits fm d (Result.narrow (Value.uni q false)) →
          ∃ t, exec (.bqry y d a) s = .next t ∧ v.DeliversPlain fm d (Result.narrow (Value.uni q false)) s t)

/-- Where the memory instructions trap, and that no lane is then accessed: ILL for an encoding that names no size, scope or
operation; DEADREG for a dead source; then, of the translated lanes, FAR, SCOPE and RLOCK in that order, each with its lanes
and the lowest lane's address (01 R12; 03 R65; 05 R104, R105, R122; 06 R151; 09 R219, R228 to R230, R233). The model's
choices: a CAS whose KIND is above 1 raises SCOPE (log 21); every lane is translated before any is checked, and each check
runs over all lanes before the next (log 32); FETCH checks its source's SCOPE before its landing's, with the source lanes'
LANES and address (log 107). -/
def Obligations.MemoryTraps : Prop :=
  ∀ (y : Bool) (d : BitVec 7) (o : BitVec 4) (z : BitVec 3) (off : BitVec 6) (a b : BitVec 9) (s : State) (v : View),
    s.view = some v →
    let ua := v.addrUse a .a
    let x := v.read ua none
    let wide := decide (modeType v.mode ∈ [3, 7, 11])
    let single := decide (o.toNat = 9 ∨ o.toNat = 12 ∨ o.toNat = 13)
    let sized := if modeType v.mode = 0 ∨ modeType v.mode = 4 then 1
      else if modeType v.mode ∈ [1, 5, 8, 9] then 2 else if modeType v.mode ∈ [3, 7, 11] then 8 else 4
    let bytes : Bool → Nat := fun w => if w then 8 else 4
    let regs := fun n : Nat => if n ≤ 4 then 1 else if n = 8 then 2 else 4
    let dst := fun (n : Nat) (fixed reads : Bool) =>
      ({ field := d, n := regs n, fixed := fixed, reads := reads, discard := !reads } : DUse)
    let ub : Bool → Bool → Use := fun w fx => { field := b, pos := .b, n := if w then 2 else 1, fixed := fx }
    let idx := ub false true
    let index := fun l => (((v.read idx none).lane l).setWidth 32 : Word).toInt
    let far := fun q : LanePlace => ∃ p ∈ q.places, p.peer ≠ none ∨ dieOf p.pa ≠ v.who.core / 80
    let locked := fun (write : Bool) (n : Nat) (q : LanePlace) =>
      s.inSpill v.who.core v.who.res (q.places.map (·.pa)) = true ∨
        lockStops (s.locksOf v.who.core v.who.res) write q.va n = true
    let off_ := fun (scope : Nat) (q : LanePlace) => ∃ p ∈ q.places, s.scopeHolds v scope p = false
    let arrives := fun (fm : Form) (n : Nat) (sh : Shape) =>
      ∀ r ∈ (v.dest d).regs n, (v.used fm r).arrivalOk sh v.active v.fib.lanes = true
    let dead := fun (i : Instr) (fm : Form) => v.ReadyButLive fm →
      ((∃ u ∈ fm.uses, v.liveAll ((v.srcOf u).regs u.n) = false) → v.Traps s i .deadreg) ∧
      (∀ u, fm.d = some u → u.reads = true → v.liveAll ((v.dest u.field).regs u.n) = false → v.Traps s i .deadreg)
    let near := fun (i : Instr) (fm : Form) (cls : AccClass) (write : Bool) (n : Nat) (lanes : List (Nat × Nat))
        (out : LanePlace → Prop) => v.Ready fm → ∀ ls, v.active ≠ 0 → s.xlatLanes v cls n lanes = .ok ls →
      ((∃ q ∈ ls, far q) → v.TrapsLanes s i .far ls far) ∧
      ((∀ q ∈ ls, ¬far q) → (∃ q ∈ ls, out q) → v.TrapsLanes s i .scope ls out) ∧
      ((∀ q ∈ ls, ¬far q ∧ ¬out q) → (∃ q ∈ ls, locked write n q) → v.TrapsLanes s i .rlock ls (locked write n))
    let load := fun (i : Instr) (fixed : Bool) (uses : List Use) (xs : List Opnd) (addr : Nat → Nat) (n : Nat) =>
      let fm : Form := { uses := uses, d := some (dst n fixed false) }
      let uniform := xs.all fun q => q.shape == .u
      arrives fm (regs n) (if uniform then .u else .g) → dead i fm ∧
        near i fm .load false n ((if uniform then v.activeLanes.take 1 else v.activeLanes).map fun l => (l, addr l)) fun _ => False
    let store := fun (i : Instr) (fixed : Bool) (uses : List Use) (addr : Nat → Nat) (n : Nat) =>
      let fm : Form := { uses := uses, d := some (dst n fixed true) }
      dead i fm ∧ near i fm .store true n (v.activeLanes.map fun l => (l, addr l)) fun _ => False
    (4 < z.toNat → v.Traps s (.ld y d a z off) .ill ∧ v.Traps s (.st y d a z off) .ill ∧ v.Traps s (.fetch y z a b) .ill ∧
      v.Traps s (.atom y o z a b) .ill ∧ v.Traps s (.post y o z a b) .ill) ∧
    ((o.toNat = 10 ∨ 14 ≤ o.toNat) → v.Traps s (.atom y o z a b) .ill ∧ v.Traps s (.post y o z a b) .ill) ∧
    (o.toNat = 7 → v.Traps s (.post y o z a b) .ill) ∧
    (z.toNat ≤ 4 → load (.ld y d a z off) true [ua] [x] (v.place x (off.toNat * 2 ^ z.toNat)) (2 ^ z.toNat) ∧
      store (.st y d a z off) true [ua] (v.place x (off.toNat * 2 ^ z.toNat)) (2 ^ z.toNat)) ∧
    load (.ldx y d a b) false [ua, idx] [x, v.read idx none] (fun l => v.place x (index l) l) sized ∧
    store (.stx y d a b) false [ua, idx] (fun l => v.place x (index l) l) sized ∧
    (let w := wide && !single
     let n := bytes w
     let fm : Form := { uses := [ua, ub w single], d := none }
     z.toNat ≤ 4 → o.toNat ≠ 10 → o.toNat ≤ 13 → dead (.atom y o z a b) fm ∧
      near (.atom y o z a b) fm .atomic true n (v.activeLanes.map fun l => (l, v.place x 0 l / n * n)) fun q =>
        2 < z.toNat ∨ 9 < o.toNat ∨ off_ z.toNat q) ∧
    (let n := bytes wide
     let k := if wide then 2 else 1
     let fm : Form :=
       { uses := [ua, ub wide false], d := some { field := d, n := k, fixed := false, reads := true, discard := false } }
     arrives fm k .g → dead (.cas y d a b) fm ∧
      near (.cas y d a b) fm .atomic true n (v.activeLanes.map fun l => (l, v.place x 0 l / n * n)) fun q =>
        ∃ p ∈ q.places, 1 < kindOf p.pa) ∧
    (let w := wide && !single
     let n := bytes w
     let align := if o.toNat = 12 then 64 else if o.toNat = 13 then 16 else n
     let size := if o.toNat = 12 then 4 else if o.toNat = 13 then 16 else n
     let fm : Form := { uses := [ua, ub w single], d := none }
     let lanes := v.activeLanes.map fun l => (l, v.place x 0 l / align * align)
     z.toNat ≤ 4 → o.toNat ≠ 7 → o.toNat ≠ 10 → o.toNat ≤ 13 → dead (.post y o z a b) fm ∧
      (z.toNat ≤ 2 → near (.post y o z a b) fm .store true size lanes fun q =>
        if 11 ≤ o.toNat then z.toNat ≠ 2 ∨ ∃ p ∈ q.places, kindOf p.pa ≠ 0 else off_ z.toNat q) ∧
      (3 ≤ z.toNat → v.Ready fm → ∀ ls, v.active ≠ 0 → s.xlatLanes v .store size lanes = .ok ls →
        let dies := s.contextDies v.team.ctx
        let out := fun q : LanePlace => (o.toNat ≤ 9 ∧ o.toNat ∉ [0, 2, 3, 5]) ∨ (z = 3 ∧ dies.length = 1 ∧ q.places ≠ []) ∨
          ∃ p ∈ q.places, (z = 3 ∧ p.peer ≠ none) ∨ (p.peer = none ∧ (kindOf p.pa ≠ 0 ∨ dieOf p.pa ∉ dies))
        (∃ q ∈ ls, out q) → v.TrapsLanes s (.post y o z a b) .scope ls out)) ∧
    (let n := 4 * 2 ^ z.toNat
     let ub := v.addrUse b .b
     let fm : Form := { uses := [ua, ub], d := none }
     let dies := s.contextDies v.team.ctx
     let outS := fun q : LanePlace => ∃ p ∈ q.places, p.peer = none ∧ (kindOf p.pa ≠ 0 ∨ dieOf p.pa ∉ dies)
     let outL := fun q : LanePlace => ∃ p ∈ q.places, kindOf p.pa ≠ 0
     z.toNat ≤ 4 → dead (.fetch y z a b) fm ∧ (v.Ready fm → ∀ src land, v.active ≠ 0 →
      s.xlatLanes v .load n (v.activeLanes.map fun l => (l, v.place x 0 l / n * n)) = .ok src →
      s.xlatLanes v .store n (v.activeLanes.map fun l => (l, v.place (v.read ub none) 0 l / n * n)) = .ok land →
      ((∃ q ∈ land, far q) → v.TrapsLanes s (.fetch y z a b) .far land far) ∧
      ((∀ q ∈ land, ¬far q) → (∃ q ∈ src, outS q) → v.TrapsLanes s (.fetch y z a b) .scope src outS) ∧
      ((∀ q ∈ land, ¬far q) → (∀ q ∈ src, ¬outS q) → (∃ q ∈ land, outL q) →
        v.TrapsLanes s (.fetch y z a b) .scope land outL)))

/-- Where the ENG and the BNK commands trap, and which descriptors are legal and the ranges that they name (11 R273, R277 to R282,
R284, R285, R287, R290): ILL for a descriptor address that is misaligned or outside the team window and
for a bank address with bank or low bits set; FAR, SCOPE and RLOCK by the ranges that a descriptor names, RLOCK for a locked
descriptor; BANKBUSY without a bank channel, FAR, SCOPE
outside a channel-local page, BANKBUSY at another channel (11 R271, R272, R286, R293, R294; 05 R122).  That a fibre without a bank
channel raises BANKBUSY before its address is translated is the model's choice (log 92), and so are that the address bits of
BMODE are checked as those of the other commands, before translation (log 57), and that a KVC's arrival target counts where
overlaps are looked for (log 54). -/
def Obligations.CommandTraps : Prop :=
  (∀ (y : Bool) (d : BitVec 7) (k kv : BitVec 3) (o : BitVec 2) (a : BitVec 9) (s : State) (v : View), s.view = some v →
    let ua := v.addrUse a .a
    let x := v.read ua none
    let va := v.place x 0 0
    let n := v.who.core
    (let fm : Form := { uses := [ua], d := some { dUse d 1 false with fixed := true } }
     ∀ e ∈ [(Instr.engCpy y d a, 0), (.engCpy2d y d a, 1), (.engCpyg y d a, 2), (.engCpys y d a, 3), (.engFill y d a, 4),
        (.engKvc y d a, 5), (.engSelp y d a, 6), (.engSelk y d a, 7), (.engRdx y d a, 8), (.engLreg y d a, 9), (.engLrev y d a, 10)],
      (v.ReadyButLive fm → x.shape = .u → v.liveAll ((v.srcOf ua).regs ua.n) = false → v.Traps s e.1 .deadreg) ∧
      (v.Ready fm → x.shape = .u →
        (va % 64 ≠ 0 ∨ 0x200000 ≤ va → v.Traps s e.1 .ill) ∧
        (∀ (ps : List Place) (f : RangeSpec → List (Nat × Nat × Place)), va % 64 = 0 → va < 0x200000 → s.xlatBytes v .load va 64 = .ok ps → s.mustWait v (ps.map (·.pa)) = false →
          let rs := (descRanges v.core e.2 (s.ownBytes v (ps.map (·.pa)))).getD []
          let far := ∃ r ∈ rs, ∃ q ∈ f r, q.2.2.far n = true
          let out := ∃ r ∈ rs, ∃ q ∈ f r, kindOf q.2.2.pa = 3 ∨ (r.stack = true ∧ kindOf q.2.2.pa ≠ 0)
          let spill := ∃ r ∈ rs, ∃ q ∈ f r, ∃ x ∈ s.spillAreas n v.who.res, overlaps q.2.2.pa q.2.1 x.1 x.2 = true
          let locked := s.inSpill n v.who.res (ps.map (·.pa)) = true ∨ lockStops (s.locksOf n v.who.res) false va 64 = true
          (∀ r ∈ rs, s.xlatRange v r = .ok (f r)) →
          (far → v.Traps s e.1 .far) ∧ (¬far → out → v.Traps s e.1 .scope) ∧
          (¬far → ¬out → spill ∨ locked → v.Traps s e.1 .rlock)))) ∧
    (let fm : Form := { uses := [ua], d := none }
     v.Ready fm → x.shape = .u → v.active ≠ 0 →
      (∀ e ∈ [(Instr.bnkBld y k a, AccClass.bankRead), (.bnkBst y k a, .bankWrite), (.bnkBmac y kv k a, .bankRead)],
        (va % 32 ≠ 0 ∨ va / 1024 % 16 ≠ 0 → v.Traps s e.1 .ill) ∧
        (va % 32 = 0 → va / 1024 % 16 = 0 →
          (v.fib.spec.bankCh = none → v.Traps s e.1 .bankbusy) ∧
          (∀ ch p cl, v.fib.spec.bankCh = some ch → s.bankPlace v e.2 va = .ok (p, cl) →
            (p.far n = true → v.Traps s e.1 .far) ∧ (p.far n = false → cl = false → v.Traps s e.1 .scope) ∧
            (p.far n = false → cl = true → channelOf p.pa ≠ ch → v.Traps s e.1 .bankbusy)))) ∧
      (va % 32 ≠ 0 ∨ va / 1024 % 16 ≠ 0 → v.Traps s (.bnkBmode y a) .ill) ∧
      (∀ p cl, va % 32 = 0 → va / 1024 % 16 = 0 → s.bankPlace v .bankRead va = .ok (p, cl) →
        (p.far n = true → v.Traps s (.bnkBmode y a) .far) ∧
        (p.far n = false → cl = false → v.Traps s (.bnkBmode y a) .scope) ∧
        (p.far n = false → cl = true → v.fib.spec.bankCh ≠ none ∨ (s.channel (channelOf p.pa)).owner ≠
          some { ctx := v.team.ctx, launch := v.team.launch, team := v.team.num, fibre := v.fib.num, gone := false } →
          v.Traps s (.bnkBmode y a) .bankbusy)) ∧
      (v.fib.spec.bankCh = none → v.Traps s (.bnkBbc y k a) .bankbusy) ∧
      (∀ ch ps, v.fib.spec.bankCh = some ch → s.xlatBytes v .bankRead va 32 = .ok ps →
        let far := ∃ p ∈ ps, p.far n = true
        let out := va % 32 ≠ 0 ∨ ∃ p ∈ ps, kindOf p.pa ≠ 1 ∨ scratchCore p.pa ∉ s.teamCores n v.who.res
        (far → v.Traps s (.bnkBbc y k a) .far) ∧ (¬far → out → v.Traps s (.bnkBbc y k a) .scope) ∧
        (¬far → ¬out → s.inSpill n v.who.res (ps.map (·.pa)) = true ∨ lockStops (s.locksOf n v.who.res) false va 32 = true →
          v.Traps s (.bnkBbc y k a) .rlock))) ∧
    (v.active ≠ 0 → v.fib.spec.bankCh = none → v.Traps s (.bnkBexit y) .bankbusy ∧
      (o.toNat ≤ 2 → v.Traps s (.bnkBred y k o) .bankbusy) ∧
      (let fm : Form := { uses := [], d := some { dUse d 1 false with fixed := true, discard := false } }
       v.Ready fm → (∀ id ∈ (v.dest d).regs 1, (v.reg id).arrivalOk .g v.active v.fib.lanes = true) →
        v.Traps s (.bnkBrd y d) .bankbusy))) ∧
  (∀ (c : Core) (code : Nat) (desc : List Byte), desc.length = 64 →
    let f := fun o n => leAt desc o n
    let zero := fun o n => ∀ i, o ≤ i → i < o + n → desc.getD i 0 = 0
    let signed := fun o : Nat => if f o 4 < 2 ^ 31 then (f o 4 : Int) else (f o 4 : Int) - 2 ^ 32
    let reads := fun va n => ({ va := va, len := n, dest := false, lock := true, stack := false } : RangeSpec)
    let writes := fun va n => ({ va := va, len := n, dest := true, lock := true, stack := false } : RangeSpec)
    let names := fun (ok : Prop) (rs : List RangeSpec) =>
      let all := f 8 1 = code ∧ zero 9 3 ∧ tokenLegal c (BitVec.ofNat 32 (f 0 4)) = true ∧
        tokenLegal c (BitVec.ofNat 32 (f 4 4)) = true ∧ ok ∧ ∀ r ∈ rs, r.len ≤ 2 ^ 24 ∧ r.va + r.len ≤ 2 ^ 56 ∧ r.va < 2 ^ 56
      (all → descRanges c code desc = some rs) ∧ (¬all → descRanges c code desc = none)
    let copies := fun (ok : Prop) (rs : List RangeSpec) =>
      names (ok ∧ ∀ a ∈ rs, ∀ b ∈ rs, a.dest = false → b.dest = true → a.len ≠ 0 → b.len ≠ 0 →
        a.va + a.len ≤ b.va ∨ b.va + b.len ≤ a.va) rs
    let row := fun n => 1 ≤ n ∧ n ≤ 65536
    let count := fun n => 1 ≤ n ∧ n ≤ 65535
    (code = 0 → copies (zero 36 28) [reads (f 16 8) (f 32 4), writes (f 24 8) (f 32 4)]) ∧
    (code = 1 →
      let low := fun (va : Nat) (st : Int) => min (va : Int) (va + ((f 36 4 : Int) - 1) * st)
      let size := fun st : Int => (((f 36 4 : Int) - 1) * st).natAbs + f 32 4
      copies (zero 48 16 ∧ row (f 32 4) ∧ count (f 36 4) ∧ f 32 4 ≤ (signed 44).natAbs ∧ f 16 8 < 2 ^ 56 ∧ f 24 8 < 2 ^ 56 ∧
          0 ≤ low (f 16 8) (signed 40) ∧ 0 ≤ low (f 24 8) (signed 44))
        [reads (low (f 16 8) (signed 40)).toNat (size (signed 40)), writes (low (f 24 8) (signed 44)).toNat (size (signed 44))]) ∧
    (code = 2 ∨ code = 3 →
      let ok := zero 52 12 ∧ row (f 40 4) ∧ count (f 44 4) ∧ 1 ≤ f 48 4 ∧ f 32 8 % 4 = 0
      let table := f 48 4 * f 40 4
      let other := f 44 4 * f 40 4
      (code = 2 → copies ok [reads (f 16 8) table, reads (f 32 8) (4 * f 44 4), writes (f 24 8) other]) ∧
      (code = 3 → copies ok [reads (f 24 8) other, reads (f 32 8) (4 * f 44 4), writes (f 16 8) table])) ∧
    (code = 4 → copies (zero 28 4 ∧ zero 48 16) [writes (f 16 8) (f 24 4)]) ∧
    (code = 5 → ∀ top, (∀ i, i < 64 → (f 48 8).testBit i = true → i < top) →
      (top = 0 ∨ (top ≤ 64 ∧ (f 48 8).testBit (top - 1) = true)) →
      copies (row (f 40 4) ∧ f 40 4 % 32 = 0 ∧ f 32 8 % 8 = 0 ∧ f 24 8 < 2 ^ 56)
        ([reads (f 16 8) (top * f 40 4),
          writes (f 24 8 + f 44 4 * f 40 4) (((List.range 64).filter (f 48 8).testBit).length * f 40 4), writes (f 32 8) 8] ++
          if f 56 8 = 0 then [] else [{ writes (f 56 8) 4 with lock := false }])) ∧
    (code = 6 ∨ code = 7 →
      let t := f 28 1
      let size := if t = 8 ∨ t = 9 then 2 else 4
      names ((t = 2 ∨ t = 6 ∨ t = 8 ∨ t = 9 ∨ t = 10) ∧
          (code = 6 → f 29 1 ≤ (if 8 ≤ t then 11 else 5) ∧ (t = 8 ∨ t = 9 → f 34 2 = 0)) ∧ (code = 7 → f 29 1 = 0 ∧ f 32 4 = 0) ∧
          f 16 8 % size = 0 ∧ 1 ≤ f 24 4 ∧ 1 ≤ f 30 2 ∧ f 30 2 ≤ 256 ∧ f 40 8 % 8 = 0 ∧ zero 48 16)
        [{ reads (f 16 8) (f 24 4 * size) with stack := true },
          { writes (f 40 8) (8 * (f 30 2 + 1)) with lock := false, stack := true }]) ∧
    (code = 8 → names (f 16 8 % 64 = 0 ∧ f 24 8 % 4 = 0 ∧ 1 ≤ f 32 4 ∧ f 32 4 ≤ 4194304 ∧ f 36 1 ≠ 0 ∧ zero 37 3 ∧
        f 40 8 % 4 = 0 ∧ zero 52 12)
      ([{ reads (f 16 8) 64 with stack := true }, { writes (f 24 8) (4 * f 32 4) with stack := true }] ++
        if f 40 8 = 0 then [] else [{ writes (f 40 8) 4 with stack := true }])) ∧
    (code = 9 → names (f 16 8 % 64 = 0 ∧ f 24 4 % 64 = 0 ∧ 128 ≤ f 24 4 ∧ f 28 4 ≤ 1 ∧ zero 40 24 ∧
        (f 28 4 = 1 → -160 ≤ signed 32 ∧ signed 32 ≤ 0) ∧ (f 28 4 = 0 → signed 32 = 0)) [writes (f 16 8) (f 24 4)]) ∧
    (code = 10 → names (zero 24 40) [{ writes (f 16 8) 64 with lock := false }]))

/-! ### The matrix engine -/

/-- TZERO makes a tile read as zero; TLD, META and SCALE leave one load outstanding, TST one store of the tile's image; META
and SCALE wait while a held arrival of the fibre is to read their slot (10 R259); a tile load that returns makes the tile
live with the image in memory (10 R244, R246 to R248, R261, R263). That META and SCALE read their bytes, and raise POISON,
at issue, after the stores that they are to see, is the model's reading (logs 56, 113). -/
def Obligations.MatrixTiles : Prop :=
  (∀ (y : Bool) (t : BitVec 4) (a : BitVec 9) (s : State) (v : View), s.view = some v →
    v.team.hdr.flags.getLsbD 1 = true →
    let k := v.tileIndex t.toNat
    let ua := v.addrUse a .a
    let x := v.read ua none
    let fm : Form := { uses := [ua], d := none }
    let va := v.place x 0 0
    let tile := k < v.team.hdr.tiles ∧ v.tileBusy k = false
    let law := fun (i : Instr) (write : Bool) (cls : AccClass) (n : Nat) (path : Nat) (ok : List Nat → Prop)
        (body : List Nat → OpBody) =>
      ∀ ps, v.Ready fm → x.shape = .u → va % 64 = 0 → s.xlatBytes v cls va n = .ok ps →
        v.Reaches s write n [wholeAccess va ps] → Clean [x] (fullMask 64) →
        v.fib.spec.ctr.get path < 65535 → ok (ps.map (·.pa)) →
        ∃ u, exec i s = .next u ∧ v.Issues s u fm
          (v.newOp path false (pagesOf n [wholeAccess va ps]) (body (ps.map (·.pa))))
    let slot := (v.core.dual = false ∨ fmtSslot v.fib.spec.fmt < 8) ∧ v.freeSlot (fmtSslot v.fib.spec.fmt) = .ok ()
    (tile → ∃ u g, exec (.tzero y t) s = .next u ∧ v.BecomesFibre s u g ∧
      g = { v.fib.retire v.who.ply with regs := { v.fib.regs with tiles := g.regs.tiles } } ∧
      (∀ c, (g.tile k).cell c = 0) ∧ ∀ j, j ≠ k → g.tile j = v.fib.tile j) ∧
    (tile → law (.tld y t a) false .load 4096 0 (fun _ => True) (.tileLoad k)) ∧
    (tile → v.team.det = none → law (.tst y t a) true .store 4096 1 (fun _ => True) fun pas =>
      .tileStore pas ((v.fib.tile k).image.flatMap fun w => bytesOfNat 4 w.toNat) (v.fib.tile k).poison) ∧
    (let bytes := s.bytesFor v.who.core v.who.res v.fib.num v.core.nextOp
     let clean := fun pas => s.writesPending v pas = false ∧ s.acquiring v = false ∧
       s.seesPoison v.who.core v.who.res v.fib.num v.core.nextOp pas = false
     slot → law (.metaSlot y a) false .load 512 0 clean (fun pas => .slotLoad false (fmtSslot v.fib.spec.fmt) (bytes pas)) ∧
       law (.scale y a) false .load 2048 0 clean (fun pas => .slotLoad true (fmtSslot v.fib.spec.fmt) (bytes pas)))) ∧
  (∀ (core key t : Nat) (pas : List Nat) (s : State) (o : Op) (f : Fibre), s.op core key = some o → o.done = false →
    o.body = .tileLoad t pas → s.mayPerform core key o = true → s.fibre core o.res o.slot = some f →
    (s.team core o.res).bind (·.det) = none → s.poison = [] → (∀ a ∈ pas, kindOf a ≠ 3) →
    ∃ u g, exec (.loadDataReturn core key) s = .next u ∧ u.mem = s.mem ∧ u.fibre core o.res o.slot = some g ∧
      (∀ c, c < 1024 → (g.tile t).cell c = BitVec.ofNat 32 (leNat (readAll s.mem ((pas.drop (4 * c)).take 4)))) ∧
      ∀ j, j ≠ t → g.tile j = f.tile j)

/-- TRD reads cells into lanes, TWR writes lanes to cells, TCVT converts and packs cells, and TROWMAX gives a row's
greatest number, at the place that the control word names (10 R262, R264 to R266). That of the tile instructions TCVT alone
is checked in shadow mode is the model's reading (log 43). -/
def Obligations.MatrixLanes : Prop :=
  ∀ (y : Bool) (d : BitVec 7) (a : BitVec 9) (s : State) (v : View), s.view = some v →
    v.team.hdr.flags.getLsbD 1 = true →
    let ua : Use := { field := a, pos := .a, n := 1, fixed := true }
    let x := v.read ua none
    let w := (x.lane 0).toNat
    let k := w % 16
    let first := w / 16 % 1024
    let tile := v.fib.tile k
    let type := w / 2 ^ 14
    let fm : Form := { uses := [ua], d := some (dUse d 1 false) }
    let named := x.shape = .u ∧ type < 16 ∧ k < v.team.hdr.tiles ∧ v.tileBusy k = false ∧ Clean [x] v.active
    let word := fun (f : Nat → Word) => Result.narrow (Value.per f)
    (named → type = 0 → tile.poison = [] → v.Ready fm → v.Fits fm d (word fun l => tile.cell (first + l)) →
      ∃ u, exec (.trd y d a) s = .next u ∧ v.Delivers fm d (word fun l => tile.cell (first + l)) s u) ∧
    (let fm : Form := { uses := [ua], d := some (dUse d 1 true) }
     let q := v.readD d 1
     named → type = 0 → v.Ready fm → Clean [q] v.active →
      ∃ u g, exec (.twr y d a) s = .next u ∧ v.OnlyFibre s u ∧ (∀ id, id.inFile = true → u.getReg v id = v.used fm id) ∧
        u.fibre v.who.core v.who.res v.who.slot = some g ∧
        g = { v.fib.retire v.who.ply with regs := { v.fib.regs with v := g.regs.v, o := g.regs.o, tiles := g.regs.tiles } } ∧
        (∀ c, c < 1024 → (g.tile k).cell c =
          match v.activeLanes.find? fun l => (first + l) % 1024 == c with
          | some l => (q.lane l).setWidth 32
          | none => tile.cell c) ∧
        ∀ j, j ≠ k → g.tile j = v.fib.tile j) ∧
    (let ints := fmtAcc v.fib.spec.fmt = 1
     let n := if type = 13 then 4 else 2
     let b := if type = 13 then 8 else 16
     let one := fun (l j : Nat) => cvtLane (if ints then 2 else 10) type (CvtRnd.mode (Rnd.ofCode (modeRnd v.mode))) false
       (v.cvtDraw l) ((tile.cell (first + n * l + j)).setWidth 64)
     let r := word fun l => (List.range n).foldr (fun j z => (z <<< b) ||| ((one l j).1.setWidth 32 &&& BitVec.ofNat 32 (2 ^ b - 1))) 0
     named → (type = 13 ∨ (¬ints ∧ (type = 8 ∨ type = 9))) → tile.poison = [] → v.tableBusy = false → v.core.shadow = 0 →
      v.Quiet (fun l => (List.range n).foldl (fun e j => e ||| (one l j).2) 0) → v.Ready fm → v.Fits fm d r →
      ∃ u f, exec (.tcvt y d a) s = .next u ∧ v.OnlyFibre s u ∧ (∀ id, id.inFile = true → u.getReg v id = v.after fm d r id) ∧
        u.fibre v.who.core v.who.res v.who.slot = some f ∧
        Fibre.GoesOnLa { v.fib with spec := { v.fib.spec with rcnt := v.fib.spec.rcnt + 1 } } f v.who.ply v.width v.active
          r.lane) ∧
    (let row := fun (l : Nat) => (List.range 32).map fun j =>
       decodeF .f32 ((tile.cell ((first / 32 + l) % 32 * 32 + j)).setWidth 64)
     let r := word fun l => (encodeF .f32 ((row l).foldl (fun m z => decodeF .f32 (minMaxF .f32 true m z).1) (.nan false))).setWidth 32
     named → type = 0 → tile.poison = [] → v.Quiet (fun l => if (row l).any FVal.snan then excInv else 0) → v.Ready fm →
      v.Fits fm d r → ∃ u, exec (.trowmax y d a) s = .next u ∧ v.Delivers fm d r s u)

/-- An MMA of one member starts at once: the slice of its quadrant is taken for the form's cycles, the new cells wait, and
the ply goes on. A member of a gang waits at its latch; a complete gang starts when its slices are free; at the end every
member's tile holds its cells (10 R249, R254, R255, R258, R259). The model's readings: a poisoned fragment or cell counts in
the member that holds it (log 49), the latch record of an MMA keeps its operands until the start (log 52), and an event that
is not due leaves the state as it is (log 82). -/
def Obligations.MatrixProducts : Prop :=
  (∀ (y : Bool) (t : BitVec 4) (a b : BitVec 9) (s : State) (v : View) (f : MmaForm) (da db : Dest), s.view = some v →
    v.team.hdr.flags.getLsbD 1 = true → atRegLevel a = true → atRegLevel b = true → v.width ≠ 16 →
    mmaForm v.mode v.fib.spec.fmt = some f →
    let n := v.who.core
    let r := v.who.res
    let q := quadOf v.who.slot
    let gang := v.fib.spec.gang
    let group := v.who.slot / 4
    let quads := gangQuads gang q
    let k := v.tileIndex t.toNat
    let na := f.aBytes / (4 * v.width)
    let nb := f.bBytes / quads.length / (4 * v.width)
    let regs := da.regs na ++ db.regs nb
    let slot := fmtSslot v.fib.spec.fmt
    (f.readsSlot = true → (v.core.dual = false ∨ slot < 8) ∧ v.slotBusy true slot = false ∧ v.slotBusy false slot = false) →
    k < v.team.hdr.tiles → v.tileBusy k = false → v.fragment a .a na = some da → v.fragment b .b nb = some db →
    v.owed regs = false → v.busy regs = false → (∀ id ∈ regs, (v.reg id).live = true) → kget v.res.latches group = none →
    (quads = [q] → v.core.slicesFree [q] = true → (∀ id ∈ regs, (v.reg id).poison = 0) → (v.fib.tile k).poison = [] →
      ∃ u m g, exec (.mma y t a b) s = .next u ∧ u.mem = s.mem ∧ kget v.res.mmas m = none ∧
        kget (u.res n r).mmas m = some
          { doneAt := s.clock + f.cycles, quadrants := [q]
            shares := [{ slot := v.who.slot, fibre := v.fib.num, tile := k, pc := v.ply.pc
                         cells := mmaCells f v.fib.spec.fmt (kgetD v.res.scales slot []) (kgetD v.res.metas slot [])
                           (fragBytes v.width (s.regsOf n r v.who.slot da na)) [fragBytes v.width (s.regsOf n r v.who.slot db nb)]
                           (v.fib.tile k).image }] } ∧
        u.fibre n r v.who.slot = some g ∧ g.ply v.who.ply = ({ v.ply with atLatch := false } : Ply).advance ∧
        g.regs.tiles = v.fib.regs.tiles) ∧
    (quads.length ≠ 1 → (∀ i ∈ quads, ∃ g, kget v.res.slots (group * 4 + i) = some g ∧ g.status ≠ .frozen) →
      ∃ u g, exec (.mma y t a b) s = .next u ∧ u.mem = s.mem ∧
        kget (u.res n r).latches group = some
          { gang := gang, type := modeType v.mode, fmt := v.fib.spec.fmt, tile := k
            arrived := [{ slot := v.who.slot, ply := v.who.ply, tile := k, a := da, na := na, killA := lastUse a, b := db
                          nb := nb, killB := lastUse b }] } ∧
        u.fibre n r v.who.slot = some g ∧ g.ply v.who.ply = { v.ply with atLatch := true, stall := none })) ∧
  (∀ (core res group : Nat) (s : State) (rec : GangRec) (t : Team) (f : MmaForm),
    kget (s.res core res).latches group = some rec → s.team core res = some t →
    rec.arrived.length = (gangQuads rec.gang 0).length →
    ((s.core core).slicesFree (gangQuads rec.gang 0) = false → exec (.gangStart core res group) s = .next s) ∧
    ((s.core core).slicesFree (gangQuads rec.gang 0) = true → mmaForm (BitVec.ofNat 32 rec.type) rec.fmt = some f →
      let parts := rec.arrived.map fun a => fragBytes t.hdr.width (s.regsOf core res a.slot a.b a.nb)
      (∀ a ∈ rec.arrived, (s.mmaShare core res f rec.fmt t.hdr.width parts a).isSome = true) →
      ∃ u m, exec (.gangStart core res group) s = .next u ∧ u.mem = s.mem ∧ kget (u.res core res).latches group = none ∧
        kget (u.res core res).mmas m = some
          { doneAt := s.clock + f.cycles, quadrants := rec.arrived.map fun a => quadOf a.slot
            shares := rec.arrived.filterMap (s.mmaShare core res f rec.fmt t.hdr.width parts) })) ∧
  (∀ (core res run : Nat) (s : State) (m : MmaRun), kget (s.res core res).mmas run = some m →
    (s.clock < m.doneAt → exec (.mmaComplete core res run) s = .next s) ∧
    (m.doneAt ≤ s.clock → (s.core core).shadow = 0 → (m.shares.map (·.slot)).Nodup →
      ∃ u, exec (.mmaComplete core res run) s = .next u ∧ u.mem = s.mem ∧ kget (u.res core res).mmas run = none ∧
        ∀ h ∈ m.shares, ∀ f, s.fibre core res h.slot = some f → f.num = h.fibre →
          ∃ g, u.fibre core res h.slot = some g ∧ g.tile h.tile = { live := true, cells := h.cells, poison := [] } ∧
            ∀ j, j ≠ h.tile → g.tile j = f.tile j))

/-! ### Illegal and privileged instructions -/

/-- A word of no instruction raises ILL cause 0, whatever its bits (06 R143, R147, R150); HALTF, CTXSAVE, CTXLD, BSAVE and
BRST raise ILL when the team's context is not privileged, cause 2 and nothing else (06 R149; 15 R321). -/
def Obligations.IllegalInstructions : Prop :=
  ∀ (y : Bool) (x : BitVec 25) (u : BitVec 32) (d : BitVec 7) (a : BitVec 9) (s : State) (v : View), s.view = some v →
    let ill := fun (cause : Nat) => Host.Outcome.next (s.takeTrap v (Trap.plain .ill cause))
    exec (.ill y x) s = ill 0 ∧ exec (.unassignedFunctionCode u) s = ill 0 ∧
    (s.privileged v = false →
      let ua := v.addrUse a .a
      let word : Use := { field := a, pos := .a, n := 1, fixed := true }
      let status : DUse := { dUse d 1 false with fixed := true }
      (({ uses := [word], d := some status } : Form).encOk = true → exec (.haltf y d a) s = ill 2) ∧
      (({ uses := [ua], d := some status } : Form).encOk = true →
        exec (.ctxsave y d a) s = ill 2 ∧ exec (.ctxld y d a) s = ill 2) ∧
      (({ uses := [ua], d := none } : Form).encOk = true →
        exec (.bnkBsave y a) s = ill 2 ∧ exec (.bnkBrst y a) s = ill 2))

/-! ### Launches, tables, pseudo-channels, saves -/

/-- LAUNCH enters a record in the context's device-launch queue, status 1 when it is full; QTAB leaves the table's load
outstanding; PCOWN and PCREL take and give up a pseudo-channel; CTXSAVE asks for a save and CTXLD for a restore, each with
its status; HALTF freezes the fibre that it names with kill cause 2 (08 R210; 11 R293, R299; 15 R321 to R323; 16 R331). The
model's readings: the loop offset applies to these addresses (log 63), what CTXLD takes of an image (log 29), the order of
its statuses (log 73), SAVED is cleared when a save is accepted (log 72), a table source is read at issue (logs 56, 113), PCREL waits for
the channel's commands (log 59). -/
def Obligations.System : Prop :=
  ∀ (y : Bool) (d : BitVec 7) (a : BitVec 9) (s : State) (v : View), s.view = some v →
    let n := v.who.core
    let r := v.who.res
    let ua := v.addrUse a .a
    let x := v.read ua none
    let va := v.place x 0 0
    let fm : Form := { uses := [ua], d := some { dUse d 1 false with fixed := true } }
    let word := fun (k : Nat) => Result.narrow (Value.uni (BitVec.ofNat 32 k) false)
    let arrives := fun (fm : Form) => ∀ id ∈ (v.dest d).regs 1, (v.used fm id).arrivalOk .u v.active v.fib.lanes = true
    let ends := fun (i : Instr) (fm : Form) (k : Nat) =>
      arrives fm → ∃ t, exec i s = .next t ∧ v.DeliversPlain fm d (word k) s t
    let also := fun (i : Instr) (fm : Form) (k : Nat) (ok : State → Prop) =>
      arrives fm → ∃ t f, exec i s = .next t ∧ (∀ id, id.inFile = true → t.getReg v id = v.after fm d (word k) id) ∧
        t.fibre n r v.who.slot = some f ∧ v.fib.GoesOn f v.who.ply ∧ ok t
    let skips := fun (i : Instr) (fm : Form) => ∃ t, exec i s = .next t ∧ v.Changes s t fm (v.fib.retire v.who.ply)
    (∀ ps, v.Ready fm → x.shape = .u → va % 256 = 0 → s.xlatBytes v .load va 256 = .ok ps →
      v.Reaches s false 256 [wholeAccess va ps] → Clean [x] (fullMask v.width) →
      s.mustWait v (ps.map (·.pa)) = false → s.poisoned (ps.map (·.pa)) = false → v.team.det = none →
      let q := kgetD s.control.deviceQueues v.team.ctx
        { Queue.reset with enable := true, owner := some (((s.context v.team.ctx).map (·.fn)).getD 0, v.team.ctx) }
      let bs := (ps.map (·.pa)).map s.loadByte
      (4096 ≤ (q.arvcnt - q.consumed).toNat → ends (.launch y d a) fm 1) ∧
      ((q.arvcnt - q.consumed).toNat < 4096 → also (.launch y d a) fm 0 fun t => t.mem = s.mem ∧
        ∃ q', kget t.control.deviceQueues v.team.ctx = some q' ∧ q'.arvcnt = q.arvcnt + 1 ∧ q'.consumed = q.consumed ∧
          ∀ g, g < 64 → kget q'.granules (64 * (q.arvcnt.toNat % 4096) + g) = some (BitVec.ofNat 32 (leAt bs (4 * g) 4)))) ∧
    (v.Ready fm → x.shape = .u → arrives fm →
      (v.active = 0 → skips (.qtab y d a) fm) ∧
      ∀ ps, v.active ≠ 0 → va % 64 = 0 → s.xlatBytes v .load va 8320 = .ok ps →
        v.Reaches s false 8320 [wholeAccess va ps] → Clean [x] v.active →
        let pas := ps.map (·.pa)
        s.writesPending v pas = false → s.acquiring v = false →
        s.seesPoison v.who.core v.who.res v.fib.num v.core.nextOp pas = false → v.fib.spec.ctr.ld < 65535 →
        v.tableComing = false →
        ∃ t, exec (.qtab y d a) s = .next t ∧ v.Issues s t fm
          (v.newOp 0 false (pagesOf 8320 [wholeAccess va ps])
            (.tableLoad (s.bytesFor v.who.core v.who.res v.fib.num v.core.nextOp pas) (BitVec.ofNat 64 va) (v.dest d)))) ∧
    (∀ q loc, s.bankAddr v .bankRead va = .ok (q, loc) → x.shape = .u → Clean [x] v.active →
      let me : ChOwner := { ctx := v.team.ctx, launch := v.team.launch, team := v.team.num, fibre := v.fib.num, gone := false }
      let held := (s.channels.filter fun p => p.2.owner == some me).length
      let takes := also (.pcown y d a) fm 0 fun t => t.mem = s.mem ∧ (t.channel q).owner = some me ∧
        ∀ p, p ≠ q → t.channel p = s.channel p
      let only : Form := { uses := [ua], d := none }
      (v.Ready fm → (v.active = 0 → skips (.pcown y d a) fm) ∧
        (v.active ≠ 0 → ((s.channel q).owner = some me → takes) ∧
          ((s.channel q).owner = none → held < 4 → takes) ∧
          ((s.channel q).owner = none → 4 ≤ held → ends (.pcown y d a) fm 2) ∧
          (∀ o, (s.channel q).owner = some o → o ≠ me → ends (.pcown y d a) fm 1))) ∧
      (v.Ready only → (v.active = 0 → skips (.pcrel y a) only) ∧
        (v.active ≠ 0 → ((s.channel q).owner ≠ some me → skips (.pcrel y a) only) ∧
          ((s.channel q).owner = some me → (s.channel q).queue = [] →
            ∃ t f, exec (.pcrel y a) s = .next t ∧ t.mem = s.mem ∧
              t.channel q = { s.channel q with owner := none, allBank := false } ∧ (∀ p, p ≠ q → t.channel p = s.channel p) ∧
              t.fibre n r v.who.slot = some f ∧ f.ply v.who.ply = v.ply.advance ∧
              f.spec.bankCh = if v.fib.spec.bankCh = some q then none else v.fib.spec.bankCh)))) ∧
    (v.Ready fm → x.shape = .u → s.privileged v = true →
      (v.active = 0 → skips (.ctxsave y d a) fm ∧ skips (.ctxld y d a) fm) ∧
      ∀ pas m q base, v.active ≠ 0 → Clean [x] v.active → va % 64 = 0 → va < 0x200000 →
        (span va 64).mapM (fun i => s.windowPa n r i) = some pas → s.inSpill n r pas = false →
        lockStops (s.locksOf n r) false va 64 = false → s.mustWait v pas = false → s.ownPoison v pas = false →
        requestBlock (n / 80) (s.ownBytes v pas) = .ok (m, q, base) →
        (s.inProgress m q = true → ends (.ctxsave y d a) fm 3 ∧ ends (.ctxld y d a) fm 3) ∧
        (s.inProgress m q = false →
          (s.team m q = none → ends (.ctxsave y d a) fm 1) ∧
          (∀ t, s.team m q = some t → t.launch = v.team.launch → t.num = v.team.num → ends (.ctxsave y d a) fm 2) ∧
          (∀ t, s.team m q = some t → ¬(t.launch = v.team.launch ∧ t.num = v.team.num) →
            also (.ctxsave y d a) fm 0 fun u => u.team m q = some { t with save := some (.ctxsave base) } ∧
              readNat u.mem base 4 = 0 ∧ ∀ b, b ∉ span base 4 → readByte u.mem b = readByte s.mem b) ∧
          (s.occupied m q = true → ends (.ctxld y d a) fm 1) ∧
          (s.occupied m q = false →
            (readNat s.mem base 4 ≠ 1 ∨ readNat s.mem (base + 10) 1 ≠ q + (if (s.core m).dual then 2 else 0) →
              ends (.ctxld y d a) fm 2) ∧
            (readNat s.mem base 4 = 1 → readNat s.mem (base + 10) 1 = q + (if (s.core m).dual then 2 else 0) →
              (s.readArea base m q = none → ends (.ctxld y d a) fm 2) ∧
              ∀ sv, s.readArea base m q = some sv →
                (sv.team.hdr.paired = true → m % 2 ≠ 0 → ends (.ctxld y d a) fm 2) ∧
                ((sv.team.hdr.paired = true → m % 2 = 0) →
                  ((∃ c ∈ sv.team.hdr.coresAt m, s.occupied c q = true) → ends (.ctxld y d a) fm 1) ∧
                  ((∀ c ∈ sv.team.hdr.coresAt m, s.occupied c q = false) → also (.ctxld y d a) fm 0 fun u => u.mem = s.mem ∧
                    kget (u.core m).restore q = some { base := some base, saved := sv })))))) ∧
    (let ub : Use := { field := a, pos := .a, n := 1, fixed := true }
     let z := v.read ub none
     let w := (z.lane 0).toNat % 2 ^ 32
     let fm : Form := { uses := [ub], d := some { dUse d 1 false with fixed := true } }
     v.Ready fm → z.shape = .u → s.privileged v = true →
      (v.active = 0 → skips (.haltf y d a) fm) ∧
      (v.active ≠ 0 → Clean [z] v.active → w % 128 ≤ 79 → w < 2 ^ 13 →
        let m := n / 80 * 80 + w % 128
        let q := w / 128 % 2
        let slot := w / 256
        (s.fibre m q slot = none → ends (.haltf y d a) fm 1) ∧
        (∀ f, s.fibre m q slot = some f → f.status ≠ .frozen → (s.team m q).isSome = true → arrives fm →
          ∃ t g, exec (.haltf y d a) s = .next t ∧ t.fibre m q slot = some g ∧ g.status = .frozen ∧
            g.sched.killed = some 2)))

/-! ### Engines -/

/-- An ENG command takes the lowest free entry of the dependency table, with the next generation; its token goes to D. With
a legal descriptor (CommandTraps) it holds the entry, HELD until its tokens are complete, and one access is outstanding; with an
illegal one STATUS becomes 1, the entry is free, and the access that counts on the path has returned, so that its counter falls
unless an older one of the path is outstanding (05 R121). An engine accepts the READY command that became READY first, by
entry among equals. A selection scans and sends its result as write-once replies. What each command writes when it completes,
then its STATUS, and what it does to a region; its entry is then free (11 R271 to R291; 05 R113, R114, R118). The model's
choices: between the residencies of a dual core a tie goes to the lower residency (log 100); an event that is not due leaves
the state as it is (log 82). A command's writes are one event (log 53), a base die's two engines run beside each other (log
61), and a poisoned index word or parameter block is used as read (log 121). -/
def Obligations.EngineCommands : Prop :=
  (∀ (y : Bool) (d : BitVec 7) (a : BitVec 9) (s : State) (v : View) (code : Nat) (i : Instr), s.view = some v →
    v.team.det = none →
    (code, i) ∈ [(0, Instr.engCpy y d a), (1, .engCpy2d y d a), (2, .engCpyg y d a), (3, .engCpys y d a), (4, .engFill y d a),
      (5, .engKvc y d a), (6, .engSelp y d a), (7, .engSelk y d a), (8, .engRdx y d a), (9, .engLreg y d a),
      (10, .engLrev y d a)] →
    let n := v.who.core
    let r := v.who.res
    let ua := v.addrUse a .a
    let x := v.read ua none
    let fm : Form := { uses := [ua], d := some { dUse d 1 false with fixed := true } }
    let va := v.place x 0 0
    let path := if code = 6 ∨ code = 7 then 5 else 3
    ∀ ps k, v.Ready fm → x.shape = .u → va % 64 = 0 → va < 0x200000 → s.xlatBytes v .load va 64 = .ok ps →
      v.Reaches s false 64 [wholeAccess va ps] → Clean [x] (fullMask 64) →
      let pas := ps.map (·.pa)
      let desc := s.ownBytes v pas
      let gen := ((kgetD v.res.deps k DepEntry.fresh).gen + 1) % 2 ^ 16
      let token := Result.narrow (Value.uni (BitVec.ofNat 32 (2 ^ 31 + k * 2 ^ 16 + gen)) false)
      s.mustWait v pas = false → s.ownPoison v pas = false → v.fib.spec.ctr.get path < 65535 → k < (if v.core.dual then 32 else 64) →
      (∀ j, j < k → (kgetD v.res.deps j DepEntry.fresh).state ≠ .free) → (kgetD v.res.deps k DepEntry.fresh).state = .free →
      v.Fits fm d token →
      let mine := fun (p : Nat × Op) => p.2.res = r ∧ p.2.slot = v.who.slot ∧ p.2.path = path
      (descRanges v.core code desc = none → ((pas.drop 12).take 4).Nodup → v.fib.status = .ready →
        ∃ t f, exec i s = .next t ∧ readAll t.mem ((pas.drop 12).take 4) = bytesOfNat ((pas.drop 12).take 4).length 1 ∧
          (∀ b, b ∉ (pas.drop 12).take 4 → readByte t.mem b = readByte s.mem b) ∧
          kget (t.res n r).deps k = some { state := .free, gen := gen, cmd := none } ∧
          (∀ id, id.inFile = true → t.getReg v id = v.after fm d token id) ∧
          t.fibre n r v.who.slot = some f ∧
          ((∀ p ∈ v.core.ops, ¬mine p) → v.fib.GoesOn f v.who.ply) ∧
          ((∃ p ∈ v.core.ops, mine p) → (∀ p ∈ v.core.ops, p.1 < v.core.nextOp ∧ (mine p → p.2.done = false)) →
            (v.fib.counts path).GoesOn f v.who.ply)) ∧
      (∀ rs, descRanges v.core code desc = some rs → s.xlatRanges v rs = .ok () →
        (s.locksOf n r).length + (rs.filter fun g => g.lock && g.len != 0).length ≤
          (if (s.core (s.home n r)).dual then 16 else 32) →
        ∃ t f e c pages, exec i s = .next t ∧ t.mem = s.mem ∧ kget (t.res n r).deps k = some e ∧ e.gen = gen ∧
          e.state = (if v.res.tokenDone (BitVec.ofNat 32 (leAt desc 0 4)) && v.res.tokenDone (BitVec.ofNat 32 (leAt desc 4 4))
            then DepState.ready else .held) ∧
          e.cmd = some c ∧ c.code = code ∧ c.desc = desc ∧ c.statusPas = (pas.drop 12).take 4 ∧ c.slot = v.who.slot ∧
          c.op = v.core.nextOp ∧ kget (t.core n).ops v.core.nextOp = some (v.newOp path false pages (.engine k)) ∧
          (∀ id, id.inFile = true → t.getReg v id = v.after fm d token id) ∧
          t.fibre n r v.who.slot = some f ∧ (v.fib.counts path).GoesOn f v.who.ply)) ∧
  (∀ (core res : Nat) (s : State),
    (s.nextReady core = none → s.readyIn core 0 = [] ∧ s.readyIn core 1 = [] ∧ exec (.engineAccept core res) s = .next s) ∧
    ∀ x, s.nextReady core = some x →
      x ∈ s.readyIn core 0 ++ s.readyIn core 1 ∧
      (∀ z ∈ s.readyIn core 0 ++ s.readyIn core 1, x.cmd.readyAt < z.cmd.readyAt ∨
        x.cmd.readyAt = z.cmd.readyAt ∧ x.entry ≤ z.entry) ∧
      (x.res ≠ res → exec (.engineAccept core res) s = .next s) ∧
      (x.res = res →
        let c := x.cmd
        let me : BaseCmd := { core := core, res := res, entry := x.entry }
        ∃ t, exec (.engineAccept core res) s = .next t ∧ t.mem = s.mem ∧
          (kget (t.res core res).deps x.entry).map (·.state) = some .running ∧
          (c.code = 8 → (t.agent (c.stack s core res)).sums = (s.agent (c.stack s core res)).sums ++ [me]) ∧
          (c.code = 6 ∨ c.code = 7 → (t.agent (c.stack s core res)).queue = (s.agent (c.stack s core res)).queue ++ [me]))) ∧
  (∀ (stack : Nat) (s : State) (q : BaseCmd) (qs : List BaseCmd), (s.agent stack).down = false →
    ((s.agent stack).queue = q :: qs → (s.agent stack).running = none → (s.agent stack).farReady = true →
      (∃ c, s.baseCmd q = some c ∧ s.destClear q.core q.res c = true) → ∃ t, exec (.baseDieCommandStart stack) s = .next t ∧ t.mem = s.mem ∧
        (t.agent stack).running = some q ∧ (t.agent stack).queue = qs) ∧
    (∀ c, (s.agent stack).queue = q :: qs → (s.agent stack).running = none → (s.agent stack).farReady = true → stack < 16 →
      s.baseCmd q = some c → s.destClear q.core q.res c = true → c.code = 6 ∨ c.code = 7 →
      let f := leAt c.desc
      let type := f 28 1
      let n := f 30 2
      let size := if type = 8 ∨ type = 9 then 2 else 4
      let pa := c.pa s q.core q.res
      let bits := fun i => leNat (readAll s.mem ((span (f 16 8 + i * size) size).map pa))
      let value := fun i => selValue type (bits i)
      let all := List.range (f 24 4)
      let before := fun i j => (value j).lt (value i) = true ∨ ((value i).lt (value j) = false ∧ i < j)
      type ∈ [2, 6, 8, 9, 10] → 1 ≤ n → n ≤ 256 →
      ∃ (t : State) (picks : List Nat) (second : Nat), exec (.baseDieCommandStart stack) s = .next t ∧ t.mem = s.mem ∧
        (c.code = 6 →
          let hits := all.filter fun i => (fltCond (f 29 1) (value i) (selValue type (f 32 4))).getD false
          picks = hits.take n ∧ second = hits.length) ∧
        (c.code = 7 → picks.Nodup ∧ (∀ i ∈ picks, i < f 24 4 ∧ (value i).isNan = false) ∧
          picks.length = min n (all.filter fun i => !(value i).isNan).length ∧
          second = (all.filter fun i => (value i).isNan).length ∧
          (∀ (x y i j : Nat), x < y → picks[x]? = some i → picks[y]? = some j → before i j) ∧
          ∀ i ∈ picks, ∀ j ∈ all, j ∉ picks → (value j).isNan = false → before i j) ∧
        ∀ g, g < 2 * (n + 1) → ∃ y ∈ t.fabric.sent, tagAgent y.1 = 672 + stack ∧ tagSlot y.1 = 1 ∧ y.2.pkt.kind = .reply ∧
          y.2.pkt.ctx = c.ctx ∧ ∃ va o, y.2.pkt.target = pa va ∧ va + 4 * o = f 40 8 + 4 * g ∧
          sliceBytes y.2.pkt.data (4 * o) 4 = bytesOfNat 4 (if g = 0 then picks.length else if g = 1 then second
            else match picks[(g - 2) / 2]? with
              | some i => if g % 2 = 0 then bits i else (f 36 4 + i) % 2 ^ 32
              | none => if g % 2 = 0 then 0 else 0xFFFFFFFF)) ∧
    ((s.agent stack).sums = q :: qs → (s.agent stack).summing = none → (s.agent stack).queue = [] →
      ∃ t, exec (.baseDieCommandStart stack) s = .next t ∧ t.mem = s.mem ∧
        (t.agent stack).summing = some q ∧ (t.agent stack).sums = qs)) ∧
  (∀ (core res k : Nat) (s : State) (e : DepEntry) (c : EngCmd), kget (s.res core res).deps k = some e →
    e.state = .running → e.cmd = some c →
    let me : BaseCmd := { core := core, res := res, entry := k }
    let h := s.agent (c.stack s core res)
    let f := leAt c.desc
    let pa := c.pa s core res
    (s.destClear core res c = false → exec (.engCommandComplete core res k) s = .next s) ∧
    (s.destClear core res c = true → (c.code = 8 → h.summing = some me) →
      (c.code = 6 ∨ c.code = 7 ∨ 11 ≤ c.code → h.running = some me ∧ c.packets = []) →
      let ends := fun (writes : List (Nat × Byte)) (status : Nat) (ok : State → Prop) =>
        ∃ t, exec (.engCommandComplete core res k) s = .next t ∧ (kget (t.res core res).deps k).map (·.state) = some .free ∧
          (s.poison = [] → c.conds = 0 → c.statusPas.length = 4 → c.statusPas.Nodup →
            readAll t.mem c.statusPas = bytesOfNat 4 status) ∧
          (∀ b, b ∉ c.statusPas →
            readByte t.mem b = writes.foldl (fun z p => if p.1 = b then p.2 else z) (readByte s.mem b)) ∧ ok t
      let plain := fun (writes : List (Nat × Byte)) (status : Nat) => ends writes status fun _ => True
      let at_ := fun va n => (span va n).map pa
      let copy := fun src dst n => (at_ dst n).zip (readAll s.mem (at_ src n))
      let free := fun as : List Nat => ∀ b ∈ as, s.regionAt b = none
      let signed := fun o : Nat => if f o 4 < 2 ^ 31 then (f o 4 : Int) else (f o 4 : Int) - 2 ^ 32
      (∃ t, exec (.engCommandComplete core res k) s = .next t ∧ (kget (t.res core res).deps k).map (·.state) = some .free) ∧
      (c.code = 0 → free (at_ (f 24 8) (f 32 4)) → plain (copy (f 16 8) (f 24 8) (f 32 4)) 0) ∧
      (c.code = 4 → free (at_ (f 16 8) (f 24 4)) →
        plain ((at_ (f 16 8) (f 24 4)).zip ((List.range (f 24 4)).map fun j => c.desc.getD (32 + j % 16) 0)) 0) ∧
      (c.code = 1 →
        let n := f 32 4
        let src := fun i : Nat => ((f 16 8 : Int) + i * signed 40).toNat
        let dst := fun i : Nat => ((f 24 8 : Int) + i * signed 44).toNat
        (∀ i, i < f 36 4 → free (at_ (dst i) n) ∧ ∀ j, j < f 36 4 → ∀ b ∈ at_ (src j) n, b ∉ at_ (dst i) n) →
        plain ((List.range (f 36 4)).flatMap fun i => copy (src i) (dst i) n) 0) ∧
      (c.code = 2 ∨ c.code = 3 →
        let n := f 40 4
        let x := fun i => leNat (readAll s.mem (at_ (f 32 8 + 4 * i) 4))
        let table := fun i => f 16 8 + x i * n
        let other := fun i => f 24 8 + i * n
        let src := fun i => if c.code = 2 then table i else other i
        let dst := fun i => if c.code = 2 then other i else table i
        (∀ i, i < f 44 4 → x i < f 48 4 → free (at_ (dst i) n) ∧ ∀ j, j < f 44 4 →
          (∀ b ∈ at_ (f 32 8 + 4 * j) 4, b ∉ at_ (dst i) n) ∧ ∀ b ∈ at_ (src j) n, b ∉ at_ (dst i) n) →
        plain ((List.range (f 44 4)).flatMap fun i => if x i < f 48 4 then copy (src i) (dst i) n else [])
          (if (List.range (f 44 4)).any fun i => decide (f 48 4 ≤ x i) then 3 else 0)) ∧
      (c.code = 5 →
        let n := f 40 4
        let rows := (List.range 64).filter (f 48 8).testBit
        let src := fun i => f 16 8 + rows.getD i 0 * n
        let dst := fun i => f 24 8 + (f 44 4 + i) * n
        let w := ((List.range rows.length).flatMap fun i => copy (src i) (dst i) n) ++
          (at_ (f 32 8) 8).zip (bytesOfNat 4 ((f 44 4 + rows.length) % 2 ^ 32) ++ bytesOfNat 4 0)
        let arva := pa (f 56 8)
        (∀ i, i < rows.length → free (at_ (dst i) n) ∧ ∀ j, j < rows.length → ∀ b ∈ at_ (src j) n, b ∉ at_ (dst i) n) →
        free (at_ (f 32 8) 8) →
        (f 56 8 = 0 → plain w 0) ∧
        (f 56 8 ≠ 0 → s.poison = [] → s.regionAt arva = none → plain w 4) ∧
        (∀ st r, f 56 8 ≠ 0 → s.poison = [] → s.regionAt arva = some (st, r) → r.state = .opened → r.base = arva →
          (∀ p ∈ w, p.1 ∉ span arva 4) →
          plain (w ++ (span arva 4).zip (bytesOfNat 4 ((readNat s.mem arva 4 + 1) % 2 ^ 32))) 0)) ∧
      (c.code = 6 ∨ c.code = 7 → plain [] 0) ∧
      (c.code = 8 →
        let n := f 32 4
        let addr := fun i => leAt (readAll s.mem (at_ (f 16 8) 64)) (8 * i) 8
        let present := fun i => (f 36 1).testBit i = true
        let leaves := fun i => s.bufferLeaves c.ctx (core / 80) (addr i) (4 * n)
        let illegal := ∃ i, i < 8 ∧ ((¬present i ∧ addr i ≠ 0) ∨ (present i ∧ (leaves i = none ∨
          (addr i ≠ f 24 8 ∧ addr i < f 24 8 + 4 * n ∧ f 24 8 < addr i + 4 * n))))
        (illegal → plain [] 1) ∧
        (∀ loc : Nat → Nat → Nat, ¬illegal → free (at_ (f 24 8) (4 * n)) → (f 40 8 ≠ 0 → free (at_ (f 40 8) 4)) →
          (∀ i ls, i < 8 → present i → leaves i = some ls → ∀ b,
            loc i b = ((ls.find? fun l => l.covers c.ctx b).map fun l => (l.place b).pa).getD 0) →
          let value := fun j i => if present i
            then some (BitVec.ofNat 64 (leNat (readAll s.mem ((span (addr i + 4 * j) 4).map (loc i))))) else none
          let node := fun (x y : Option DWord) => match x, y with
            | some x, some y => some (addF .f32 .rne (decodeF .f32 x) (decodeF .f32 y)).1
            | some x, none => some x
            | none, y => y
          let sum := fun v : Nat → Option DWord =>
            node (node (node (v 0) (v 1)) (node (v 2) (v 3))) (node (node (v 4) (v 5)) (node (v 6) (v 7)))
          plain ((at_ (f 24 8) (4 * n)).zip ((List.range n).flatMap fun j => bytesOfNat 4 ((sum (value j)).getD 0).toNat) ++
            if f 40 8 = 0 then [] else (at_ (f 40 8) 4).zip (bytesOfNat 4 (f 48 4))) 0)) ∧
      (c.code = 9 →
        let base := pa (f 16 8)
        let n := f 24 4
        let wide := decide (f 28 4 = 1)
        let steps := fun cl => ∀ i, i < n / 64 → pa (f 16 8 + 64 * i) = regionByte cl base (64 * i)
        let fits := fun cl => dieOf base = core / 80 ∧ s.regionFits cl base n wide = true
        (∀ cl, steps cl → (cl = true → ¬steps false) → fits cl →
          ends ((span base 64).zip (bytesOfNat 4 0 ++ bytesOfNat 4 (f 36 4) ++ bytesOfNat 8 0 ++ bytesOfNat 4 (f 32 4) ++
              bytesOfNat 4 (if wide then 1 else 0) ++ bytesOfNat 40 0) ++
            if wide then (List.range (n - 64)).map fun j => (regionByte cl base (64 + j), 0) else []) 0 fun t =>
          (t.agent (stackOf base)).regions = { base := base, cl := cl, size := n, wide := wide, e := signed 32, owner := c.ctx
                                               state := .opened, written := [], conflict := [] } ::
            (s.agent (stackOf base)).regions) ∧
        ((∀ cl, steps cl → ¬fits cl) → plain [] 1)) ∧
      (c.code = 10 →
        let base := pa (f 16 8)
        let mine := fun st r => s.regionAt base = some (st, r) ∧ r.base = base ∧ r.owner = c.ctx ∧ r.state = .opened
        (∀ st r, mine st r → ends [] 0 fun t => (t.agent st).regions =
          (s.agent st).regions.map fun q => if q.base = base then { q with state := .closing s.clock } else q) ∧
        ((∀ st r, ¬mine st r) → plain [] 1))))

/-! ### Bank units -/

/-- A BNK command takes its place at the end of its pseudo-channel's queue with the banks of the active lanes, and leaves
one access outstanding; BMODE takes the bank channel and BEXIT gives it up; under an empty mask nothing is issued. The
oldest command of a channel then has its effect; the last one of a fibre that is DONE gives the channel up (11 R293 to R297;
15 R321, R324). The model's readings: BBC's bytes are read at issue (log 58), BSAVE and BRST are checked as reads (log 60),
the address bits of BMODE are checked as those of the other commands (log 57). -/
def Obligations.BankCommands : Prop :=
  (∀ (y : Bool) (d : BitVec 7) (k kv : BitVec 3) (o : BitVec 2) (a : BitVec 9) (s : State) (v : View), s.view = some v →
    v.team.det = none → v.fib.spec.ctr.get 4 < 65535 → s.acquiring v = false →
    let n := v.who.core
    let ua := v.addrUse a .a
    let x := v.read ua none
    let va := v.place x 0 0
    let fm : Form := { uses := [ua], d := none }
    let none_ : Form := { uses := [], d := none }
    let banks := (List.range 16).filter fun b => v.activeLanes.any fun l => l % 16 == b
    let me : ChOwner := { ctx := v.team.ctx, launch := v.team.launch, team := v.team.num, fibre := v.fib.num, gone := false }
    let skips := fun (i : Instr) (fm : Form) => ∃ t, exec i s = .next t ∧ v.Changes s t fm (v.fib.retire v.who.ply)
    let sends := fun (i : Instr) (fm : Form) (f : Fibre) (q page : Nat) (body : OpBody) (act : BankDo) =>
      ∃ t, exec i s = .next t ∧ t.mem = s.mem ∧ kget (t.core n).ops v.core.nextOp = some (v.newOp 4 false [page] body) ∧
        (t.channel q).queue = (s.channel q).queue ++ [{ core := n, op := v.core.nextOp, by_ := me, banks := banks, act := act }] ∧
        (∀ p, p ≠ q → t.channel p = s.channel p) ∧ v.Left t fm f
    let one := v.fib.counts 4
    let inBank := fun (ch : Option Nat) => { one with spec := { one.spec with bankCh := ch } }.retire v.who.ply
    (v.Ready fm → x.shape = .u →
      (v.active = 0 → skips (.bnkBmode y a) fm ∧ skips (.bnkBld y k a) fm ∧ skips (.bnkBst y k a) fm ∧
        skips (.bnkBmac y kv k a) fm ∧ skips (.bnkBbc y k a) fm ∧
        (s.privileged v = true → skips (.bnkBsave y a) fm ∧ skips (.bnkBrst y a) fm)) ∧
      (v.active ≠ 0 → Clean [x] v.active →
        (∀ q loc, va % 32 = 0 → va / 1024 % 16 = 0 →
          (s.bankAddr v .bankRead va = .ok (q, loc) → (s.channel q).owner = some me → v.fib.spec.bankCh = none →
            sends (.bnkBmode y a) fm (inBank (some q)) q (va / 65536) (.bank q) .enter) ∧
          (v.fib.spec.bankCh = some q →
            (s.bankAddr v .bankRead va = .ok (q, loc) →
              sends (.bnkBld y k a) fm (one.retire v.who.ply) q (va / 65536) (.bank q) (.load k.toNat loc) ∧
              sends (.bnkBmac y kv k a) fm (one.retire v.who.ply) q (va / 65536) (.bank q) (.mac k.toNat kv.toNat loc)) ∧
            (s.bankAddr v .bankWrite va = .ok (q, loc) →
              sends (.bnkBst y k a) fm (one.retire v.who.ply) q (va / 65536) (.bank q) (.store k.toNat loc)))) ∧
        (∀ q ps, v.fib.spec.bankCh = some q → va % 32 = 0 → s.xlatBytes v .bankRead va 32 = .ok ps →
          v.Reaches s false 32 [{ lane := v.activeLanes.headD 0, va := va, places := ps }] →
          (∀ p ∈ ps, kindOf p.pa = 1 ∧ scratchCore p.pa ∈ s.teamCores n v.who.res) →
          s.mustWait v (ps.map (·.pa)) = false →
          sends (.bnkBbc y k a) fm (one.retire v.who.ply) q (va / 65536) (.bank q)
            (.broadcast k.toNat (s.ownBytes v (ps.map (·.pa))) (s.ownPoison v (ps.map (·.pa))))) ∧
        (∀ p, s.privileged v = true → s.bankPlace v .bankRead va = .ok (p, true) → p.far n = false →
          sends (.bnkBsave y a) fm (one.retire v.who.ply) (channelOf p.pa) (va / 65536) (.bank (channelOf p.pa)) .save ∧
          sends (.bnkBrst y a) fm (one.retire v.who.ply) (channelOf p.pa) (va / 65536) (.bank (channelOf p.pa)) .restore))) ∧
    (v.active = 0 → skips (.bnkBexit y) none_ ∧ (o.toNat ≤ 2 → skips (.bnkBred y k o) none_)) ∧
    (∀ q, v.active ≠ 0 → v.fib.spec.bankCh = some q →
      sends (.bnkBexit y) none_ (inBank none) q 0 (.bank q) .leave ∧
      (o.toNat ≤ 2 → sends (.bnkBred y k o) none_ (one.retire v.who.ply) q 0 (.bank q) (.reduce o.toNat k.toNat))) ∧
    (let fm : Form := { uses := [], d := some { dUse d 1 false with fixed := true, discard := false } }
     v.Ready fm → (∀ id ∈ (v.dest d).regs 1, (v.reg id).arrivalOk .g v.active v.fib.lanes = true) →
      (v.active = 0 → skips (.bnkBrd y d) fm) ∧
      ∀ q, v.active ≠ 0 → v.fib.spec.bankCh = some q →
        sends (.bnkBrd y d) fm (one.retire v.who.ply) q 0 (.bankRead (v.dest d)) (.read (v.dest d)))) ∧
  (∀ (q : Nat) (s : State) (b : BankCmd) (bs : List BankCmd), (s.channel q).queue = b :: bs →
    let c := s.channel q
    let at_ := fun (loc i : Nat) => (span (loc + i * 1024) 32).map (channelPa q)
    let gone := c.owner = some { b.by_ with gone := true }
    (gone → (∀ x ∈ bs, x.by_ ≠ b.by_) → ∃ t, exec (.bnkCommandComplete q) s = .next t ∧ (t.channel q).queue = bs ∧
      (t.channel q).owner = none ∧ (t.channel q).allBank = false ∧ ∀ p, p ≠ q → t.channel p = s.channel p) ∧
    (¬gone ∨ (∃ x ∈ bs, x.by_ = b.by_) →
     ∃ t, exec (.bnkCommandComplete q) s = .next t ∧ (t.channel q).queue = bs ∧ (t.channel q).owner = c.owner ∧ (∀ p, p ≠ q → t.channel p = s.channel p) ∧
      (b.act = .enter → (t.channel q).allBank = true ∧ (t.channel q).root = ⟨0, false⟩ ∧ (t.channel q).k = c.k) ∧
      (b.act = .leave → (t.channel q).allBank = false ∧ (t.channel q).root = c.root ∧ (t.channel q).k = c.k) ∧
      (∀ k loc, b.act = .load k loc → k < 8 → ∀ i, (t.channel q).reg i k =
        if i ∈ b.banks then s.atomReg (at_ loc i) else c.reg i k) ∧
      (∀ k data bad, b.act = .broadcast k data bad → k < 8 → ∀ i, (t.channel q).reg i k =
        if i ∈ b.banks then ⟨BitVec.ofNat 256 (leNat data), bad⟩ else c.reg i k) ∧
      (∀ kd kv loc, b.act = .mac kd kv loc → kd < 8 → kv < 8 → b.banks.Nodup → ∀ i, (t.channel q).reg i kd =
        if i ∈ b.banks then bankMac (c.reg i kd) (c.reg i kv) (s.atomReg (at_ loc i)) else c.reg i kd) ∧
      (∀ op k, b.act = .reduce op k → (t.channel q).root =
        (bankTree op (fun i => if b.banks.contains i then some (c.reg i k) else none) 4 0).getD c.root) ∧
      (∀ k loc, b.act = .store k loc → (∀ i ∈ b.banks, s.regionTouched (at_ loc i) = none) → ∀ x, readByte t.mem x =
        (b.banks.flatMap fun i => (at_ loc i).zip (bytesOfNat 32 (c.reg i k).bits.toNat)).foldl
          (fun z p => if p.1 = x then p.2 else z) (readByte s.mem x)) ∧
      ((∀ k loc, b.act ≠ .store k loc) → b.act ≠ .save → t.mem = s.mem)))

/-! ### Events of cores and teams -/

/-- A stalled spindle passes to its next READY fibre; bins expire and launch; a team whose every fibre is stuck freezes;
waits, quanta and budgets end; residencies switch (02 R26, R39, R40, R42, R45; 15 R315, R316; 16 R338, R339; 17 R361). A
deterministic launch counts its instructions as they issue, one that waits then and not again, and a NOPRE budget ends at one of
them (18 R373, R378). The model's choices: an event that is not due leaves the state as it is (log 82), where a bin's fibre runs
(log 67), which waiting teams a residency takes (log 117), and how an instruction that waits is counted (logs 115, 125). -/
def Obligations.SchedulingEvents : Prop :=
  (∀ (core q sp sl sl' : Nat) (s : State) (f : Fibre), let r := (s.core core).issuing
    ((s.core core).res r).activeSlot (2 * q + sp) = some sl → kget ((s.core core).res r).slots sl = some f →
    ((s.core core).res r).nextReady (2 * q + sp) (posOf sl) = some sl' →
    (f.stalledYield = true → sl' ≠ sl → ∃ t, exec (.spindleYieldOnStall core q sp) s = .next t ∧ t.mem = s.mem ∧
      kget ((t.core core).res r).active (2 * q + sp) = some sl' ∧ ((t.core core).res r).slots = ((s.core core).res r).slots) ∧
    (f.stalledYield = false → exec (.spindleYieldOnStall core q sp) s = .next s)) ∧
  (∀ (core res bin : Nat) (s : State) (t : Team) (b : Bin), (s.res core res).team = some t → s.home core res = core → bin < 8 →
    t.bins.getD bin Bin.empty = b → b.state = .filling → t.det = none →
    (b.since + 4096 ≤ s.clock → ∃ u t', exec (.spawnBinTimerExpiry core res bin) s = .next u ∧
      (u.res core res).team = some t' ∧ t'.bins.getD bin Bin.empty = { b with state := .expired, order := s.clock } ∧
      ∀ j, j < 8 → j ≠ bin → t'.bins.getD j Bin.empty = t.bins.getD j Bin.empty) ∧
    (s.clock < b.since + 4096 → exec (.spawnBinTimerExpiry core res bin) s = .next s)) ∧
  (∀ (core res slot bin : Nat) (s : State) (t : Team), (s.res core res).team = some t → s.home core res = core →
    t.det = none → (t.save = none ∨ s.nopreOpen core res = true) → s.freeSlot core res t = some slot → t.nextBin = some bin →
    let b := t.bins.getD bin Bin.empty
    let es := b.entries.take t.hdr.width
    (binFibre t.hdr slot s.clock b.target es).2 = false →
    ∃ u f t', exec (.spawnBinLaunch core res) s = .next u ∧ u.mem = s.mem ∧ u.fibre core res slot = some f ∧ f.num = slot ∧
      f.status = .ready ∧ (f.ply 0).pc = b.target ∧ f.lanes = fullMask es.length ∧ f.regs.preds = List.replicate 8 0 ∧
      (u.res core res).team = some t' ∧ (t'.bins.getD bin Bin.empty).entries = b.entries.drop t.hdr.width) ∧
  (∀ (core res : Nat) (s : State) (t : Team), (s.res core res).team = some t →
    let live := (s.teamFibres core res).filter fun x => x.2.2.status != .frozen
    live ≠ [] → s.freeSlot core res t = none → (∀ x ∈ live, s.spawnStuck x.1 res x.2.1 x.2.2 = true) →
    (∀ x ∈ live, (s.team x.1 res).isSome = true) → ∃ u, exec (.spawnDeadlock core res) s = .next u ∧
      ∀ x ∈ live, ∃ f, u.fibre x.1 res x.2.1 = some f ∧ f.status = .frozen) ∧
  (∀ (core res : Nat) (s : State) (t : Team), (s.res core res).team = some t → s.home core res = core → t.save = none →
    let live := (s.teamFibres core res).filter fun x => x.2.2.status != .frozen
    (live ≠ [] → s.teamWaits core res (s.deviceOf t.ctx) = true →
      (∀ x ∈ live, x.2.2.waits = true ∧ x.2.2.sched.since + 2 ^ 18 < s.clock) →
      ∃ u, exec (.longWaitSwap core res) s = .next u ∧ (u.res core res).team = some { t with save := some .swap }) ∧
    (t.quantumAt + (s.core core).quant ≤ s.clock → ∃ u, exec (.quantumEnd core res) s = .next u ∧ u.mem = s.mem ∧
      (u.res core res).team = some (if (s.replacement core res t).isSome then { t with save := some .quantum }
        else { t with quantumAt := s.clock })) ∧
    (s.clock < t.quantumAt + (s.core core).quant → exec (.quantumEnd core res) s = .next s)) ∧
  (∀ (core res slot x : Nat) (s : State) (t : Team) (f : Fibre), s.team core res = some t → s.fibre core res slot = some f →
    f.sched.nopre = some x →
    (t.det = none → x + 2 ^ 20 ≤ s.clock → ∃ u, exec (.nopreBudgetExpiry core res slot) s = .next u ∧
      u.fibre core res slot = some { f with sched := { f.sched with nopre := none, softPending := true } }) ∧
    (t.det ≠ none ∨ s.clock < x + 2 ^ 20 → exec (.nopreBudgetExpiry core res slot) s = .next s)) ∧
  (∀ (f : Fibre) (ply : Nat),
    let waited := (kget f.sched.tally ply).isSome = true
    let one := fun (g : Fibre) => g.sched.retired = f.sched.retired + 1 ∧ g.sched.left = f.sched.left.map (· - 1) ∧
      (f.sched.left = none → g.sched.nopre = f.sched.nopre ∧ g.sched.softPending = f.sched.softPending) ∧
      ∀ k x, f.sched.left = some k → f.sched.nopre = some x →
        (g.sched.nopre = if x + 2 ^ 20 ≤ f.sched.retired + 1 then none else some x) ∧
        (g.sched.softPending = true ↔ f.sched.softPending = true ∨ x + 2 ^ 20 ≤ f.sched.retired + 1)
    let still := fun (g : Fibre) => g.sched.retired = f.sched.retired ∧ g.sched.left = f.sched.left ∧
      g.sched.nopre = f.sched.nopre ∧ g.sched.softPending = f.sched.softPending
    (¬waited → one (f.count ply) ∧ one (f.begins ply) ∧ kget (f.begins ply).sched.tally ply = some true) ∧
    (waited → still (f.count ply) ∧ kget (f.count ply).sched.tally ply = none ∧ f.begins ply = f)) ∧
  (∀ (core : Nat) (s : State), let c := s.core core
    (∃ t, exec (.residencySwitchRequest core) s = .next t ∧ t.core core = if c.dual && !c.draining then { c with draining := true } else c) ∧
    (c.draining = true → (c.res c.issuing).mmas = [] → ∃ t, exec (.drainComplete core) s = .next t ∧
      t.core core = { c with issuing := 1 - c.issuing, draining := false, swcnt := c.swcnt + 1, idleSince := none }) ∧
    (c.dual = true → c.draining = false → (c.res c.issuing).anyReady = false → (c.res (1 - c.issuing)).anyReady = true →
      ∀ x, c.idleSince = some x →
        (x + 64 ≤ s.clock → ∃ t, exec (.residencyIdleSwitch core) s = .next t ∧ t.core core = { c with draining := true }) ∧
        (s.clock < x + 64 → exec (.residencyIdleSwitch core) s = .next s)) ∧
    (kget s.cores core = some c → (s.settleSpindles.core core).idleSince =
      if c.dual && !(c.res c.issuing).anyReady then some (c.idleSince.getD s.clock) else none)) ∧
  (∀ (device list : Nat) (s : State) (w : Waiting) (ws : List Waiting), list < 8 → s.list (8 * device + list) = w :: ws →
    w.aged = false → (w.since + 125000 ≤ s.clock → ∃ t, exec (.placementAgeing device list) s = .next t ∧
      t.list (8 * device + list) = { w with aged := true } :: ws ∧ t.cores = s.cores) ∧
    (s.clock < w.since + 125000 → exec (.placementAgeing device list) s = .next s))

/-- A queue's record is consumed in order; a team is placed with all its fibres, saved, restored and ended; an epoch of a
die ends (02 R24, R53, R54; 15 R318, R322; 16 R328, R336, R337; 18 R374). The model's choices: an event that is not due
leaves the state as it is (log 82); the order of service of equal priorities (log 26); an epoch of a die covers all its
deterministic launches (log 70); which residencies a restore waits for (log 97); when the teams saved for a test are placed
again (log 124). -/
def Obligations.TeamEvents : Prop :=
  (∀ (q fn ctx : Nat) (s : State), let x := s.anyQueue q
    x.owner = some (fn, ctx) →
    let after := fun (k : Nat) => if s.control.served ≤ s.queuePlace k then s.queuePlace k else s.queuePlace k + 2 ^ 21
    (s.mayConsume x ctx = true → (∀ k, s.queueReady k = true → after q ≤ after k) →
      ∃ t, exec (.queueConsume q) s = .next t ∧ (t.anyQueue q).consumed = x.consumed + 1 ∧
        (t.anyQueue q).arvcnt = x.arvcnt ∧ (∀ g, g < 64 → kget (t.anyQueue q).granules (64 * x.head + g) = none) ∧
        t.control.served = s.queuePlace q + 1) ∧
    (s.mayConsume x ctx = false ∨ (∃ k, s.queueReady k = true ∧ after k < after q) → exec (.queueConsume q) s = .next s)) ∧
  (∀ (device : Nat) (s : State),
    let spot := (s.serviceOrder device).findSome? fun key => (s.listSpot device key).map fun x => (key, x)
    (spot = none → exec (.teamPlace device) s = .next s) ∧
    ∀ key pos num n w l, spot = some (key, pos, num, n) → (s.list key)[pos]? = some w → s.launchOf w = some l →
      (w.saved = none → l.det = none → ∃ u t, exec (.teamPlace device) s = .next u ∧ u.mem = s.mem ∧
        (u.res n l.hdr.res).team = some t ∧ t.hdr = l.hdr ∧ t.num = num ∧ t.launch = w.launch ∧ t.ctx = l.ctx ∧
        t.handler = l.hdr.handler ∧ t.barriers = [] ∧ t.bins = [] ∧ t.save = none ∧ t.det = none ∧
        ∀ i, i < min l.hdr.fibres 32 → ¬l.hdr.paired → ∃ f, u.fibre n l.hdr.res i = some f ∧ f.num = i ∧ f.status = .ready ∧
          (f.ply 0).pc = l.hdr.entry ∧ (f.ply 0).exec = fullMask l.hdr.width) ∧
      (∀ sv, w.saved = some sv → ∃ u, exec (.teamPlace device) s = .next u ∧ u.mem = s.mem ∧
        kget (u.core n).restore l.hdr.res = some { base := none, saved := sv })) ∧
  (∀ (core res : Nat) (s : State) (t : Team), (s.res core res).team = some t →
    ((∀ x ∈ s.teamFibres core res, x.2.2.status = .frozen) → (∀ b ∈ t.bins, b.entries = []) → s.drained core res = true →
      ∃ u, exec (.teamEnd core res) s = .next u ∧ (u.res core res).team = none ∧ (u.res core res).slots = []) ∧
    ((∃ x ∈ s.teamFibres core res, x.2.2.status ≠ .frozen) → exec (.teamEnd core res) s = .next s) ∧
    ((∀ x ∈ s.teamFibres core res, s.metAt x.1 res x.2.1 = none) → s.wakeMet core res = s)) ∧
  (∀ (core res : Nat) (s : State) (t : Team) (why : SaveReason), let m := s.wakeMet core res
    (m.res core res).team = some t → t.save = some why →
    (m.saveReady core res why = true →
      (why = .swap ∨ why = .test ∨ why = .replace → ∃ u, exec (.teamSaveComplete core res) s = .next u ∧
        (u.res core res).team = none ∧ (u.res core res).slots = [] ∧
        (why = .test → ∃ x, (core / 2, x) ∈ u.control.underTest ∧ x.team.launch = t.launch ∧ x.team.num = t.num)) ∧
      (∀ base, why = .ctxsave base → ∃ u, exec (.teamSaveComplete core res) s = .next u ∧ (u.res core res).team = none ∧
        (kget u.control.areas base).isSome = true ∧ readNat u.mem base 4 = 1)) ∧
    (m.saveReady core res why = false → exec (.teamSaveComplete core res) s = .next s)) ∧
  (∀ (core res : Nat) (s : State) (q : RestoreReq), kget (s.core core).restore res = some q →
    let cores := q.saved.team.hdr.coresAt core
    ((∀ c ∈ cores, (s.core c).health.testing = false ∧ ∀ k ∈ s.rivals c res, (s.team c k).isSome = false) →
      ∃ u t, exec (.teamRestore core res) s = .next u ∧
      (u.res core res).team = some t ∧ t.launch = q.saved.team.launch ∧ t.num = q.saved.team.num ∧ t.ctx = q.saved.team.ctx ∧
      t.hdr = q.saved.team.hdr ∧ kget (u.core core).restore res = none) ∧
    ((∃ c ∈ cores, (s.core c).health.testing = true ∨ ∃ k ∈ s.rivals c res, (s.team c k).isSome = true) →
      exec (.teamRestore core res) s = .next s)) ∧
  (∀ (die : Nat) (s : State),
    (s.epochReady die = true → ∃ u, exec (.epochEnd die) s = .next u ∧
      kgetD u.control.epochs die 0 = kgetD s.control.epochs die 0 + 1) ∧
    (s.epochReady die = false → exec (.epochEnd die) s = .next s))

/-! ### Translation, hardware errors and tests -/

/-- The walk of a context's page table at each level: a leaf with the permission gives its page, and what fails names why;
the place of each byte of an access in the team window, in a cached page of either decoding or of a peer, and a miss (05 R100,
R101, R103; 17 R344 to R347; 19 R388). A walk fills the cache or parks the fibre; the fault service serves or posts a fault; an invalidation passes through its
three steps; an uncorrectable error poisons what it strikes; a test of a pair starts once the pair's teams are saved, and with
its end they are placed again (17 R350, R351, R353, R362 to R368). The model's choices: a cached leaf that does not permit the
access counts as a miss (log 44), an event that is not due leaves the state as it is (log 82), the environment gives the
results of tests and the places of errors (log 81), and the pair takes no team from when the test is asked for (log 124). -/
def Obligations.FaultEvents : Prop :=
  (∀ (s : State) (ctx va : Nat) (cls : AccClass) (c : Context), s.context ctx = some c →
    let addr := fun e : BitVec 64 => e.toNat / 2 ^ 8 % 2 ^ 44 * 2 ^ 8
    let entry := fun (table lo n : Nat) => BitVec.ofNat 64 (readNat s.mem (table + 8 * (va / 2 ^ lo % 2 ^ n)) 8)
    let fails := fun k => s.walkFor ctx va cls = .error k
    let allowed := fun e : BitVec 64 => match cls with
      | .load | .engineRead | .bankRead => e.getLsbD 2 = true
      | .store | .engineWrite | .bankWrite => e.getLsbD 3 = true
      | .atomic => e.getLsbD 2 = true ∧ e.getLsbD 3 = true
      | .fetch => e.getLsbD 4 = true
    let page := fun (e : BitVec 64) (size : Nat) =>
      let a := addr e / size * size
      let o := a % 2 ^ 44
      let kind := a / 2 ^ 44 % 16
      if e.getLsbD 6 = true then size = 65536 ∧ e.getLsbD 5 = false ∧ e.getLsbD 4 = false ∧ e.toNat / 2 ^ 8 % 2 ^ 8 = 0
      else a / 2 ^ 48 ≤ 8 ∧ ((kind = 0 ∧ e.getLsbD 5 = false ∧ o + size ≤ 0x17FF800000) ∨
        (size = 65536 ∧ ((kind = 0 ∧ e.getLsbD 5 = true ∧ o / 2 ^ 25 < 0xBFF) ∨
          (e.getLsbD 5 = false ∧ (kind = 3 ∨ (kind = 1 ∧ o < 80 * 2 ^ 20))))))
    let at_ := fun (e : BitVec 64) (size : Nat) (down : Prop) =>
      let clear := e.getLsbD 7 = false ∧ e.toNat / 2 ^ 52 = 0
      (e.getLsbD 0 = false → fails .np) ∧
      (e.getLsbD 0 = true → (¬clear → fails .rsvd) ∧
        (clear → e.getLsbD 1 = true → (size = 0 ∨ ¬page e size → fails .rsvd) ∧
          (size ≠ 0 → page e size → (¬allowed e → fails .perm) ∧
            (allowed e → s.walkFor ctx va cls = .ok { ctx := ctx, va := va / size * size, size := size, entry := e }))) ∧
        (clear → e.getLsbD 1 = false → (paExists (addr e) = false → fails .rsvd) ∧ (paExists (addr e) = true → down)))
    let e4 := entry c.root 39 17
    let e3 := entry (addr e4) 30 9
    let e2 := entry (addr e3) 21 9
    let e1 := entry (addr e2) 16 5
    at_ e4 0 (at_ e3 (2 ^ 30) (at_ e2 (2 ^ 21) (at_ e1 (2 ^ 16) (fails .rsvd))))) ∧
  (∀ (s : State) (v : View) (cls : AccClass) (va : Nat), s.view = some v →
    let n := v.who.core
    let h := s.home n v.who.res
    let size := if v.core.dual then 2 ^ 19 else 2 ^ 20
    let base := if v.core.dual then v.who.res * 2 ^ 19 else 0
    let scratch := fun (c o : Nat) => s.xlat v cls va =
      .ok { pa := c / 80 * 2 ^ 48 + 2 ^ 44 + c % 80 * 2 ^ 20 + base + o, peer := none }
    let hits := fun l : Leaf => l ∈ v.fills ++ v.core.tlb ∧ l.ctx = v.team.ctx ∧ l.va = va / l.size * l.size ∧
      cls.allowed l.entry = true
    (v.who.res ≤ 1 → va < 2 ^ 21 → (va < size → scratch h va) ∧
      (v.team.hdr.paired = true → size ≤ va → va < 2 * size → scratch (h + 1) (va - size)) ∧
      (size ≤ va → v.team.hdr.paired = false ∨ 2 * size ≤ va → s.xlat v cls va = .error (.fault va cls .hole))) ∧
    (2 ^ 21 ≤ va → ((∀ l, ¬hits l) → s.xlat v cls va = .error (.miss va cls)) ∧
      (∀ l, hits l → (∀ k, hits k → k = l) →
        let e := l.entry
        let a := e.toNat / 2 ^ 8 % 2 ^ 44 * 2 ^ 8 / l.size * l.size + va % l.size
        (e.getLsbD 6 = true → s.xlat v cls va =
          .ok { pa := e.toNat / 2 ^ 16 % 2 ^ 16 * 2 ^ 16 + va % 2 ^ 16, peer := some (e.toNat / 2 ^ 32 % 2 ^ 20) }) ∧
        (e.getLsbD 6 = false → e.getLsbD 5 = false → s.xlat v cls va = .ok { pa := a, peer := none }) ∧
        (e.getLsbD 6 = false → e.getLsbD 5 = true → ∃ p, s.xlat v cls va = .ok { pa := p, peer := none } ∧
          let o := p % 2 ^ 44
          let b := a % 2 ^ 44
          p / 2 ^ 44 = a / 2 ^ 48 % 16 * 16 ∧ o / 2 ^ 10 % 512 = b / 2 ^ 16 % 512 ∧
            o / 2 ^ 19 * 1024 + o % 1024 = b / 2 ^ 25 * 65536 + b % 65536))) ∧
    (∀ (k : Nat) (ps : List Place), s.xlatBytes v cls va k = .ok ps ↔
      ps.length = k ∧ ∀ i, i < k → ∃ p, ps[i]? = some p ∧ s.xlat v cls ((va + i) % 2 ^ 56) = .ok p) ∧
    (∀ (k : Nat) (vas : List (Nat × Nat)) (ls : List LanePlace), s.xlatLanes v cls k vas = .ok ls ↔
      ls.length = vas.length ∧ ∀ (i : Nat) (x : Nat × Nat), vas[i]? = some x → ∃ y : LanePlace, ls[i]? = some y ∧ y.lane = x.1 ∧ y.va = x.2 ∧
        s.xlatBytes v cls x.2 k = .ok y.places)) ∧
  (∀ (core walk : Nat) (s : State) (w : Walk), kget (s.core core).walks walk = some w →
    (∀ l, s.walkFor w.ctx w.va w.cls = .ok l → ∃ t, exec (.walkComplete core walk) s = .next t ∧ l ∈ (t.core core).tlb ∧
      kget (t.core core).walks walk = none ∧ t.mem = s.mem) ∧
    (∀ k t f, s.walkFor w.ctx w.va w.cls = .error k → k.resolvable = true → s.team core w.res = some t →
      s.fibre core w.res w.slot = some f → (f.ply w.ply).live = true → f.status = .ready → t.ctx = w.ctx →
      ∃ u g, exec (.walkComplete core walk) s = .next u ∧ u.mem = s.mem ∧ u.fibre core w.res w.slot = some g ∧
        g.status = .parked)) ∧
  (∀ (k : Nat) (s : State) (f : ServiceFault), kget s.control.faults k = some f → f.posted = false →
    let demand := if s.featureOn (((s.context f.ctx).map (·.fn)).getD 0) 4 then s.demandFor f else none
    let posts := ∃ t, exec (.faultService k) s = .next t ∧ t.mem = s.mem ∧
      kget t.control.faults k = some { f with posted := true }
    (demand = none → posts) ∧
    (∀ d, demand = some d → (d.frames ≤ d.taken → posts) ∧
      (d.taken < d.frames → (s.entryPlace f.ctx f.va 1).isSome = true →
        ∃ t, exec (.faultService k) s = .next t ∧ kget t.control.faults k = none))) ∧
  (∀ (inv die : Nat) (s : State) (i : Invalidation), kget s.control.invs inv = some i →
    (kget i.dies die = some .sent → ∃ t j waits, exec (.invalidation inv die) s = .next t ∧ kget t.control.invs inv = some j ∧
      kget j.dies die = some (.dropped waits) ∧
      ∀ n, n / 80 = die → ∀ l ∈ (t.core n).tlb, l.touches i.ctx i.va i.size = false) ∧
    (∀ waits, kget i.dies die = some (.dropped waits) →
      ((∀ w ∈ waits, ∀ o, s.op w.1 w.2 = some o → o.done = true) → ∃ t j, exec (.invalidationAck inv die) s = .next t ∧
        kget t.control.invs inv = some j ∧ kget j.dies die = some .acked ∧ t.cores = s.cores) ∧
      ((∃ w ∈ waits, ∃ o, s.op w.1 w.2 = some o ∧ o.done = false) → exec (.invalidationAck inv die) s = .next s)) ∧
    (kget i.dies die = some .acked →
      (1 < i.left → ∃ t, exec (.invalidationAckReceipt inv die) s = .next t ∧
        kget t.control.invs inv = some { i with dies := kerase i.dies die, left := i.left - 1 }) ∧
      (i.left ≤ 1 → ∃ t, exec (.invalidationAckReceipt inv die) s = .next t ∧ kget t.control.invs inv = none ∧
        t.control.responses = s.control.responses ++ [{ fn := i.fn, address := i.resp, status := 0, second := 0 }]))) ∧
  (∀ (s : State) (pa core n q bank k st : Nat),
    (kindOf pa ≠ 1 ∨ s.copies = [] → ∃ t, exec (.uncorrectableError (.atom pa)) s = .next t ∧ t.mem = s.mem ∧
      t.poisoned [pa] = true) ∧
    (∃ t, exec (.uncorrectableError (.shadow core n)) s = .next t ∧ t.core core = { s.core core with shadow := n }) ∧
    (∃ t, exec (.uncorrectableError (.bankReg q bank k)) s = .next t ∧ t.mem = s.mem ∧
      (t.channel q).reg bank k = { (s.channel q).reg bank k with poison := true }) ∧
    (∃ t, exec (.uncorrectableError (.root q)) s = .next t ∧ t.mem = s.mem ∧
      (t.channel q).root = { (s.channel q).root with poison := true }) ∧
    (∃ t, exec (.uncorrectableError (.home st)) s = .next t ∧ t.mem = s.mem ∧ (t.agent st).regions = [] ∧
      (t.agent st).filter = [] ∧ (t.agent st).farReady = false ∧ (t.agent st).discardUntil = some (s.clock + 10250000))) ∧
  (∀ (st x : Nat) (s : State), (s.agent st).discardUntil = some x →
    (x ≤ s.clock → ∃ t, exec (.homeRestartPeriodEnd st) s = .next t ∧ t.agent st = { s.agent st with discardUntil := none }) ∧
    (s.clock < x → exec (.homeRestartPeriodEnd st) s = .next s)) ∧
  (∀ (core : Nat) (x : BitVec 32) (s : State),
    (x.getLsbD 0 = true → (s.core core).health.busy = false → ∃ t, exec (.testRun core x) s = .next t ∧
      (t.core (core / 2 * 2)).health.busy = true ∧ (t.core (core / 2 * 2 + 1)).health.busy = true) ∧
    (x.getLsbD 0 = false ∨ (s.core core).health.busy = true → exec (.testRun core x) s = .next s)) ∧
  (∀ (pair : Nat) (s : State), pair < 320 →
    let cores := [2 * pair, 2 * pair + 1]
    ((s.core (2 * pair)).health.busy = true → (s.core (2 * pair)).health.testing = false →
      (∀ n ∈ cores, s.coreNopre n = false) →
      ((∀ n ∈ cores, s.coreEmpty n = true ∧ ∀ x ∈ (s.core n).turns, x.betweenQuanta = true) → ∃ t, exec (.infieldTestStart pair) s = .next t ∧
        ∀ n ∈ cores, (t.core n).health.testing = true ∧ (t.core n).turns = [] ∧ ∀ x ∈ (s.core n).turns,
          ∃ z, (pair, z) ∈ t.control.underTest ∧ z.team.launch = x.team.launch ∧ z.team.num = x.team.num) ∧
      (∀ n r t, n ∈ cores → r < 2 → s.coreEmpty n = false → s.home n r = n → (s.res n r).team = some t → t.save = none →
        ∃ u, exec (.infieldTestStart pair) s = .next u ∧ (u.res n r).team = some { t with save := some .test })) ∧
    ((s.core (2 * pair)).health.testing = true →
      (∀ result, ∃ t, exec (.infieldTestComplete pair result) s = .next t ∧ (∀ x ∈ t.control.underTest, x.1 ≠ pair) ∧
        ∀ x ∈ s.control.underTest, x.1 = pair → ∃ key, ∃ w ∈ t.list key, w.saved = some x.2) ∧
      (∃ t, exec (.infieldTestComplete pair .pass) s = .next t ∧ ∀ n ∈ cores, let h := (t.core n).health
        h.busy = false ∧ h.testing = false ∧ h.result = 1 ∧ h.suspect = false ∧ h.offline = false) ∧
      (∃ t, exec (.infieldTestComplete pair .mfail) s = .next t ∧
        (∀ n ∈ cores, (t.core n).health.busy = false ∧ (t.core n).health.testing = false ∧ (t.core n).health.result = 2) ∧
        ∀ k, k < 8 → (t.core (pair / 4 * 8 + k)).health.mfence = true) ∧
      (∃ t, exec (.infieldTestComplete pair .fail) s = .next t ∧ ∀ n ∈ cores, let h := (t.core n).health
        h.busy = false ∧ h.testing = false ∧ h.result = 3 ∧ h.offline = true)))

/-! ### The far fabric -/

/-- Packets are sent again, fail, pass routers, arrive, are filtered and acknowledged; what a home performs: a read-modify-write,
an arrival, an addend, the granules of a write-once packet, the service of a FETCH and the landing of its reply; legs end;
regions and filter tags expire; ports and peers change (05 R107 to R118; 09 R232, R234, R235; 17 R364; 19 R383 to R389). The
model's choices: the tag of the reply for a home that is down, and that it filters requests (log 83); an
event that is not due leaves the state as it is (log 82); the environment gives paths and errors (log 81); a home that may
not send takes no request (log 17); an acknowledgement is never acknowledged (log 102); a port takes no packet whose operation,
tag or length is no legal one (log 20); the layout of addresses and datagrams (logs 19, 103). -/
def Obligations.FabricEvents : Prop :=
  (∀ (tag : Nat) (s : State) (x : Sent), kget s.fabric.sent tag = some x →
    let bound := boundOf x.pkt.sys
    let lost := fun (cause : Nat) => ∃ i, x.pkt.peer = some i ∧ s.peerTarget x.pkt.ctx i x.pkt.target = .invalid cause
    (x.last + x.interval ≤ s.clock → s.clock < x.first + bound → s.maySend tag = true →
      ((∀ cause, ¬lost cause) → ∃ t, exec (.farRetransmit tag) s = .next t ∧ t.mem = s.mem ∧
        kget t.fabric.sent tag = some { x with last := s.clock, interval := s.fabric.interval x.pkt.sys } ∧
        ∃ c, kget t.fabric.copies s.fabric.nextCopy = some c ∧ c.age = ageOf x.pkt.sys ∧ c.pkt.tag = x.pkt.tag ∧
          c.pkt.data = x.pkt.data ∧ (x.pkt.peer = none → c.pkt = x.pkt)) ∧
      ((∃ cause, lost cause) → x.pkt.tag = tag → ∃ t, exec (.farRetransmit tag) s = .next t ∧
        kget t.fabric.sent tag = none)) ∧
    (s.clock < x.last + x.interval ∨ x.first + bound ≤ s.clock ∨ s.maySend tag = false →
      exec (.farRetransmit tag) s = .next s) ∧
    (x.pkt.tag = tag → x.first + bound ≤ s.clock → ∃ t, exec (.deliveryFailure tag) s = .next t ∧
      kget t.fabric.sent tag = none) ∧
    (s.clock < x.first + bound → exec (.deliveryFailure tag) s = .next s)) ∧
  (∀ (k next : Nat) (s : State) (c : Copy), s.copy k = some c →
    let gone := fun (i : Instr) => ∃ t, exec i s = .next t ∧ t.copy k = none ∧ t.mem = s.mem
    (c.expired s.clock = true → gone (.farCopyAgeExpiry k)) ∧
    (c.expired s.clock = false → exec (.farCopyAgeExpiry k) s = .next s) ∧
    (∀ d, c.place = .router d → gone (.routerForward k next true)) ∧
    (∀ d, c.place = .router d → c.expired s.clock = false → leadsTo d next c.die = true →
      ∃ t, exec (.routerForward k next false) s = .next t ∧ t.mem = s.mem ∧
        t.copy k = some { c with age := c.age - c.charge s.clock, since := s.clock, place :=
          if next = c.die then (if c.pkt.leaves then .port else .home (stackOf c.pkt.target)) else .router next }) ∧
    (c.place = .router 8 → c.pkt.leaves = true → c.expired s.clock = false → ∃ t,
      exec (.routerForward k next false) s = .next t ∧ t.mem = s.mem ∧ t.copy k = some { c with place := .port }) ∧
    (∀ h, c.place = .home h →
      (c.expired s.clock = true → gone (.homeCopyReceipt k)) ∧
      (c.expired s.clock = false →
        let st := s.homeOf c.pkt.target
        let a := s.agent st
        let known := ∃ f ∈ a.filter, f.tag = c.pkt.tag ∧ f.kept s.clock = true
        (a.down = true → c.pkt.kind = .request → a.room c.pkt.sys s.clock = true → ∃ t, exec (.homeCopyReceipt k) s = .next t ∧
          kget t.fabric.acks s.fabric.nextAck = some { tag := c.pkt.tag } ∧ (known → t.fabric.sent = s.fabric.sent) ∧
          (¬known → { tag := c.pkt.tag, sys := c.pkt.sys, first := s.clock } ∈ (t.agent st).filter ∧
            ∃ y, kget t.fabric.sent (tagOf (672 + st) linkSlot a.linkSeq) = some y ∧ y.pkt.kind = .reply ∧
              y.pkt.request = c.pkt.tag ∧ y.pkt.target = c.pkt.landing ∧ y.pkt.poison = List.range (c.pkt.size / 4))) ∧
        (a.down = false → a.discardUntil = none →
        ((∃ f ∈ a.filter, f.tag = c.pkt.tag ∧ f.kept s.clock = true) → ∃ t, exec (.homeCopyReceipt k) s = .next t ∧
          t.mem = s.mem ∧ t.copy k = none ∧ kget t.fabric.acks s.fabric.nextAck = some { tag := c.pkt.tag }) ∧
        ((∀ f ∈ a.filter, f.tag = c.pkt.tag → f.kept s.clock = false) → a.room c.pkt.sys s.clock = true →
          c.pkt.kind ≠ .request ∨ a.farReady = true → ∃ t, exec (.homeCopyReceipt k) s = .next t ∧
            { tag := c.pkt.tag, sys := c.pkt.sys, first := s.clock } ∈ (t.agent st).filter ∧
            kget t.fabric.acks s.fabric.nextAck = some { tag := c.pkt.tag }))))) ∧
  (∀ (k h : Nat) (s : State) (c : Copy), s.copy k = some c → c.place = .home h → c.expired s.clock = false →
    let p := c.pkt
    let pa := p.target
    let st := s.homeOf pa
    let a := s.agent st
    let n := p.data.length
    let op := p.code % 16
    a.down = false → a.discardUntil = none → (∀ f ∈ a.filter, f.tag = p.tag → f.kept s.clock = false) →
    a.room p.sys s.clock = true → p.fromDev = none →
    let does := fun ok : State → Prop => ∃ t, exec (.homeCopyReceipt k) s = .next t ∧ ok t
    let only := fun (t : State) (as : List Nat) => ∀ x, x ∉ as → readByte t.mem x = readByte s.mem x
    let drops := fun (t : State) (r : Region) => only t (span (r.base + 12) 4) ∧
      readNat t.mem (r.base + 12) 4 = min (readNat s.mem (r.base + 12) 4 + 1) 0xFFFFFFFF
    let opened := fun (wide : Bool) (m : Nat) => ∃ e r, s.regionAt pa = some (e, r) ∧ r.state = .opened ∧ r.wide = wide ∧
      64 ≤ r.index pa ∧ r.index pa + m ≤ r.size
    let closed := does fun t => (∃ e ∈ t.control.events, e.type = .targetClosed ∧ e.ctx = p.ctx) ∧
      (s.regionAt pa = none → t.mem = s.mem) ∧ ∀ e r, s.regionAt pa = some (e, r) → drops t r
    (p.kind = .op → op ≤ 9 → n = 4 ∨ n = 8 →
      (s.poisoned (span pa n) = true → does fun t => t.mem = s.mem) ∧
      (s.poisoned (span pa n) = false →
        (s.regionTouched (span pa n) = none → does fun t => only t (span pa n) ∧
          let r : Rmw := { code := op, wide := decide (n = 8), unsigned := decide (16 ≤ p.code), cas := false }
          readNat t.mem pa n =
            (r.new (BitVec.ofNat 64 (readNat s.mem pa n)) (BitVec.ofNat 64 (leNat p.data))).toNat % 2 ^ (8 * n)) ∧
        (∀ e r, s.regionTouched (span pa n) = some (e, r) → does fun t => drops t r))) ∧
    (p.kind = .op → op = 12 → s.poisoned (span pa 4) = false →
      (∀ e r, s.regionAt pa = some (e, r) → r.state = .opened → r.base = pa → does fun t => only t (span pa 4) ∧
        readNat t.mem pa 4 = (readNat s.mem pa 4 + leNat p.data) % 2 ^ 32) ∧
      ((∀ e r, s.regionAt pa = some (e, r) → r.state = .opened → r.base ≠ pa) → closed)) ∧
    (p.kind = .op → op = 13 → s.poisoned (span pa 16) = false →
      (∀ e r, s.regionAt pa = some (e, r) → r.state = .opened → r.wide = true → 64 ≤ r.index pa → r.index pa + 16 ≤ r.size →
        does fun t => only t (span pa 16) ∧
          readNat t.mem pa 16 = cellAdd (readNat s.mem pa 16) r.e (BitVec.ofNat 64 (leNat p.data))) ∧
      (¬opened true 16 → closed)) ∧
    ((p.kind = .op ∧ op = 11 ∧ s.poisoned (span pa n) = false) ∨ p.kind = .reply →
      (¬opened false n → closed) ∧
      ∀ e r, s.regionAt pa = some (e, r) → r.state = .opened → r.wide = false → 64 ≤ r.index pa → r.index pa + n ≤ r.size →
        (∀ q ∈ (s.agent e).regions, q.base = r.base → q = r) →
        let off := fun g => r.index (pa + 4 * g)
        let taken := fun g => kget r.written (off g)
        let gs := List.range (n / 4)
        let clash := gs.filter fun g => (taken g).any (· != p.tag)
        (gs.map off).Nodup → n % 4 = 0 → (∀ x ∈ span pa n, x ∉ span r.base 16) →
        does fun t => only t (span pa n ++ span r.base 4 ++ span (r.base + 8) 4) ∧
          (∀ g b, g < n / 4 → b < 4 → readByte t.mem (pa + 4 * g + b) =
            if taken g = none then p.data.getD (4 * g + b) 0 else readByte s.mem (pa + 4 * g + b)) ∧
          readNat t.mem (r.base + 8) 4 = min (readNat s.mem (r.base + 8) 4 + clash.length) 0xFFFFFFFF ∧
          readNat t.mem r.base 4 = (readNat s.mem r.base 4 + if p.kind = .reply then n / 4 else 0) % 2 ^ 32 ∧
          ∃ r' ∈ (t.agent e).regions, r'.base = r.base ∧ ∀ g, g < n / 4 →
            kget r'.written (off g) = some ((taken g).getD p.tag) ∧ (g ∈ clash → off g ∈ r'.conflict)) ∧
    (p.kind = .reply → isReplyTag p.tag = true → ∀ l, kget s.fabric.legs p.request = some l →
      does fun t => kget t.fabric.legs p.request = some { l with reported := true }) ∧
    (p.kind = .request → a.farReady = true → st < 16 → does fun t => t.mem = s.mem ∧
      ∃ y ∈ t.fabric.sent, tagAgent y.1 = 672 + st ∧ tagSlot y.1 = 0 ∧ y.2.pkt.kind = .reply ∧ y.2.pkt.sys = p.sys ∧
        y.2.pkt.target = p.landing ∧ y.2.pkt.request = p.tag ∧ y.2.pkt.data = readAll s.mem (span pa p.size) ∧
        ∀ g, g ∈ y.2.pkt.poison ↔ g < p.size / 4 ∧ s.poisoned [pa + 4 * g] = true)) ∧
  (∀ (k : Nat) (s : State) (a : Ack), kget s.fabric.acks k = some a →
    (∃ t, exec (.farAckReceipt k true) s = .next t ∧ kget t.fabric.acks k = none ∧ t.fabric.sent = s.fabric.sent) ∧
    (∀ x, kget s.fabric.sent a.tag = some x → x.pkt.tag = a.tag → ∃ t, exec (.farAckReceipt k false) s = .next t ∧
      kget t.fabric.acks k = none ∧ kget t.fabric.sent a.tag = none ∧ t.mem = s.mem)) ∧
  (∀ (tag : Nat) (s : State) (l : Leg), kget s.fabric.legs tag = some l →
    (l.reported = true → ∃ t, exec (.fetchLandingReport tag) s = .next t ∧ kget t.fabric.legs tag = none ∧ t.mem = s.mem) ∧
    (l.reported = false → exec (.fetchLandingReport tag) s = .next s) ∧
    (l.first + 2 * boundOf l.sys + 2 * lifeOf l.sys ≤ s.clock → ∃ t, exec (.fetchLegFailure tag) s = .next t ∧
      kget t.fabric.legs tag = none ∧ t.mem = s.mem)) ∧
  (∀ (st tag base : Nat) (s : State),
    (∀ f ∈ (s.agent st).filter, f.tag = tag → f.first + 2 * lifeOf f.sys ≤ s.clock → ∃ t,
      exec (.filterTagExpiry st tag) s = .next t ∧ (∀ g ∈ (t.agent st).filter, g.tag ≠ tag) ∧ t.mem = s.mem) ∧
    (∀ r ∈ (s.agent st).regions, ∀ x, r.base = base → r.state = .closing x → x + 10250000 ≤ s.clock → ∃ t,
      exec (.regionFree st base) s = .next t ∧ (∀ g ∈ (t.agent st).regions, g.base ≠ base) ∧ t.mem = s.mem) ∧
    ((∀ r ∈ (s.agent st).regions, r.base = base → r.state = .opened) → exec (.regionFree st base) s = .next s)) ∧
  (∀ (core : Nat) (s : State), core < 640 → (s.core core).farReady = false →
    ((s.core core).lastFar + 25000000 ≤ s.clock → ∃ t, exec (.farSendRelease core) s = .next t ∧
      t.core core = { s.core core with farReady := true }) ∧
    (s.clock < (s.core core).lastFar + 25000000 → exec (.farSendRelease core) s = .next s)) ∧
  (∀ (st : Nat) (s : State), st < 16 → (s.agent st).farReady = false →
    ((s.agent st).lastFar + 25000000 ≤ s.clock → ∃ t, exec (.farSendRelease (672 + st)) s = .next t ∧
      t.agent st = { s.agent st with farReady := true }) ∧
    (s.clock < (s.agent st).lastFar + 25000000 → exec (.farSendRelease (672 + st)) s = .next s)) ∧
  (∀ (k : Nat) (s : State), k < 16 → let m := s.manager k
    m.farReady = false →
    (m.lastFar + 25000000 ≤ s.clock → ∃ t, exec (.farSendRelease (704 + k)) s = .next t ∧
      t.manager k = { m with farReady := true }) ∧
    (s.clock < m.lastFar + 25000000 → exec (.farSendRelease (704 + k)) s = .next s)) ∧
  (∀ (p sender pidx : Nat) (bytes : List (BitVec 8)) (s : State), p < 12 →
    let x := s.port p
    let reset : Port := { x with up := false, seq := 0, farReady := false }
    (∃ t, exec (.portLinkChange p true) s = .next t ∧ t.port p = { x with up := true } ∧ t.mem = s.mem) ∧
    (∀ i, i = Instr.portLinkChange p false ∨ i = .portReset p → ∃ t, exec i s = .next t ∧ t.port p = reset ∧ t.mem = s.mem ∧
      t.fabric.portKeys = s.fabric.portKeys ∧ t.fabric.sent = s.fabric.sent.filter fun y => tagAgent y.1 != 640 + p) ∧
    (x.farReady = false →
      (x.lastFar + 25000000 ≤ s.clock → ∃ t, exec (.farSendRelease (640 + p)) s = .next t ∧
        t.port p = { x with farReady := true }) ∧
      (s.clock < x.lastFar + 25000000 → exec (.farSendRelease (640 + p)) s = .next s)) ∧
    (pidx ∈ s.fabric.peerWait → ∃ t, exec (.peerEntryFetchComplete pidx) s = .next t ∧ pidx ∈ t.fabric.peerCache ∧
      pidx ∉ t.fabric.peerWait) ∧
    (∀ load y, parseIngress load = some y → y.kind ≤ 3 ∧ y.len ≤ 64 ∧
      y.op ≤ 13 ∧ y.op ≠ 10 ∧ (y.kind = 0 → y.op ∈ [0, 2, 3, 5, 11, 12, 13]) ∧
      let a := tagAgent y.tag
      a < 640 ∨ (640 ≤ a ∧ a < 652) ∨ (672 ≤ a ∧ a < 688) ∨ (704 ≤ a ∧ a < 720)) ∧
    (x.usable = false ∨ (udpPayload sender Config.moduleAddress bytes).bind parseIngress = none →
      exec (.portIngressPacket p sender bytes) s = .next s) ∧
    (∀ load y, x.usable = true → udpPayload sender Config.moduleAddress bytes = some load → parseIngress load = some y →
      let answered := fun (t : State) => ∃ c, kget t.fabric.copies s.fabric.nextCopy = some c ∧ c.pkt.kind = .ack ∧
        c.pkt.tag = y.tag ∧ c.pkt.remote = some sender
      let kept := s.fabric.portKeys.filter fun k => k.kept s.clock
      let known := kept.find? fun k => k.peer == sender && k.tag == y.tag
      (y.kind = 1 →
        (s.inboundFrom sender = true → ∃ t, exec (.portIngressPacket p sender bytes) s = .next t ∧
          kget t.fabric.acks s.fabric.nextAck = some { tag := y.tag }) ∧
        (s.inboundFrom sender = false → ∃ t, exec (.portIngressPacket p sender bytes) s = .next t ∧ t.fabric = s.fabric ∧
          t.mem = s.mem)) ∧
      (y.kind ≠ 1 → y.age = 0 → exec (.portIngressPacket p sender bytes) s = .next s) ∧
      (y.kind ≠ 1 → y.age ≠ 0 → (s.inboundFrom sender = false ∨ s.exported y.target = false) →
        ∃ t, exec (.portIngressPacket p sender bytes) s = .next t ∧ t.fabric.sent = s.fabric.sent ∧ t.mem = s.mem ∧ answered t) ∧
      (y.kind ≠ 1 → y.age ≠ 0 → s.inboundFrom sender = true → s.exported y.target = true →
        (∀ k, known = some k → k.acked = true → ∃ t, exec (.portIngressPacket p sender bytes) s = .next t ∧ answered t) ∧
        (∀ k, known = some k → k.acked = false → exec (.portIngressPacket p sender bytes) s = .next s) ∧
        (known = none → kept.length < 1048576 → x.farReady = true →
          ∃ t k, exec (.portIngressPacket p sender bytes) s = .next t ∧ k ∈ t.fabric.portKeys ∧ k.peer = sender ∧
            k.tag = y.tag ∧ k.first = s.clock ∧ (kget t.fabric.sent k.relay).isSome = true) ∧
        (known = none → 1048576 ≤ kept.length ∨ x.farReady = false →
          exec (.portIngressPacket p sender bytes) s = .next s))))

/-! ### Registers, resets and power -/

/-- Writes of registers and queues, resets and their releases, boot stages, and power samples (01 R20; 15 R316, R325; 16
R326, R327; 19 R392, R396; 20 R400, R401, R404). The model's choices: an event that is not due leaves the state as it is
(log 82); a cleared byte reads 0 (log 2); illegal ring values are reserved (log 16); what a released die or home finds (log
71); THROT and the average (log 74); the codes of images (log 31). -/
def Obligations.RegisterEvents : Prop :=
  (∀ (core : Nat) (x : BitVec 32) (s : State), let c := s.core core
    (s.occ core = 0 → c.turns = [] → x.getLsbD 2 = false → ∃ t, exec (.dualWrite core x) s = .next t ∧ (t.core core).dual = x.getLsbD 0 ∧
      t.mem = s.mem) ∧
    (s.occ core ≠ 0 ∨ c.turns ≠ [] → x.getLsbD 0 ≠ c.dual → ∃ t, exec (.dualWrite core x) s = .next t ∧ t.cores = s.cores) ∧
    (x.getLsbD 2 = true → x.getLsbD 0 = c.dual → c.dual = true → c.draining = false → ∃ t,
      exec (.swreq core x) s = .next t ∧ t.core core = { c with draining := true }) ∧
    (let q := x.toNat % 2 ^ 25
     (250000 ≤ q ∧ q ≤ 25000000 → ∃ t, exec (.quantWrite core x) s = .next t ∧ t.core core = { c with quant := q }) ∧
     (¬(250000 ≤ q ∧ q ≤ 25000000) → ∃ t, exec (.quantWrite core x) s = .next t ∧ t.cores = s.cores))) ∧
  (∀ (q : Nat) (x : BitVec 32) (y : BitVec 64) (s : State), (s.queue q).owner.isSome = true →
    let n : Word := (x.extractLsb' 0 13).setWidth 32
    let arrives := fun (i : Instr) => if 1 ≤ n.toNat ∧ n.toNat ≤ 4096 ∧
        ((s.queue q).arvcnt - (s.queue q).consumed).toNat + n.toNat ≤ 4096 then
        ∃ t, exec i s = .next t ∧ t.queue q = { s.queue q with arvcnt := (s.queue q).arvcnt + n }
      else ∃ t, exec i s = .next t ∧ t.control.queues = s.control.queues
    (∃ t, exec (.queueEnableWrite q x) s = .next t ∧ t.queue q = { s.queue q with enable := x.getLsbD 0 }) ∧
    arrives (.arvadd q x) ∧ arrives (.registerWrite (.queue q) 8 (x.setWidth 64)) ∧
    (y.toNat % 8 = 0 → ∃ t, exec (.registerWrite (.queue q) 0x20 y) s = .next t ∧
      t.queue q = { s.queue q with mirror := y })) ∧
  (∀ (q slot g fn ctx : Nat) (bytes : List (BitVec 8)) (s : State), (s.queue q).owner = some (fn, ctx) → slot < 4096 →
    g < 64 → bytes.length = 4 →
    (kget (s.queue q).granules (64 * slot + g) = none → ∃ t, exec (.queueSlotWrite q slot (4 * g) bytes) s = .next t ∧
      t.queue q = { s.queue q with granules := kset (s.queue q).granules (64 * slot + g) (BitVec.ofNat 32 (leNat bytes)) }) ∧
    ((kget (s.queue q).granules (64 * slot + g)).isSome = true → ∃ t,
      exec (.queueSlotWrite q slot (4 * g) bytes) s = .next t ∧ t.control.queues = s.control.queues)) ∧
  (∀ (f : Nat) (x : BitVec 32) (y : BitVec 64) (s : State),
    (x.getLsbD 0 = true → s.control.boot.stage = 4 → ∃ t, exec (.go f x) s = .next t ∧ t.fn f = { s.fn f with goed := true }) ∧
    (x.getLsbD 0 = false ∨ s.control.boot.stage ≠ 4 → exec (.go f x) s = .next s) ∧
    (y.toNat % 32 = 0 → ∃ t, exec (.eventRingConfigure f 0x200 y) s = .next t ∧
      t.fn f = { s.fn f with ringBase := y, cons := 0, prod := 0, ring := [] }) ∧
    (∀ k, k ≤ 10 → y.toNat % 2 ^ 32 = 2 ^ (k + 6) → (s.fn f).ringBase.toNat % 32 = 0 → ∃ t,
      exec (.eventRingConfigure f 0x208 y) s = .next t ∧
      t.fn f = { s.fn f with ringEntries := 2 ^ (k + 6), cons := 0, prod := 0, ring := [] }) ∧
    (1000 ≤ y.toNat % 2 ^ 13 → y.toNat % 2 ^ 13 ≤ 4400 → ∃ t, exec (.registerWrite .control 0x10 y) s = .next t ∧
      t.control.power = { s.control.power with plimit := y.toNat % 2 ^ 13 } ∧ t.mem = s.mem)) ∧
  (∀ (cause : ResetCause) (die : Nat) (s : State),
    let cleared := fun (t : State) (c : ResetCause) => t.mem = [] ∧ t.poison = [] ∧ t.cores = [] ∧ t.homes = [] ∧
      t.channels = [] ∧ t.fabric = Fabric.reset ∧ t.control.boot.stage = 0 ∧ t.control.boot.lastReset = c ∧
      t.control.boot.minimum = s.control.boot.minimum ∧ t.control.boot.images = s.control.boot.images ∧ t.hostMem = s.hostMem
    (∃ t, exec (.moduleReset cause) s = .next t ∧ cleared t cause) ∧ (∃ t, exec (.thermalTrip die) s = .next t ∧ cleared t .thermal)) ∧
  (∀ (die : Nat) (s : State), die < 8 →
    (s.mem.wf = true → ∃ t, exec (.computeDieReset die) s = .next t ∧
      (∀ n, n / 80 = die → (t.core n).held = true ∧ (t.core n).r0 = Residency.empty ∧ (t.core n).r1 = Residency.empty ∧
        (t.core n).ops = [] ∧ (t.core n).farReady = false) ∧ (∀ m ∈ t.met, m.core / 80 ≠ die) ∧
      ∀ a, readByte t.mem a = if dieOf a = die ∧ kindOf a = 1 then Config.clearedByte else readByte s.mem a) ∧
    (die ∈ s.control.boot.offlineDies ∨ s.control.boot.stage < 3 → exec (.computeDieResetRelease die) s = .next s) ∧
    (die ∉ s.control.boot.offlineDies → 3 ≤ s.control.boot.stage → (s.core (80 * die)).held = true → ∃ t,
      exec (.computeDieResetRelease die) s = .next t ∧ t.mem = s.mem ∧
      ∀ n, n / 80 = die → t.core n = { s.core n with held := false, resetAt := s.clock })) ∧
  (∀ (st : Nat) (s : State), st < 16 →
    (∃ t, exec (.baseDieReset st) s = .next t ∧ t.mem = s.mem ∧
      t.agent st = { Home.reset with
        down := true, lastFar := (s.agent st).lastFar, farReady := false, linkSeq := (s.agent st).linkSeq } ∧
      ∀ y ∈ t.fabric.sent, tagAgent y.1 = 672 + st → tagSlot y.1 = linkSlot) ∧
    ((s.agent st).down = true → st ∉ s.control.boot.offlineStacks → 2 ≤ s.control.boot.stage → ∃ t, exec (.baseDieResetRelease st) s = .next t ∧
      t.agent st = { s.agent st with down := false, discardUntil := some (s.clock + 10250000) })) ∧
  (∀ (xs ys : List Nat) (s : State), let b := s.control.boot
    (b.recov = true → exec (.bootStageAdvance xs ys) s = .next s) ∧
    (b.recov = false →
      (b.stage = 0 →
        let fails := fun (k : Nat) => ∀ bs, kget b.images k = some bs → imageFault b.minimum bs ≠ none
        let boots := fun (c : Boot) => ∃ t, exec (.bootStageAdvance xs ys) s = .next t ∧ t.control.boot = c
        let runs := fun (k : Nat) => ∀ bs, kget b.images k = some bs → imageFault b.minimum bs = none → boots
          { b with stage := 1, slot := k, svn := BitVec.ofNat 16 (leAt bs 4 2), running := bs }
        runs 0 ∧ (fails 0 → runs 1) ∧ (fails 0 → fails 1 → boots { b with recov := true })) ∧
      (b.stage = 1 → ∃ t, exec (.bootStageAdvance xs ys) s = .next t ∧ t.control.boot.stage = 2 ∧
        ∀ k, k < 16 → (k ∈ t.control.boot.offlineStacks ↔ k ∈ xs) ∧ ((t.agent k).down = true ↔ k ∈ xs)) ∧
      (b.stage = 2 → ∃ t, exec (.bootStageAdvance xs ys) s = .next t ∧ t.control.boot.stage = 3 ∧
        ∀ k, k < 8 → (k ∈ t.control.boot.offlineDies ↔ k ∈ ys) ∧ (k ∈ ys → ∀ n, n / 80 = k → t.core n = s.core n) ∧
          (k ∉ ys → ∀ n, n / 80 = k → t.core n = { s.core n with held := false, resetAt := s.clock })) ∧
      (b.stage = 3 → ∃ t, exec (.bootStageAdvance xs ys) s = .next t ∧ t.control.boot.stage = 4 ∧
        t.control.boot.minimum = if b.minimum.toNat < b.svn.toNat then b.svn else b.minimum))) ∧
  (∀ (watts hot : Nat) (s : State), 115 ≤ hot → ∃ t, exec (.powerSample watts hot) s = .next t ∧ t.cores = [] ∧ t.mem = [] ∧
    t.control.boot.stage = 0 ∧ t.control.boot.lastReset = .thermal) ∧
  (∀ (watts hot : Nat) (s : State), hot < 115 → ∃ t, exec (.powerSample watts hot) s = .next t ∧ t.mem = s.mem ∧
    let p := t.control.power
    let xs := (watts :: s.control.power.samples).take 10
    p.samples = xs ∧ p.pnow = min 8191 (xs.sum / xs.length) ∧ p.tmax = min 255 hot ∧ p.plimit = s.control.power.plimit ∧
      (p.throt = true ↔ p.plimit < p.pnow ∨ 105 < hot))

/-! ### Commands -/

/-- A management command that may run has its effect and is answered with status 0, one that is refused with status 1; an
SPDM request is answered (15 R313, R314; 16 R326, R332, R333; 17 R344, R351, R353; 19 R389, R393 to R395, R398; 20 R403).
The model's choices: commands whose layout 19 R393 does not give come with their fields named (logs 38, 90), the layout of a
RESYNC summary (log 104), SPDM answers outside the listed ones (log 80), what its signatures cover (log 13), which contexts
may be destroyed (log 30), maps over tables (log 78), what only firmware, function 17, may do (log 39), the
causes of a refused image (log 31), and what else is refused: a FAULT_ABORT that names no fault, an UNMAP of an unmapped
page, a CREATE_GRAPH of an existing id, a command on a context that its function does not own (log 114). -/
def Obligations.Commands : Prop :=
  (∀ (s : State) (p : PendingCmd), s.control.cmd = [p] →
    let answer := fun (t : State) (st x : Nat) => t.control.cmd = [] ∧ t.control.responses =
      s.control.responses ++ [{ fn := p.fn, address := p.resp, status := st, second := x }]
    let done := fun (i : Instr) (ok : State → Prop) => ∃ t, exec i s = .next t ∧ answer t 0 0 ∧ ok t
    let refused := fun (i : Instr) => ∃ t, exec i s = .next t ∧ answer t 1 0 ∧ t.mem = s.mem ∧ t.cores = s.cores
    let invalidates := fun (t : State) (ctx va size : Nat) => ((s.context ctx).map (·.presence)).getD [] ≠ [] →
      t.control.cmd = [] ∧ t.control.responses = s.control.responses ∧
      ∃ v, kget t.control.invs s.control.nextInv = some v ∧ v.ctx = ctx ∧ v.va = va ∧ v.size = size
    (s.mayRun p = false → (∀ c, p.cmd = .createContext c → refused .createContext) ∧
      (∀ q o c, p.cmd = .assignQueue q o c → refused .assignQueue)) ∧
    (s.mayRun p = true →
      (∀ c, p.cmd = .createContext c → (s.mayCreate p.fn c = false → refused .createContext) ∧
        (s.mayCreate p.fn c = true → done .createContext fun t => t.mem = s.mem ∧ t.control.mode = c.mode ∧
          ∃ x, kget t.control.contexts c.ctx = some x ∧ x.fn = c.fn ∧ x.device = c.device ∧ x.root = c.root ∧
            x.privileged = c.privileged ∧ x.presence = deviceDies c.mode c.device)) ∧
      (∀ ctx, p.cmd = .destroyContext ctx → (s.ownsContext p.fn ctx = false ∨ s.contextBusy ctx = true → refused .destroyContext) ∧
        (s.ownsContext p.fn ctx = true → s.contextBusy ctx = false → done .destroyContext fun t =>
          kget t.control.contexts ctx = none ∧ ∀ q, (t.queue q).owner.map (·.2) ≠ some ctx)) ∧
      (∀ ctx va level e c s1 a, p.cmd = .map ctx va level e → s.ownsContext p.fn ctx = true → 1 ≤ level → level ≤ 3 →
        va < 2 ^ 56 → va % levelSize level = 0 → s.context ctx = some c → s.leafAllowed c level e = true →
        s.entryPlace ctx va level = some (s1, a) →
        let old := BitVec.ofNat 64 (readNat s1.mem a 8)
        (entryValid old = false ∨ entryLeaf old = true) →
        (losesRights old e = false → done .map fun t => readNat t.mem a 8 = e.toNat) ∧
        (losesRights old e = true → ∃ t, exec .map s = .next t ∧ readNat t.mem a 8 = e.toNat ∧
          invalidates t ctx va (levelSize level))) ∧
      (∀ ctx va, p.cmd = .unmap ctx va →
        (s.ownsContext p.fn ctx = false ∨ s.findLeaf ctx va = none → refused .unmap) ∧
        (∀ level a, s.ownsContext p.fn ctx = true → s.findLeaf ctx va = some (level, a) → ∃ t, exec .unmap s = .next t ∧
          readNat t.mem a 8 = 0 ∧ invalidates t ctx (va / levelSize level * levelSize level) (levelSize level))) ∧
      (∀ ctx va n perm pool frames, p.cmd = .demand ctx va n perm pool frames →
        (s.demandOk p.fn ctx va n perm pool frames = false → refused .registerOnDemandRange) ∧
        (s.demandOk p.fn ctx va n perm pool frames = true → done .registerOnDemandRange fun t => t.mem = s.mem ∧
          { ctx := ctx, va := va, pages := n, perm := perm, pool := pool, frames := frames, taken := 0 } ∈ t.control.demands)) ∧
      (∀ ctx va, p.cmd = .faultRetry ctx va → s.ownsContext p.fn ctx = true → s.faultsOn ctx va ≠ [] →
        (∀ x ∈ s.faultsOn ctx va, ∃ l, s.walkFor x.2.ctx x.2.va x.2.cls = .ok l) →
        done .faultRetry fun t => t.mem = s.mem ∧ ∀ x ∈ s.faultsOn ctx va, kget t.control.faults x.1 = none) ∧
      (∀ ctx va, p.cmd = .faultAbort ctx va → (s.faultsOn ctx va = [] → refused .faultAbort) ∧
        (s.ownsContext p.fn ctx = true → s.faultsOn ctx va ≠ [] → done .faultAbort fun t =>
          ∀ x ∈ s.faultsOn ctx va, kget t.control.faults x.1 = none)) ∧
      (∀ ctx id image, p.cmd = .createGraph ctx id image →
        (s.ownsContext p.fn ctx = false ∨ (s.graph ctx id).isSome = true ∨ s.imageOk ctx image = false → refused .createGraph) ∧
        (s.ownsContext p.fn ctx = true → s.graph ctx id = none → s.imageOk ctx image = true → done .createGraph fun t =>
          t.graph ctx id = some { ctx := ctx, id := id, versions := [(1, imageNodes image)], latest := 1 })) ∧
      (∀ ctx id image g, p.cmd = .editGraph ctx id image → s.ownsContext p.fn ctx = true → s.graph ctx id = some g →
        s.imageOk ctx image = true → done .editGraph fun t => ∃ h, t.graph ctx id = some h ∧ h.latest = g.latest + 1 ∧
          kget h.versions (g.latest + 1) = some (imageNodes image)) ∧
      (∀ pidx bytes, p.cmd = .writePeer pidx bytes → (readPeer bytes = none → refused .writePeerEntry) ∧
        (∀ e, readPeer bytes = some e → pidx < 2 ^ 20 → s.featureOn p.fn 2 = true → done .writePeerEntry fun t =>
          readAll t.mem (peerRow pidx) = bytes ∧ (∀ a, a ∉ peerRow pidx → readByte t.mem a = readByte s.mem a) ∧
          pidx ∈ t.fabric.peerRows ∧ pidx ∉ t.fabric.peerCache)) ∧
      (∀ q owner ctx c, p.cmd = .assignQueue q owner ctx → s.context ctx = some c → p.fn = 0 ∨ p.fn = 17 → q < 64 →
        owner ≤ 16 → c.fn = owner → c.device = q / queuesPerDevice c.mode → done .assignQueue fun t =>
          t.queue q = { Queue.reset with owner := some (owner, ctx) } ∧ ∀ k, k ≠ q → t.queue k = s.queue k) ∧
      (∀ buffer, p.cmd = .resync buffer → done .resync fun t => t.mem = s.mem ∧
        t.control.resyncs = s.control.resyncs ++ [s.summary p.fn buffer] ∧
        let bs := (s.summary p.fn buffer).bytes
        ∀ j, j < bs.length → buffer + j ∉ span p.resp 64 → readByte t.hostMem (buffer + j) = bs.getD j 0) ∧
      (∀ q slot mode, p.cmd = .cancelLaunch q slot mode →
        let mine := fun ctx => p.fn == 0 || s.ownsContext p.fn ctx
        let found := s.control.launches.filter fun l => l.2.queue == q && l.2.slot == slot && mine l.2.ctx
        (∀ i ∈ s.control.instances, (i.2.queue == q && i.2.slot == slot && mine i.2.ctx) = false) →
        (1 < mode ∨ found = [] → refused .cancelLaunch) ∧
        (mode ≤ 1 → found ≠ [] → (∀ l ∈ s.control.launches, l.2.node = none) → done .cancelLaunch fun t =>
          ∀ l ∈ found, ∀ key, ∀ w ∈ t.list key, w.launch ≠ l.1)) ∧
      (∀ address length slot, p.cmd = .firmwareDownload address length slot →
        let bytes := readAll s.hostMem (span address length)
        (p.fn ≠ 0 ∨ 1 < slot → refused .firmwareDownload) ∧
        (p.fn = 0 → slot ≤ 1 → (2 ^ 26 < length → ∃ t, exec .firmwareDownload s = .next t ∧ answer t 1 4) ∧
          (length ≤ 2 ^ 26 →
            (∀ cause, imageFault s.control.boot.minimum bytes = some cause →
              ∃ t, exec .firmwareDownload s = .next t ∧ answer t 1 cause) ∧
            (imageFault s.control.boot.minimum bytes = none → s.control.boot.recov = false → done .firmwareDownload fun t =>
              kget t.control.boot.images slot = some bytes)))))) ∧
  (∀ (s : State) (q : SpdmRequest), s.control.spdm.request = some q →
    let answers := fun (i : Instr) (r : SpdmResponse) => exec i s = .next
      { s with control := { s.control with spdm := { s.control.spdm with request := none, response := some r } } }
    (q = .getVersion → answers .getVersion (.version 1 3)) ∧
    (q = .getCapabilities → answers .getCapabilities (.capabilities false false)) ∧
    (∀ o, q = .negotiateAlgorithms o → ∃ t, exec .negotiateAlgorithms s = .next t ∧ t.control.spdm.request = none ∧
      t.control.spdm.response = some (.algorithms o.ecdsaP256 o.sha256) ∧
      t.control.spdm.negotiated = (o.ecdsaP256 && o.sha256)) ∧
    (q = .getDigests → answers .getDigests (.digests (sha256 Config.certificateChain))) ∧
    (∀ slot off n, q = .getCertificate slot off n → answers .getCertificate
      (if slot = 0 then .certificate ((Config.certificateChain.drop off).take n) else .unsupportedRequest)) ∧
    (∀ slot nonce, q = .challenge slot nonce → answers .challenge
      (if slot = 0 then .challengeAuth (sha256 Config.certificateChain)
        (identitySign (Config.transcript nonce (sha256 Config.certificateChain))) else .unsupportedRequest)) ∧
    (∀ i nonce, q = .getMeasurements i nonce → 1 ≤ i → i ≤ 4 → ∃ sig, answers .getMeasurements (.measurements [(i, s.measurement i)] sig)) ∧
    (∀ i nonce, q = .getMeasurements i nonce → (i = 0 ∨ 4 < i) → i ≠ 255 → answers .getMeasurements .unsupportedRequest) ∧
    (∀ c, q = .other c → answers .unsupportedRequest .unsupportedRequest))

/-! ### The arithmetic that the instructions share -/

/-- Rounding, and the operations that round once: each gives the value of the format that the mode chooses for its exact
result, with overflow, underflow and inexact, and the sign that an exact zero takes (04 R83, R84; 07 R180, R183); so for the
reciprocal and the roots, their special operands, the sign changes, which keep every bit but the sign, the roundings to an
integer, which keep the sign and only FRINT calls inexact, and the class mask (07 R182, R184, R185). -/
def Obligations.Rounding : Prop :=
  ∀ (f : Fmt) (r : Rnd),
    (∀ (n : Bool) (m : Nat) (e : Int), Rounds f r n (against (m * 2 ^ e)) (roundF f r n m e false)) ∧
    (∀ a b : FVal, a.isFin = true → b.isFin = true →
      Rounds f r (sumSign r a.neg b.neg (a.rat + b.rat)) (against (a.rat + b.rat)) (addF f r a b) ∧
      Rounds f r (a.neg != b.neg) (against (a.rat * b.rat)) (mulF f r a b) ∧
      (b.rat ≠ 0 → Rounds f r (a.neg != b.neg) (against (a.rat / b.rat)) (divF f r a b)) ∧
      (∀ d : FVal, d.isFin = true →
        Rounds f r (sumSign r d.neg (a.neg != b.neg) (d.rat + a.rat * b.rat)) (against (d.rat + a.rat * b.rat)) (fmaF f r d a b)) ∧
      (a.neg = false →
        Rounds f r false (fun q => compare (q * q) a.rat) (sqrtF f r a) ∧
        (a.rat ≠ 0 → Rounds f .rne false (fun q => compare (q * q * a.rat) 1) (rsqF f a)))) ∧
    (∀ x : DWord,
      let a := decodeF f x
      let bad : FRes := (nanBits f, excInv)
      let z := |a.rat|
      let part := z - ⌊z⌋
      let up : Prop := match r with
        | .rne => 1 / 2 < part ∨ (part = 1 / 2 ∧ ⌊z⌋ % 2 = 1)
        | .rz => False
        | .ru => 0 < part ∧ a.neg = false
        | .rd => 0 < part ∧ a.neg = true
        | .rna => 1 / 2 ≤ part
      let n := x.toNat.testBit (f.width - 1)
      let ex := x.toNat / 2 ^ f.frac % 2 ^ f.ebits
      let fr := x.toNat % 2 ^ f.frac
      (a.isNan = true → ∀ y ∈ [sqrtF f r a, rcpF f r a, rsqF f a, signF f (!·) a, signF f (fun _ => false) a,
        integralF f r false a, integralF f r true a], y = (nanBits f, if a.snan then excInv else 0)) ∧
      (∀ k : Bool, a = .inf k →
        sqrtF f r a = (if k then bad else (infBits f false, 0)) ∧ rcpF f r a = (zeroBits f k, 0) ∧
        rsqF f a = (if k then bad else (zeroBits f false, 0)) ∧ ∀ quiet, integralF f r quiet a = (infBits f k, 0)) ∧
      (a.isNan = false → ∀ set : Bool → Bool, (signF f set a).2 = 0 ∧
        (signF f set a).1.toNat = x.toNat % 2 ^ (f.width - 1) + if set n then 2 ^ (f.width - 1) else 0) ∧
      (a.isFin = true →
        (a.rat ≠ 0 → Rounds f r a.neg (against (1 / a.rat)) (rcpF f r a)) ∧
        (a.rat = 0 → rcpF f r a = (infBits f a.neg, excDz) ∧ rsqF f a = (infBits f a.neg, excDz) ∧
          sqrtF f r a = (zeroBits f a.neg, 0)) ∧
        (a.rat < 0 → sqrtF f r a = bad ∧ rsqF f a = bad) ∧
        ∀ quiet, let y := integralF f r quiet a
          ∃ k : Int, (up → k = ⌊z⌋ + 1) ∧ (¬up → k = ⌊z⌋) ∧ (decodeF f y.1).isFin = true ∧ (decodeF f y.1).neg = a.neg ∧
            |(decodeF f y.1).rat| = k ∧ y.2 = if quiet = true ∨ z = k then 0 else excInx) ∧
      classF f a = 2 ^ (if ex = 2 ^ f.ebits - 1 then
          (if fr = 0 then (if n then 0 else 7) else if fr < 2 ^ (f.frac - 1) then 8 else 9)
        else if ex = 0 then (if fr = 0 then (if n then 3 else 4) else if n then 2 else 5)
        else if n then 1 else 6))

/-- FEXP2, FLOG2, FSINP and FCOSP in f16, bf16 and f32: the special operands, the operands whose value is exact, and inexact
raised on every other (07 R183, R184). There the result is the RNE rounding of a number within 2^-380 of the exact value,
relative for 2^x and absolute for the logarithm, the sine and the cosine, from which rounding it once differs only where a
boundary of the format lies so near. -/
def Obligations.Transcendentals : Prop :=
  ∀ (f : Fmt) (x : DWord), f ≠ .f64 →
    let a := decodeF f x
    let q := a.rat
    let bad : FRes := (nanBits f, excInv)
    let inexact := fun y : FRes => y.2 &&& excInx ≠ 0
    let log := Real.logb 2 q
    let sin := Real.sin (Real.pi * q)
    let cos := Real.cos (Real.pi * q)
    let near := fun (v : ℚ) (z : ℝ) => |(v : ℝ) - z| ≤ 1 / 2 ^ 380
    (a.isNan = true → ∀ y ∈ [exp2F f a, log2F f a, sinpF f a, cospF f a], y = (nanBits f, if a.snan then excInv else 0)) ∧
    (∀ k : Bool, a = .inf k →
      exp2F f a = (if k then zeroBits f false else infBits f false, 0) ∧
      log2F f a = (if k then bad else (infBits f false, 0)) ∧ sinpF f a = bad ∧ cospF f a = bad) ∧
    (a.isFin = true →
      (q = 0 → log2F f a = (infBits f true, excDz)) ∧ (q < 0 → log2F f a = bad) ∧
      (∀ k : Int, q = k → Rounds f .rne false (against (2 ^ k)) (exp2F f a) ∧ sinpF f a = (zeroBits f a.neg, 0) ∧
        Rounds f .rne (decide (k % 2 = 1)) (against 1) (cospF f a)) ∧
      (∀ k : Int, q = 2 ^ k → Rounds f .rne (decide (k < 0)) (against k) (log2F f a)) ∧
      (∀ k : Int, q = k + 1 / 2 → Rounds f .rne (decide (k % 2 = 1)) (against 1) (sinpF f a) ∧
        cospF f a = (zeroBits f false, 0)) ∧
      ((∀ k : Int, q ≠ k) →
        (1024 ≤ q → exp2F f a = (infBits f false, excOvf ||| excInx)) ∧
        (q ≤ -2000 → exp2F f a = (zeroBits f false, excUnf ||| excInx)) ∧
        (-2000 < q → q < 1024 → inexact (exp2F f a) ∧ ∃ v : ℚ, Rounds f .rne false (against v) (exp2F f a) ∧
          |(v : ℝ) - (2 : ℝ) ^ (q : ℝ)| ≤ (2 : ℝ) ^ (q : ℝ) / 2 ^ 380)) ∧
      (0 < q → (∀ k : Int, q ≠ 2 ^ k) → inexact (log2F f a) ∧ ∃ v : ℚ, Rounds f .rne (decide (q < 1)) (against v) (log2F f a) ∧
        near v |log|) ∧
      ((∀ k : Int, 2 * q ≠ k) →
        (inexact (sinpF f a) ∧ ∃ (v : ℚ) (n : Bool), (n = true ↔ sin < 0) ∧
          Rounds f .rne n (against v) (sinpF f a) ∧ near v |sin|) ∧
        inexact (cospF f a) ∧ ∃ (v : ℚ) (n : Bool), (n = true ↔ cos < 0) ∧
          Rounds f .rne n (against v) (cospF f a) ∧ near v |cos|))

/-- Special operands: NaN, infinity and zero in the sums, products and quotients, minimum and maximum, the extreme of some
lanes, and the trees of sums over lanes (04 R81, R82, R83, R97; 07 R175, R180, R181). -/
def Obligations.SpecialOperands : Prop :=
  (nanBits .f16 = 0x7E00 ∧ nanBits .bf16 = 0x7FC0 ∧ nanBits .f32 = 0x7FC00000 ∧ nanBits .f64 = 0x7FF8000000000000) ∧
  (∀ (f : Fmt) (n : Bool), decodeF f (infBits f n) = .inf n ∧ decodeF f (nanBits f) = .nan false ∧
    decodeF f (zeroBits f n) = .fin n 0 f.qmin) ∧
  (∀ (f : Fmt) (r : Rnd),
    let nan := fun (xs : List FVal) (y : FRes) =>
      xs.any FVal.isNan = true → y = (nanBits f, if xs.any FVal.snan then excInv else 0)
    let bad : FRes := (nanBits f, excInv)
    (∀ a b : FVal, nan [a, b] (addF f r a b) ∧ nan [a, b] (mulF f r a b) ∧ nan [a, b] (divF f r a b)) ∧
    (∀ d a b : FVal, ¬(a = .inf a.neg ∧ b.isFin = true ∧ b.rat = 0) → ¬(b = .inf b.neg ∧ a.isFin = true ∧ a.rat = 0) →
      nan [a, b, d] (fmaF f r d a b)) ∧
    (∀ n k : Bool, addF f r (.inf n) (.inf k) = (if n = k then (infBits f n, 0) else bad) ∧
      mulF f r (.inf n) (.inf k) = (infBits f (n != k), 0) ∧ divF f r (.inf n) (.inf k) = bad) ∧
    (∀ (n : Bool) (x : FVal), x.isFin = true →
      addF f r (.inf n) x = (infBits f n, 0) ∧ addF f r x (.inf n) = (infBits f n, 0) ∧
      mulF f r (.inf n) x = (if x.rat = 0 then bad else (infBits f (n != x.neg), 0)) ∧
      mulF f r x (.inf n) = (if x.rat = 0 then bad else (infBits f (x.neg != n), 0)) ∧
      divF f r (.inf n) x = (infBits f (n != x.neg), 0) ∧ divF f r x (.inf n) = (zeroBits f (x.neg != n), 0) ∧
      (∀ z : FVal, z.isFin = true → z.rat = 0 →
        divF f r x z = (if x.rat = 0 then bad else (infBits f (x.neg != z.neg), excDz))) ∧
      (∀ d : FVal, x.rat = 0 → fmaF f r d (.inf n) x = bad ∧ fmaF f r d x (.inf n) = bad) ∧
      (∀ (y : FVal) (k : Bool), y.isFin = true → fmaF f r (.inf k) x y = (infBits f k, 0))) ∧
    (∀ (n k : Bool) (x d : FVal), (x.isFin = true ∧ x.rat ≠ 0) ∨ x = .inf x.neg → d.isFin = true →
      fmaF f r d (.inf n) x = (infBits f (n != x.neg), 0) ∧ fmaF f r d x (.inf n) = (infBits f (x.neg != n), 0) ∧
      fmaF f r (.inf k) (.inf n) x = (if k = (n != x.neg) then (infBits f k, 0) else bad) ∧
      fmaF f r (.inf k) x (.inf n) = (if k = (x.neg != n) then (infBits f k, 0) else bad))) ∧
  (∀ (f : Fmt) (mx : Bool) (x z : DWord),
    let a := decodeF f x
    let b := decodeF f z
    let own := fun u : DWord => BitVec.ofNat 64 (u.toNat % 2 ^ f.width)
    let exc : Exc := if a.snan || b.snan then excInv else 0
    let y := minMaxF f mx a b
    (a.isNan = true → b.isNan = true → y = (nanBits f, exc)) ∧
    (a.isNan = true → b.isNan = false → y = (own z, exc)) ∧ (a.isNan = false → b.isNan = true → y = (own x, exc)) ∧
    (a.isNan = false → b.isNan = false → y.2 = 0 ∧ (y.1 = own x ∨ y.1 = own z) ∧
      (a.lt b = true → y.1 = if mx then own z else own x) ∧ (b.lt a = true → y.1 = if mx then own x else own z) ∧
      (a.isFin = true → b.isFin = true → a.rat = 0 → b.rat = 0 → a.neg ≠ b.neg → y.1 = zeroBits f (!mx)))) ∧
  (∀ a b : FVal, a.isFin = true → b.isFin = true → a.lt b = decide (a.rat < b.rat)) ∧
  (∀ (n : Bool) (x : FVal), x.isFin = true → (FVal.inf n).lt x = n ∧ x.lt (.inf n) = !n) ∧
  (∀ (f : Fmt) (mx : Bool) (x : Opnd) (ls : List Nat),
    let v := fun l => decodeF f (x.lane l)
    let y := extremeF f mx x ls
    (ls = [] → y = infBits f mx) ∧ (ls ≠ [] → (∀ l ∈ ls, (v l).isNan = true) → y = nanBits f) ∧
    ((∃ l ∈ ls, (v l).isNan = false) → ∃ l ∈ ls, (v l).isNan = false ∧ y = BitVec.ofNat 64 ((x.lane l).toNat % 2 ^ f.width) ∧
      ∀ k ∈ ls, (v k).isNan = false → (if mx then (v l).lt (v k) else (v k).lt (v l)) = false ∧
        ((v l).isFin = true → (v k).isFin = true → (v l).rat = 0 → (v k).rat = 0 → (v k).neg = (!mx) → (v l).neg = (!mx)))) ∧
  (∀ (f : Fmt) (r : Rnd) (leaf : Nat → DWord),
    let node := treeNode f r leaf
    let join := fun a b : FRes =>
      ((addF f r (decodeF f a.1) (decodeF f b.1)).1, a.2 ||| b.2 ||| (addF f r (decodeF f a.1) (decodeF f b.1)).2)
    (∀ i, node 0 i = if (decodeF f (leaf i)).isNan then (nanBits f, if (decodeF f (leaf i)).snan then excInv else 0)
      else (leaf i, 0)) ∧
    (∀ k i, node (k + 1) i = join (node k (2 * i)) (node k (2 * i + 1))) ∧
    (∀ k, k ≤ 6 → prefixNode f r leaf (2 ^ k - 1) = node k 0) ∧
    (∀ k h, 0 < h → (2 * h + 1) * 2 ^ k ≤ 64 →
      prefixNode f r leaf ((2 * h + 1) * 2 ^ k - 1) = join (prefixNode f r leaf (2 * h * 2 ^ k - 1)) (node k (2 * h))))

/-- Conversions of one lane, by the kinds of source and destination (07 R187; 04 R85): integers are wrapped or clamped;
an exact value is rounded to a float format, and SAT clamps what is infinite; below the smallest nonzero magnitude of f16
and bf16, and of P, and under SR, the draw decides (04 R86, R87); a float becomes the integer that the rounding chooses,
clamped; b32 copies bits.  The collected value of a wide cell (04 R95), and the draw (07 R192).  That SAT clamps an
infinity into the same or a wider format too is log 85's reading. -/
def Obligations.ConversionLanes : Prop :=
  let bits := fun t : Nat => 8 * 2 ^ (t % 4)
  let lo := fun t : Nat => if t < 4 then -(2 ^ (bits t - 1) : Int) else 0
  let hi := fun t : Nat => lo t + 2 ^ bits t - 1
  let int := fun (t : Nat) (x : Nat) => lo t + ((x : Int) - lo t) % 2 ^ bits t
  let lay := fun (t : Nat) (i : Int) => if bits t = 64 then BitVec.ofInt 64 i else (BitVec.ofInt 32 i).setWidth 64
  let byte := fun i : Int => (BitVec.ofInt 8 i).setWidth 64
  let clamp := fun (a b i : Int) => max a (min i b)
  let nearest := fun (r : CvtRnd) (u : Nat) (a : FVal) =>
    let x := |a.rat|
    let part := x - ⌊x⌋
    let up : Prop := match r with
      | .mode .rne => 1 / 2 < part ∨ (part = 1 / 2 ∧ ⌊x⌋ % 2 = 1)
      | .mode .rz => False
      | .mode .ru => 0 < part ∧ a.neg = false
      | .mode .rd => 0 < part ∧ a.neg = true
      | .mode .rna => 1 / 2 ≤ part
      | .sr => (u : ℚ) < part * 2 ^ 32
    fun i : Int => ∃ k : Int, (up → k = ⌊x⌋ + 1) ∧ (¬up → k = ⌊x⌋) ∧ i = if a.neg then -k else k
  (∀ (f : Fmt) (n : Bool), (decodeF f (maxBits f n)).rat =
    (if n then -1 else 1) * (2 ^ (f.bias + 1) * (1 - 1 / 2 ^ (f.frac + 1)))) ∧
  (∀ (s d : Nat) (r : CvtRnd) (sat : Bool) (u : Nat) (x : DWord), s < 8 →
    (d < 8 → cvtLane s d r sat u x =
      (lay d (if sat then clamp (lo d) (hi d) (int s x.toNat) else int d (int s x.toNat % 2 ^ 64).toNat), 0)) ∧
    cvtLane s 13 r sat u x = (byte (clamp (-128) 127 (int s x.toNat)), 0)) ∧
  (∀ (s d : Nat) (f : Fmt) (a : FVal) (r : CvtRnd) (u : Nat) (x : DWord), fmtOfType d = some f →
    (s < 8 ∧ a = intF (int s x.toNat)) ∨ (∃ g, fmtOfType s = some g ∧ a = decodeF g x) →
    let y := cvtLane s d r false u x
    let m : ℚ := 2 ^ f.qmin
    let top : ℚ := 2 ^ (f.bias + 1)
    let most := top * (1 - 1 / 2 ^ (f.frac + 1))
    let small := (f = .f16 ∨ f = .bf16) ∧ 0 < |a.rat| ∧ |a.rat| < m
    let is := fun (z : FRes) (v : ℚ) => (decodeF f z.1).isFin = true ∧ (decodeF f z.1).neg = a.neg ∧ |(decodeF f z.1).rat| = v
    let value := fun v : ℚ => ∃ z : DWord, (decodeF f z).isFin = true ∧ |(decodeF f z).rat| = v
    (cvtLane s d r true u x = ((match decodeF f y.1 with | .inf n => maxBits f n | _ => y.1), y.2)) ∧
    (∀ b, a = .nan b → y = (nanBits f, if b then excInv else 0)) ∧ (∀ n, a = .inf n → y = (infBits f n, 0)) ∧
    (a.isFin = true →
      (small → y = (zeroBits f a.neg + (if (u : ℚ) < |a.rat| / m * 2 ^ 32 then 1 else 0), excUnf ||| excInx)) ∧
      (¬small → ∀ k, r = .mode k → Rounds f k a.neg (against a.rat) y) ∧
      (¬small → r = .sr →
        (value |a.rat| → is y |a.rat| ∧ y.2 = 0) ∧
        (∀ v w, value v → value w → v < |a.rat| → |a.rat| < w → (∀ q, value q → q ≤ v ∨ w ≤ q) →
          is y (if (u : ℚ) < (|a.rat| - v) / (w - v) * 2 ^ 32 then w else v) ∧ y.2 &&& (excInx ||| excOvf ||| excInv) = excInx) ∧
        (most < |a.rat| → if (u : ℚ) < (|a.rat| - most) / (top - most) * 2 ^ 32 ∨ top ≤ |a.rat|
          then y = (infBits f a.neg, excOvf ||| excInx) else is y most ∧ y.2 = excInx)))) ∧
  (∀ (s d : Nat) (g : Fmt) (r : CvtRnd) (sat : Bool) (u : Nat) (x : DWord), fmtOfType s = some g → d < 8 ∨ d = 13 →
    let a := decodeF g x
    let y := cvtLane s d r sat u x
    let l := if d = 13 then -128 else lo d
    let h := if d = 13 then 127 else hi d
    let put := fun i : Int => if d = 13 then byte i else lay d i
    (a.isNan = true → y = (0, excInv)) ∧ (∀ n, a = .inf n → y = (put (if n then l else h), excInv)) ∧
    (a.isFin = true →
      (d = 13 → 0 < |a.rat| → |a.rat| < 1 →
        y = (put (if (u : ℚ) < |a.rat| * 2 ^ 32 then (if a.neg then -1 else 1) else 0), excUnf ||| excInx)) ∧
      ((d = 13 → |a.rat| = 0 ∨ 1 ≤ |a.rat|) → ∃ i, nearest r u a i ∧
        y = (put (clamp l h i), if i < l ∨ h < i then excInv else if (i : ℚ) = a.rat then 0 else excInx)))) ∧
  (∀ (s d : Nat) (r : CvtRnd) (sat : Bool) (u : Nat) (x : DWord), s ≤ 12 → d ≤ 13 → s = 12 ∨ d = 12 →
    let p := if s = 8 ∨ s = 9 then x.toNat % 2 ^ 16 else if s = 3 ∨ s = 7 ∨ s = 11 then x.toNat else x.toNat % 2 ^ 32
    cvtLane s d r sat u x = ((if d < 8 then lay d (int d p) else BitVec.ofNat 64
      (if d = 8 ∨ d = 9 then p % 2 ^ 16 else if d = 11 then p else if d = 13 then p % 2 ^ 8 else p % 2 ^ 32)), 0)) ∧
  (∀ (cell : Nat) (e : Int),
    let n : Int := (cell % 2 ^ 124 : Nat)
    let v := if n < 2 ^ 123 then n else n - 2 ^ 124
    let y := collect cell e
    if e < -160 ∨ 0 < e then y = (0x7FC00000, excInv)
    else if cell.testBit 127 = true ∨ (cell.testBit 126 = true ∧ cell.testBit 125 = true) then y = (0x7FC00000, 0)
    else if cell.testBit 126 = true then y = (0x7F800000, 0) else if cell.testBit 125 = true then y = (0xFF800000, 0)
    else if cell.testBit 124 = true then y = (0x7FC00001, 0)
    else Rounds .f32 .rne (decide (v < 0)) (against (v * 2 ^ e)) y) ∧
  (∀ (t : List Byte) (n d : Nat),
    let word := fun i => ((List.range 4).map fun b => (t.getD (260 * d + 4 * i + b) 0).toNat * 256 ^ b).sum
    let odd := fun p : Nat → Bool => decide (((List.range 32).filter p).length % 2 = 1)
    let x := fun j => odd fun i => (n.testBit i != n.testBit (i + 1)) && (word i).testBit j
    draw t n d < 2 ^ 32 ∧ ∀ k, k < 32 → (draw t n d).testBit k =
      ((word 64).testBit k != odd fun j => decide (k ≤ j) && (word (32 + (31 - k))).testBit j && x j))

/-- The new value of each near-memory operation (09 R226, R227), a wide cell after an addend (04 R93, R94), and what a BMAC and the reduction trees of a channel leave
in each word (04 R98, R99; 11 R295): a pair term is exact and is rounded once; a SEXP term is exact where the difference of
the maxima is an integer. -/
def Obligations.MemoryArithmetic : Prop :=
  (∀ (r : Rmw) (old b : DWord), (r.wide = false → old.toNat < 2 ^ 32 ∧ b.toNat < 2 ^ 32) →
    let w := if r.wide then 64 else 32
    let o := old.toNat
    let x := b.toNat
    let y := r.new old b
    let sg := fun n : Nat => if r.unsigned = true ∨ n < 2 ^ (w - 1) then (n : Int) else (n : Int) - 2 ^ w
    y.toNat < 2 ^ w ∧
    (r.code = 0 → (y.toNat : Int) = ((o : Int) + x) % 2 ^ w) ∧ (r.code = 1 → (y.toNat : Int) = ((o : Int) - x) % 2 ^ w) ∧
    (r.code = 2 → (y = old ∨ y = b) ∧ sg y.toNat = min (sg o) (sg x)) ∧
    (r.code = 3 → (y = old ∨ y = b) ∧ sg y.toNat = max (sg o) (sg x)) ∧
    (∀ k, k < 64 → (r.code = 4 → y.getLsbD k = (old.getLsbD k && b.getLsbD k)) ∧
      (r.code = 5 → y.getLsbD k = (old.getLsbD k || b.getLsbD k)) ∧ (r.code = 6 → y.getLsbD k = (old.getLsbD k != b.getLsbD k))) ∧
    (r.code = 7 → y = b) ∧ (r.code = 8 → y.toNat = if x ≤ o then 0 else o + 1) ∧
    (r.code = 9 → y = (addF .f32 .rne (decodeF .f32 old) (decodeF .f32 b)).1)) ∧
  (∀ (cell : Nat) (e : Int) (x : DWord), cell < 2 ^ 128 →
    let y := cellAdd cell e x
    let sets := fun k => ∀ i, y.testBit i = (cell.testBit i || decide (i = k))
    y < 2 ^ 128 ∧ ((decodeF .f32 x).isNan = true → sets 127) ∧
    (decodeF .f32 x = .inf false → sets 126) ∧ (decodeF .f32 x = .inf true → sets 125) ∧
    ((decodeF .f32 x).isFin = true → ∃ k : Int,
      let q : ℚ := (decodeF .f32 x).rat / 2 ^ e
      (|q - k| ≤ 1 / 2 ∧ (|q - k| = 1 / 2 → k % 2 = 0)) ∧
      (2 ^ 95 ≤ |k| → sets 124) ∧
      (|k| < 2 ^ 95 → y / 2 ^ 124 = cell / 2 ^ 124 ∧ ((y % 2 ^ 124 : Nat) : Int) = (((cell % 2 ^ 124 : Nat) : Int) + k) % 2 ^ 124))) ∧
  (∀ (kd kv col : BankReg) (j : Nat), j < 8 →
    let half := fun (x : BankReg) (i : Nat) => decodeF .f16 (BitVec.ofNat 64 (x.bits.toNat / 2 ^ (16 * i) % 2 ^ 16))
    let word := fun (x : BankReg) (i : Nat) => BitVec.ofNat 64 (x.bits.toNat / 2 ^ (32 * i) % 2 ^ 32)
    let ps := [(half col (2 * j), half kv (2 * j)), (half col (2 * j + 1), half kv (2 * j + 1))]
    (bankMac kd kv col).poison = (kd.poison || kv.poison || col.poison) ∧
    ∃ t : DWord, word (bankMac kd kv col) j = (addF .f32 .rne (decodeF .f32 (word kd j)) (decodeF .f32 t)).1 ∧
      ((∀ p ∈ ps, p.1.isFin = true ∧ p.2.isFin = true) →
        let x : ℚ := (ps.map fun p => p.1.rat * p.2.rat).sum
        ∃ (neg : Bool) (e : Exc), (x ≠ 0 → neg = decide (x < 0)) ∧ Rounds .f32 .rne neg (against x) (t, e)) ∧
      (t = (addF .f32 .rne (decodeF .f32 (mulF .f32 .rne (half col (2 * j)) (half kv (2 * j))).1)
        (decodeF .f32 (mulF .f32 .rne (half col (2 * j + 1)) (half kv (2 * j + 1))).1)).1 ∨
        ∀ p ∈ ps, p.1.isFin = true ∧ p.2.isFin = true)) ∧
  (∀ (op : Nat) (leaf : Nat → Option BankReg) (n b : Nat),
    let word := fun (x : BankReg) (i : Nat) => BitVec.ofNat 64 (x.bits.toNat / 2 ^ (32 * i) % 2 ^ 32)
    let val := fun (x : BankReg) (i : Nat) => decodeF .f32 (word x i)
    let larger := fun (x z : DWord) =>
      if (decodeF .f32 x).isNan = true ∨ (decodeF .f32 z).isNan = true then nanBits .f32
      else (minMaxF .f32 true (decodeF .f32 x) (decodeF .f32 z)).1
    bankTree op leaf 0 b = leaf b ∧
    (bankTree op leaf n (b + 2 ^ n) = none → bankTree op leaf (n + 1) b = bankTree op leaf n b) ∧
    (bankTree op leaf n b = none → bankTree op leaf (n + 1) b = bankTree op leaf n (b + 2 ^ n)) ∧
    (∀ x z, bankTree op leaf n b = some x → bankTree op leaf n (b + 2 ^ n) = some z →
      ∃ y, bankTree op leaf (n + 1) b = some y ∧ y.poison = (x.poison || z.poison) ∧
        (op = 0 → ∀ j, j < 8 → word y j = (addF .f32 .rne (val x j) (val z j)).1) ∧
        (op = 1 → ∀ j, j < 8 → word y j = larger (word x j) (word z j)) ∧
        (op = 2 → ∀ j, j < 4 →
          let m := larger (word x (2 * j)) (word z (2 * j))
          let bad := [val x (2 * j), val x (2 * j + 1), val z (2 * j), val z (2 * j + 1)].any FVal.isNan
          (bad = true → word y (2 * j) = nanBits .f32 ∧ word y (2 * j + 1) = nanBits .f32) ∧
          (bad = false → word y (2 * j) = m ∧ ∃ t1 t2 : DWord,
            word y (2 * j + 1) = (addF .f32 .rne (decodeF .f32 t1) (decodeF .f32 t2)).1 ∧
            ∀ p ∈ [(t1, val x (2 * j), word x (2 * j + 1)), (t2, val z (2 * j), word z (2 * j + 1))],
              (p.2.1 = .inf true → p.1 = 0) ∧
              (m = infBits .f32 false → p.1 = if p.2.1 = .inf false then p.2.2 else 0) ∧
              (p.2.1.isFin = true → m ≠ infBits .f32 false → (decodeF .f32 p.2.2).isFin = false → p.1 = p.2.2) ∧
              (p.2.1.isFin = true → m ≠ infBits .f32 false → (decodeF .f32 p.2.2).isFin = true →
                ∀ k : Nat, p.2.1.rat - (decodeF .f32 m).rat = -k → k < 1000 →
                  ∃ e, Rounds .f32 .rne (decodeF .f32 p.2.2).neg (against ((decodeF .f32 p.2.2).rat / 2 ^ k)) (p.1, e))))))

/-- What an MMA leaves in each cell: the group terms, exact sums of exact products rounded once, are added in ascending
order to the cell, each addition rounded with RNE, or modulo 2^32; a plane weight is the centre of its truncated interval
(04 R90 to R92, R96; 10 R248, R249, R252, R253, R258). The sign of a zero in a sum is the model's reading (log 51). -/
def Obligations.MatrixArithmetic : Prop :=
  (∀ a b : FVal, a.isFin = true → b.isFin = true →
    (mulExact a b).isFin = true ∧ (mulExact a b).rat = a.rat * b.rat ∧ (mulExact a b).neg = (a.neg != b.neg) ∧
    (addExact a b).isFin = true ∧ (addExact a b).rat = a.rat + b.rat ∧
    (addExact a b).neg = sumSign .rne a.neg b.neg (a.rat + b.rat)) ∧
  (∀ (n k : Bool) (a : FVal),
    (mulExact (.inf n) (.inf k) = .inf (n != k)) ∧ (addExact (.inf n) (.inf k) = if n = k then .inf n else .nan false) ∧
    (a.isNan = true → ∀ b, mulExact a b = .nan false ∧ mulExact b a = .nan false ∧ addExact a b = .nan false ∧
      addExact b a = .nan false) ∧
    (a.isFin = true → mulExact (.inf n) a = (if a.rat = 0 then .nan false else .inf (n != a.neg)) ∧
      mulExact a (.inf n) = (if a.rat = 0 then .nan false else .inf (a.neg != n)) ∧
      addExact (.inf n) a = .inf n ∧ addExact a (.inf n) = .inf n)) ∧
  (∀ (f : Fmt) (a : FVal), (a.isNan = true → rneBits f a = nanBits f) ∧ (∀ n, a = .inf n → rneBits f a = infBits f n) ∧
    (a.isFin = true → ∃ e, Rounds f .rne a.neg (against a.rat) (rneBits f a, e))) ∧
  (∀ (bs : List Byte) (off p e : Nat) (x : BitVec 8), 1 ≤ p → p ≤ 8 → e < 64 →
    (∀ t, t < p → x.getLsbD (7 - t) = (bs.getD (off + 8 * t + e / 8) 0).getLsbD (e % 8)) →
    planeWeight bs off p e = if p = 8 then x.toInt else x.toInt / 2 ^ (8 - p) * 2 ^ (8 - p) + 2 ^ (7 - p)) ∧
  (∀ (row j : Nat), j < 64 →
    let bit := fun i => if row.testBit i then 1 else 0
    keptPos 0 row j = j ∧ keptPos 2 row j = 4 * j + bit (2 * j) + 2 * bit (2 * j + 1) ∧
    keptPos 1 row j = 4 * (j / 2) + (if j % 2 = 0 then bit (4 * (j / 2)) + 2 * bit (4 * (j / 2) + 1)
      else bit (4 * (j / 2) + 2) + 2 * bit (4 * (j / 2) + 3))) ∧
  (∀ (md fmt : Word) (f : MmaForm) (scales : List Word) (side frag : List Byte) (parts : List (List Byte)) (old : List Word),
    mmaForm md fmt = some f → parts.length ∈ [1, 2, 4] → old.length = 1024 →
    let p := fmt.toNat % 8 + 1
    let per := f.cols / parts.length
    let le := fun (bs : List Byte) (o k : Nat) => BitVec.ofNat 64 (((List.range k).map fun i => (bs.getD (o + i) 0).toNat * 256 ^ i).sum)
    let metas := fun m => (le side (16 * m) 8).toNat + (le side (16 * m + 8) 8).toNat * 2 ^ 64
    let row := fun m => match f.kind with
      | .float g _ => (List.range (if f.spar = 0 then f.k else 32)).map fun j => (keptPos f.spar (metas m) j,
          decodeF g (le frag ((m * (if f.spar = 0 then f.k else 32) + j) * (g.width / 8)) (g.width / 8)))
      | .planes _ _ => (List.range 64).map fun j => (keptPos f.spar (metas m) j, intF (planeWeight frag (8 * p * m) p j))
    let col := fun n k => match f.kind with
      | .float g _ => decodeF g (le (parts.getD (n / per) []) ((n % per * f.k + k) * (g.width / 8)) (g.width / 8))
      | .planes true _ => decodeF .bf16 (le (parts.getD (n / per) []) ((n % per * f.k + k) * 2) 2)
      | .planes false _ => intF (BitVec.ofNat 8 (le (parts.getD (n / per) []) (n % per * f.k + k) 1).toNat).toInt
    let size := match f.kind with | .float .f64 _ => 4 | _ => 16
    let new := mmaCells f fmt scales side frag parts old
    let cell := fun (cs : List Word) (m n : Nat) => if f.cols = 16 then
        BitVec.ofNat 64 ((cs.getD (32 * m + 2 * n) 0).toNat + (cs.getD (32 * m + 2 * n + 1) 0).toNat * 2 ^ 32)
      else (cs.getD (32 * m + n) 0).setWidth 64
    new.length = 1024 ∧
    ∀ m n, m < 32 → n < f.cols → ∃ acc : Nat → DWord, acc 0 = cell old m n ∧ acc (f.k / size) = cell new m n ∧
      ∀ g, g < f.k / size →
        let ps := (row m).filter fun x => x.1 / size == g
        let finite := ∀ x ∈ ps, x.2.isFin = true ∧ (col n x.1).isFin = true
        let sum : ℚ := (ps.map fun x => x.2.rat * (col n x.1).rat).sum
        ∃ x : FVal, (finite → x.isFin = true ∧ x.rat = sum) ∧
          match f.kind with
          | .float _ a => acc (g + 1) = (addF a .rne (decodeF a (acc g)) (decodeF a (rneBits a x))).1
          | .planes _ true => (acc (g + 1)).toNat = (((acc g).toNat + ⌊sum⌋) % 2 ^ 32).toNat
          | .planes _ false => acc (g + 1) = (addF .f32 .rne (decodeF .f32 (acc g)) (decodeF .f32
              (rneBits .f32 (mulExact x (decodeF .f32 ((scales.getD (16 * m + 16 * g / 2 ^ (fmtSgrp fmt)) 0).setWidth 64)))))).1)

/-! ### The invariants -/

/-- Every step keeps the canonical form of memory and of host memory: addresses rise strictly, and no listed byte is the
one that an unlisted address reads as.  It holds at reset (ResetState). -/
def Obligations.MemoryFormKept : Prop :=
  ∀ s t : State, s.Inv → step s = .next t → t.Inv

/-- Every step keeps the form of the divergence stacks of all fibres on cores and check copies: at most four entries on
chip, and four while older ones are spilled (02 R34).  It holds at reset (ResetState). -/
def Obligations.StackFormKept : Prop :=
  ∀ s t : State, s.StackForm → step s = .next t → t.StackForm

/-- Every step keeps, in every residency on a core or saved: operand-file registers of tag G (03 R55); dependency-table
entries that hold a command exactly while they are not FREE, with a GEN of 16 bits (11 R275); barriers whose count and
reload have 12 bits (02 R43).  It holds at reset (ResetState). -/
def Obligations.TableFormsKept : Prop :=
  ∀ s t : State, s.TableForm → step s = .next t → t.TableForm

end Statements
end

