-- ==== Sys2Proof/Laws/Datagram.lean ====
section
/-! SUPPORT. The UDP datagrams of the fabric (19 R385): what a port sends is what a port accepts. -/

namespace Sys2Proof.Machine

/-- The sum of bytes taken as 16-bit numbers, high byte first, before it is folded. -/
def wordSum : List Byte → Nat
  | [] => 0
  | [x] => 256 * x.toNat
  | x :: y :: bs => 256 * x.toNat + y.toNat + wordSum bs

theorem leAt_one (bs : List Byte) (i : Nat) : leAt bs i 1 = (bs.getD i 0).toNat := by simp [leAt, sliceBytes, leNat]

theorem sum_words (bs : List Byte) :
    ((List.range ((bs.length + 1) / 2)).map fun i => 256 * leAt bs (2 * i) 1 + leAt bs (2 * i + 1) 1).sum = wordSum bs := by
  simp only [leAt_one]
  induction bs using wordSum.induct with
  | case1 => rfl
  | case2 x => simp [wordSum]
  | case3 x y bs ih =>
    have h : ((x :: y :: bs).length + 1) / 2 = (bs.length + 1) / 2 + 1 := by simp; omega
    rw [h, List.range_succ_eq_map]
    simp only [wordSum, ← ih, List.map_cons, List.map_map, List.sum_cons, Nat.mul_zero, Function.comp_def]
    congr 3

theorem wordSum_append {xs : List Byte} (ys : List Byte) (h : xs.length % 2 = 0) :
    wordSum (xs ++ ys) = wordSum xs + wordSum ys := by
  induction xs using wordSum.induct with
  | case1 => simp [wordSum]
  | case2 x => simp at h
  | case3 x y bs ih =>
    simp only [List.cons_append, wordSum]
    rw [ih (by simp at h; omega)]
    omega

theorem wordSum_le (bs : List Byte) : wordSum bs ≤ 65535 * ((bs.length + 1) / 2) := by
  induction bs using wordSum.induct with
  | case1 => simp [wordSum]
  | case2 x => have := x.isLt; simp [wordSum]; omega
  | case3 x y bs ih =>
    have := x.isLt
    have := y.isLt
    simp only [wordSum, List.length_cons]
    omega

@[simp] theorem netBytes_length (x : Nat) : (netBytes x).length = 2 := rfl

theorem netBytes_eq (x : Nat) : netBytes x = [BitVec.ofNat 8 (x / 256), BitVec.ofNat 8 x] := rfl

theorem wordSum_netBytes {x : Nat} (h : x < 65536) : wordSum (netBytes x) = x := by
  simp [netBytes_eq, wordSum]; omega

/-- A sum folded to 16 bits, and the checksum of a sum: the complement of its fold, all ones for 0. -/
def folded (t : Nat) : Nat :=
  let fold (x : Nat) : Nat := x % 65536 + x / 65536
  fold (fold (fold t))
def checksum (t : Nat) : Nat := if 65535 - folded t = 0 then 65535 else 65535 - folded t

theorem onesSum_eq (bs : List Byte) : onesSum bs = folded (wordSum bs) := by simp only [onesSum, sum_words, folded]

theorem checksum_lt (t : Nat) : checksum t < 65536 := by unfold checksum; split <;> omega

/-- A sum with its checksum folds to all ones. -/
theorem folded_checksum {t : Nat} (h : t < 2 ^ 32) : folded (t + checksum t) = 65535 := by
  unfold checksum folded
  dsimp only
  split <;> omega

theorem pseudoHeader_length (source dest n : Nat) : (pseudoHeader source dest n).length = 40 := by
  simp [pseudoHeader, bytesOfNat]

/-- A datagram whose checksum is made is one whose checksum is right, for every address and payload. -/
theorem udpPayload_udpBytes (source dest sport : Nat) {payload : List Byte} (h : payload.length < 65528) :
    udpPayload source dest (udpBytes source dest sport payload) = some payload := by
  generalize hp : netBytes sport ++ netBytes fabricPort ++ netBytes (8 + payload.length) = ports
  generalize hh : pseudoHeader source dest (8 + payload.length) = head
  have lp : ports.length = 6 := by simp [← hp]
  have lh : head.length = 40 := by simp [← hh, pseudoHeader_length]
  generalize ht : wordSum head + wordSum ports + wordSum payload = t
  have bound : t < 2 ^ 32 := by
    have := wordSum_le head
    have := wordSum_le ports
    have := wordSum_le payload
    omega
  have sum {c : Nat} (hc : c < 65536) : wordSum (head ++ (ports ++ netBytes c ++ payload)) = t + c := by
    rw [wordSum_append _ (by omega), List.append_assoc, wordSum_append _ (by omega), wordSum_append _ (by simp), wordSum_netBytes hc]
    omega
  have made : udpBytes source dest sport payload = ports ++ netBytes (checksum t) ++ payload := by
    have zero : onesSum (head ++ ports ++ netBytes 0 ++ payload) = folded t := by
      rw [onesSum_eq, show head ++ ports ++ netBytes 0 ++ payload = head ++ (ports ++ netBytes 0 ++ payload) by simp,
        sum (by omega), Nat.add_zero]
    simp only [udpBytes, hp, hh, zero, checksum]
  have len : (ports ++ netBytes (checksum t) ++ payload).length = 8 + payload.length := by simp [lp]; omega
  have two : 256 * leAt (ports ++ netBytes (checksum t) ++ payload) 2 1 + leAt (ports ++ netBytes (checksum t) ++ payload) 3 1 = fabricPort := by
    simp [← hp, netBytes_eq, leAt_one, fabricPort]
  have four : 256 * leAt (ports ++ netBytes (checksum t) ++ payload) 4 1 + leAt (ports ++ netBytes (checksum t) ++ payload) 5 1 =
      8 + payload.length := by
    simp [← hp, netBytes_eq, leAt_one]
    omega
  have ones : onesSum (pseudoHeader source dest (8 + payload.length) ++ (ports ++ netBytes (checksum t) ++ payload)) = 65535 := by
    rw [hh, onesSum_eq, sum (checksum_lt t), folded_checksum bound]
  unfold udpPayload
  rw [made, len, if_pos ⟨by omega, two, four, ones⟩, List.drop_append, List.drop_eq_nil_of_le (by simp [lp])]
  simp [lp]

end Sys2Proof.Machine
end

