-- ==== Sys2Proof/Laws/Table.lean ====
section
/-! SUPPORT. Laws of tables with natural keys, and of lists that grow with their defaults. -/

namespace Sys2Proof.Machine

theorem kget_kset_same {α : Type} (m : KMap α) (x : Nat) (y : α) : kget (kset m x y) x = some y := by
  induction m with
  | nil => simp [kset, kget]
  | cons p m ih =>
    obtain ⟨k, v⟩ := p
    simp only [kset]
    split
    · simp [kget]
    · split
      · simp [kget]
      · simp [kget, *]

theorem kget_kset_ne {α : Type} (m : KMap α) {x z : Nat} (y : α) (h : z ≠ x) : kget (kset m x y) z = kget m z := by
  induction m with
  | nil => simp [kset, kget, h]
  | cons p m ih =>
    obtain ⟨k, v⟩ := p
    simp only [kset]
    split
    · simp [kget, h]
    · split
      · subst_vars; simp [kget, h]
      · simp [kget, ih]

theorem kget_kset {α : Type} (m : KMap α) (x z : Nat) (y : α) :
    kget (kset m x y) z = if z = x then some y else kget m z := by
  split
  · subst_vars; exact kget_kset_same m _ y
  · exact kget_kset_ne m y ‹_›

theorem kget_kerase_ne {α : Type} (m : KMap α) {x z : Nat} (h : z ≠ x) : kget (kerase m x) z = kget m z := by
  induction m with
  | nil => rfl
  | cons p m ih =>
    obtain ⟨k, v⟩ := p
    simp only [kerase]
    split
    · subst_vars; simp [kget, h, ih]
    · simp [kget, ih]

@[simp] theorem kgetD_kset_same {α : Type} (m : KMap α) (x : Nat) (y d : α) : kgetD (kset m x y) x d = y := by
  simp [kgetD, kget_kset_same]

theorem kgetD_kset_ne {α : Type} (m : KMap α) {x z : Nat} (y d : α) (h : z ≠ x) :
    kgetD (kset m x y) z d = kgetD m z d := by
  simp [kgetD, kget_kset_ne m y h]

theorem kgetD_kerase_ne {α : Type} (m : KMap α) {x z : Nat} (d : α) (h : z ≠ x) :
    kgetD (kerase m x) z d = kgetD m z d := by
  simp [kgetD, kget_kerase_ne m h]

/-! ### Rising keys -/

theorem krising_tail {α : Type} {p : Nat × α} {m : KMap α} (h : krising (p :: m) = true) : krising m = true := by
  cases m with
  | nil => rfl
  | cons q m => simp only [krising, Bool.and_eq_true] at h; exact h.2

/-- With rising keys, the first key is below all others. -/
theorem krising_head {α : Type} {p : Nat × α} {m : KMap α} (h : krising (p :: m) = true) :
    ∀ q ∈ m, p.1 < q.1 := by
  induction m generalizing p with
  | nil => intro q hq; cases hq
  | cons r m ih =>
    simp only [krising, Bool.and_eq_true, decide_eq_true_eq] at h
    intro q hq
    rcases List.mem_cons.mp hq with rfl | hq
    · exact h.1
    · exact Nat.lt_trans h.1 (ih h.2 q hq)

theorem krising_cons {α : Type} {p : Nat × α} {m : KMap α} (hm : krising m = true) (h : ∀ q ∈ m, p.1 < q.1) :
    krising (p :: m) = true := by
  cases m with
  | nil => rfl
  | cons q m =>
    simp only [krising, Bool.and_eq_true, decide_eq_true_eq]
    exact ⟨h q (by simp), hm⟩

theorem mem_kset {α : Type} {m : KMap α} {x : Nat} {y : α} {q : Nat × α} (h : q ∈ kset m x y) :
    q = (x, y) ∨ q ∈ m := by
  induction m with
  | nil => simpa [kset] using h
  | cons p m ih =>
    simp only [kset] at h
    split at h
    · simpa using h
    · split at h
      · rcases List.mem_cons.mp h with h | h
        · exact .inl h
        · exact .inr (List.mem_cons_of_mem _ h)
      · rcases List.mem_cons.mp h with h | h
        · exact .inr (by simp [h])
        · exact (ih h).imp id (List.mem_cons_of_mem _)

theorem krising_kset {α : Type} {m : KMap α} (x : Nat) (y : α) (h : krising m = true) : krising (kset m x y) = true := by
  induction m with
  | nil => rfl
  | cons p m ih =>
    simp only [kset]
    split
    · rename_i hx
      refine krising_cons h fun q hq => ?_
      rcases List.mem_cons.mp hq with rfl | hq
      · exact hx
      · exact Nat.lt_trans hx (krising_head h q hq)
    · split
      · rename_i hx
        exact krising_cons (krising_tail h) fun q hq => hx ▸ krising_head h q hq
      · refine krising_cons (ih (krising_tail h)) fun q hq => ?_
        rcases mem_kset hq with rfl | hq
        · omega
        · exact krising_head h q hq

theorem mem_kerase {α : Type} {m : KMap α} {x : Nat} {q : Nat × α} (h : q ∈ kerase m x) : q ∈ m := by
  induction m with
  | nil => cases h
  | cons p m ih =>
    simp only [kerase] at h
    split at h
    · exact List.mem_cons_of_mem _ (ih h)
    · rcases List.mem_cons.mp h with h | h
      · simp [h]
      · exact List.mem_cons_of_mem _ (ih h)

theorem krising_kerase {α : Type} {m : KMap α} (x : Nat) (h : krising m = true) : krising (kerase m x) = true := by
  induction m with
  | nil => rfl
  | cons p m ih =>
    simp only [kerase]
    split
    · exact ih (krising_tail h)
    · exact krising_cons (ih (krising_tail h)) fun q hq => krising_head h q (mem_kerase hq)

/-- An erased key is gone. -/
theorem kget_kerase_same {α : Type} (m : KMap α) (x : Nat) : kget (kerase m x) x = none := by
  induction m with
  | nil => rfl
  | cons p m ih =>
    obtain ⟨k, v⟩ := p
    simp only [kerase]
    split
    · exact ih
    · simp [kget, *]

theorem kget_kerase {α : Type} (m : KMap α) (x z : Nat) : kget (kerase m x) z = if z = x then none else kget m z := by
  split
  · subst_vars; exact kget_kerase_same m _
  · exact kget_kerase_ne m ‹_›

/-! ### Lists that grow -/

theorem getD_setAt_same {α : Type} (xs : List α) (i : Nat) (x : α) (d : Nat → α) (e : α) :
    (setAt xs i x d).getD i e = x := by
  unfold setAt
  split
  · simp [List.getD_eq_getElem?_getD, *]
  · rw [List.getD_eq_getElem?_getD, List.getElem?_append_right (by simp; omega)]
    simp [show i - (xs.length + (i - xs.length)) = 0 by omega]

theorem getD_setAt_ne {α : Type} (xs : List α) {i j : Nat} (x : α) (d : Nat → α) (h : j ≠ i) :
    (setAt xs i x d).getD j (d j) = xs.getD j (d j) := by
  unfold setAt
  split
  · simp [List.getD_eq_getElem?_getD, List.getElem?_set_ne (Ne.symm h)]
  · simp only [List.getD_eq_getElem?_getD, List.append_assoc]
    by_cases h1 : j < xs.length
    · rw [List.getElem?_append_left h1]
    · rw [List.getElem?_append_right (by omega), List.getElem?_eq_none (l := xs) (by omega)]
      by_cases h2 : j < i
      · rw [List.getElem?_append_left (by simp; omega)]
        simp [show j - xs.length < i - xs.length by omega, show xs.length + (j - xs.length) = j by omega]
      · rw [List.getElem?_eq_none (by simp; omega)]

end Sys2Proof.Machine
end

