-- ==== Sys2Proof/Laws/State.lean ====
section
/-! SUPPORT. Reading the state after an update: cores, residencies, teams, fibres, plies. -/

namespace Sys2Proof.Machine

/-! ### Cores -/

@[simp] theorem core_setCore_same (s : State) (n : Nat) (c : Core) : (s.setCore n c).core n = c := by
  simp [State.core, State.setCore]

theorem core_setCore_ne (s : State) {n m : Nat} (c : Core) (h : m ≠ n) : (s.setCore n c).core m = s.core m := by
  simp [State.core, State.setCore, kgetD_kset_ne _ _ _ h]

/-- A core's replacement changes the cores alone. -/
theorem setCore_rest (s : State) (n : Nat) (c : Core) : s.setCore n c = { s with cores := (s.setCore n c).cores } := rfl

/-! ### Residencies -/

@[simp] theorem res_coreSetRes_same (c : Core) (r : Nat) (x : Residency) : (c.setRes r x).res r = x := by
  unfold Core.setRes Core.res
  split <;> simp [*]

theorem res_coreSetRes_ne (c : Core) {r q : Nat} (x : Residency) (h : (q = 0) ≠ (r = 0)) :
    (c.setRes r x).res q = c.res q := by
  unfold Core.setRes Core.res
  by_cases hq : q = 0 <;> by_cases hr : r = 0 <;> simp_all

@[simp] theorem coreSetRes_twice (c : Core) (r : Nat) (x y : Residency) : (c.setRes r x).setRes r y = c.setRes r y := by
  unfold Core.setRes
  split <;> rfl

@[simp] theorem coreSetRes_self (c : Core) (r : Nat) : c.setRes r (c.res r) = c := by
  unfold Core.setRes Core.res
  split <;> rfl

@[simp] theorem res_setRes_same (s : State) (n r : Nat) (x : Residency) : (s.setRes n r x).res n r = x := by
  simp [State.res, State.setRes]

theorem res_setRes_other (s : State) {n m : Nat} (r q : Nat) (x : Residency) (h : m ≠ n) :
    (s.setRes n r x).res m q = s.res m q := by
  simp [State.res, State.setRes, core_setCore_ne _ _ h]

@[simp] theorem core_setRes_same (s : State) (n r : Nat) (x : Residency) :
    (s.setRes n r x).core n = (s.core n).setRes r x := by simp [State.setRes]

theorem core_setRes_ne (s : State) {n m : Nat} (r : Nat) (x : Residency) (h : m ≠ n) :
    (s.setRes n r x).core m = s.core m := core_setCore_ne s _ h

@[simp] theorem res_modRes_same (s : State) (n r : Nat) (f : Residency → Residency) :
    (s.modRes n r f).res n r = f (s.res n r) := by simp [State.modRes]

@[simp] theorem core_modRes_same (s : State) (n r : Nat) (f : Residency → Residency) :
    (s.modRes n r f).core n = (s.core n).setRes r (f (s.res n r)) := by simp [State.modRes]

theorem core_modRes_ne (s : State) {n m : Nat} (r : Nat) (f : Residency → Residency) (h : m ≠ n) :
    (s.modRes n r f).core m = s.core m := core_setRes_ne s r _ h

/-! ### What core-side updates leave -/

@[simp] theorem mem_setCore (s : State) (n : Nat) (c : Core) : (s.setCore n c).mem = s.mem := rfl
@[simp] theorem hostMem_setCore (s : State) (n : Nat) (c : Core) : (s.setCore n c).hostMem = s.hostMem := rfl
@[simp] theorem clock_setCore (s : State) (n : Nat) (c : Core) : (s.setCore n c).clock = s.clock := rfl
@[simp] theorem poison_setCore (s : State) (n : Nat) (c : Core) : (s.setCore n c).poison = s.poison := rfl
@[simp] theorem control_setCore (s : State) (n : Nat) (c : Core) : (s.setCore n c).control = s.control := rfl
@[simp] theorem fabric_setCore (s : State) (n : Nat) (c : Core) : (s.setCore n c).fabric = s.fabric := rfl
@[simp] theorem homes_setCore (s : State) (n : Nat) (c : Core) : (s.setCore n c).homes = s.homes := rfl
@[simp] theorem channels_setCore (s : State) (n : Nat) (c : Core) : (s.setCore n c).channels = s.channels := rfl
@[simp] theorem mem_modCore (s : State) (n : Nat) (f : Core → Core) : (s.modCore n f).mem = s.mem := rfl
@[simp] theorem hostMem_modCore (s : State) (n : Nat) (f : Core → Core) : (s.modCore n f).hostMem = s.hostMem := rfl
@[simp] theorem control_modCore (s : State) (n : Nat) (f : Core → Core) : (s.modCore n f).control = s.control := rfl
@[simp] theorem mem_setRes (s : State) (n r : Nat) (x : Residency) : (s.setRes n r x).mem = s.mem := rfl
@[simp] theorem hostMem_setRes (s : State) (n r : Nat) (x : Residency) : (s.setRes n r x).hostMem = s.hostMem := rfl
@[simp] theorem control_setRes (s : State) (n r : Nat) (x : Residency) : (s.setRes n r x).control = s.control := rfl
@[simp] theorem mem_modRes (s : State) (n r : Nat) (f : Residency → Residency) : (s.modRes n r f).mem = s.mem := rfl
@[simp] theorem hostMem_modRes (s : State) (n r : Nat) (f : Residency → Residency) :
    (s.modRes n r f).hostMem = s.hostMem := rfl
@[simp] theorem control_modRes (s : State) (n r : Nat) (f : Residency → Residency) :
    (s.modRes n r f).control = s.control := rfl
@[simp] theorem mem_modTeam (s : State) (n r : Nat) (f : Team → Team) : (s.modTeam n r f).mem = s.mem := rfl
@[simp] theorem hostMem_modTeam (s : State) (n r : Nat) (f : Team → Team) : (s.modTeam n r f).hostMem = s.hostMem := rfl
@[simp] theorem control_modTeam (s : State) (n r : Nat) (f : Team → Team) : (s.modTeam n r f).control = s.control := rfl
@[simp] theorem mem_setFibre (s : State) (n r sl : Nat) (f : Fibre) : (s.setFibre n r sl f).mem = s.mem := rfl
@[simp] theorem hostMem_setFibre (s : State) (n r sl : Nat) (f : Fibre) : (s.setFibre n r sl f).hostMem = s.hostMem := rfl
@[simp] theorem control_setFibre (s : State) (n r sl : Nat) (f : Fibre) : (s.setFibre n r sl f).control = s.control := rfl

@[simp] theorem mem_modFibre (s : State) (n r sl : Nat) (f : Fibre → Fibre) : (s.modFibre n r sl f).mem = s.mem := by
  unfold State.modFibre; split <;> rfl
@[simp] theorem hostMem_modFibre (s : State) (n r sl : Nat) (f : Fibre → Fibre) :
    (s.modFibre n r sl f).hostMem = s.hostMem := by unfold State.modFibre; split <;> rfl
@[simp] theorem control_modFibre (s : State) (n r sl : Nat) (f : Fibre → Fibre) :
    (s.modFibre n r sl f).control = s.control := by unfold State.modFibre; split <;> rfl
@[simp] theorem mem_onFibre (s : State) (v : View) (g : Fibre → Fibre) : (s.onFibre v g).mem = s.mem :=
  mem_modFibre _ _ _ _ _
@[simp] theorem hostMem_onFibre (s : State) (v : View) (g : Fibre → Fibre) : (s.onFibre v g).hostMem = s.hostMem :=
  hostMem_modFibre _ _ _ _ _
@[simp] theorem control_onFibre (s : State) (v : View) (g : Fibre → Fibre) : (s.onFibre v g).control = s.control :=
  control_modFibre _ _ _ _ _
@[simp] theorem mem_onPly (s : State) (v : View) (g : Ply → Ply) : (s.onPly v g).mem = s.mem := mem_onFibre _ _ _
@[simp] theorem hostMem_onPly (s : State) (v : View) (g : Ply → Ply) : (s.onPly v g).hostMem = s.hostMem :=
  hostMem_onFibre _ _ _

@[simp] theorem mem_post (s : State) (t : EventType) (a c : Nat) (p : List Nat) : (s.post t a c p).mem = s.mem := rfl
@[simp] theorem cores_post (s : State) (t : EventType) (a c : Nat) (p : List Nat) : (s.post t a c p).cores = s.cores := rfl
@[simp] theorem mem_write (s : State) (as : List Nat) (bs : List Byte) (bad : List Nat) :
    (s.write as bs bad).mem = writeAll s.mem as bs := rfl
@[simp] theorem cores_write (s : State) (as : List Nat) (bs : List Byte) (bad : List Nat) :
    (s.write as bs bad).cores = s.cores := rfl
@[simp] theorem hostMem_write (s : State) (as : List Nat) (bs : List Byte) (bad : List Nat) :
    (s.write as bs bad).hostMem = s.hostMem := rfl
@[simp] theorem control_write (s : State) (as : List Nat) (bs : List Byte) (bad : List Nat) :
    (s.write as bs bad).control = s.control := rfl
@[simp] theorem fabric_write (s : State) (as : List Nat) (bs : List Byte) (bad : List Nat) :
    (s.write as bs bad).fabric = s.fabric := rfl
@[simp] theorem copies_write (s : State) (as : List Nat) (bs : List Byte) (bad : List Nat) :
    (s.write as bs bad).copies = s.copies := rfl
theorem poison_write (s : State) (as : List Nat) (bs : List Byte) (bad : List Nat) :
    (s.write as bs bad).poison = addAtoms (s.poisonLeft as) bad := rfl
@[simp] theorem poison_store (s : State) (h : s.poison = []) (as : List Nat) (bs : List Byte) :
    (s.store as bs).poison = [] := by simp [State.store, poison_write, State.poisonLeft, keepAtoms, h, addAtoms, atomsOf]
@[simp] theorem mem_store (s : State) (as : List Nat) (bs : List Byte) : (s.store as bs).mem = writeAll s.mem as bs := rfl
@[simp] theorem cores_store (s : State) (as : List Nat) (bs : List Byte) : (s.store as bs).cores = s.cores := rfl
@[simp] theorem hostMem_store (s : State) (as : List Nat) (bs : List Byte) : (s.store as bs).hostMem = s.hostMem := rfl
@[simp] theorem control_store (s : State) (as : List Nat) (bs : List Byte) : (s.store as bs).control = s.control := rfl
@[simp] theorem copies_store (s : State) (as : List Nat) (bs : List Byte) : (s.store as bs).copies = s.copies := rfl
@[simp] theorem mem_poisonAtoms (s : State) (as : List Nat) : (s.poisonAtoms as).mem = s.mem := rfl
@[simp] theorem cores_poisonAtoms (s : State) (as : List Nat) : (s.poisonAtoms as).cores = s.cores := rfl

/-! ### Fibres -/

@[simp] theorem fibre_setFibre_same (s : State) (n r sl : Nat) (f : Fibre) : (s.setFibre n r sl f).fibre n r sl = some f := by
  simp [State.fibre, State.setFibre, kget_kset_same]

theorem fibre_setFibre_slot (s : State) (n r : Nat) {sl tl : Nat} (f : Fibre) (h : tl ≠ sl) :
    (s.setFibre n r sl f).fibre n r tl = s.fibre n r tl := by
  simp [State.fibre, State.setFibre, kget_kset_ne _ _ h]

theorem modFibre_of (s : State) {n r sl : Nat} {f : Fibre} (g : Fibre → Fibre) (h : s.fibre n r sl = some f) :
    s.modFibre n r sl g = s.setFibre n r sl (g f) := by simp [State.modFibre, h]

theorem onFibre_of (s : State) (v : View) {f : Fibre} (g : Fibre → Fibre)
    (h : s.fibre v.who.core v.who.res v.who.slot = some f) : s.onFibre v g = s.putFibre v (g f) := modFibre_of s g h

@[simp] theorem windows_setFibre (s : State) (n r sl : Nat) (f : Fibre) :
    ((s.setFibre n r sl f).res n r).windows = (s.res n r).windows := by simp [State.setFibre]

/-! ### Plies -/

@[simp] theorem ply_setPly_same (f : Fibre) (p : Nat) (x : Ply) : (f.setPly p x).ply p = x := by
  unfold Fibre.setPly Fibre.ply
  split <;> simp [*]

theorem ply_setPly_other (f : Fibre) {p q : Nat} (x : Ply) (h : (q = 0) ≠ (p = 0)) : (f.setPly p x).ply q = f.ply q := by
  unfold Fibre.setPly Fibre.ply
  by_cases hq : q = 0 <;> by_cases hp : p = 0 <;> simp_all

@[simp] theorem regs_setPly (f : Fibre) (p : Nat) (x : Ply) : (f.setPly p x).regs = f.regs := by
  unfold Fibre.setPly; split <;> rfl
@[simp] theorem spec_setPly (f : Fibre) (p : Nat) (x : Ply) : (f.setPly p x).spec = f.spec := by
  unfold Fibre.setPly; split <;> rfl
@[simp] theorem lanes_setPly (f : Fibre) (p : Nat) (x : Ply) : (f.setPly p x).lanes = f.lanes := by
  unfold Fibre.setPly; split <;> rfl
@[simp] theorem sched_setPly (f : Fibre) (p : Nat) (x : Ply) : (f.setPly p x).sched = f.sched := by
  unfold Fibre.setPly; split <;> rfl
@[simp] theorem status_setPly (f : Fibre) (p : Nat) (x : Ply) : (f.setPly p x).status = f.status := by
  unfold Fibre.setPly; split <;> rfl
@[simp] theorem wait_setPly (f : Fibre) (p : Nat) (x : Ply) : (f.setPly p x).wait = f.wait := by
  unfold Fibre.setPly; split <;> rfl
@[simp] theorem num_setPly (f : Fibre) (p : Nat) (x : Ply) : (f.setPly p x).num = f.num := by
  unfold Fibre.setPly; split <;> rfl
@[simp] theorem merge_setPly (f : Fibre) (p : Nat) (x : Ply) : (f.setPly p x).merge = f.merge := by
  unfold Fibre.setPly; split <;> rfl

@[simp] theorem regs_served (f : Fibre) (p : Nat) : (f.served p).regs = f.regs := rfl
@[simp] theorem spec_served (f : Fibre) (p : Nat) : (f.served p).spec = f.spec := rfl
@[simp] theorem lanes_served (f : Fibre) (p : Nat) : (f.served p).lanes = f.lanes := rfl
@[simp] theorem status_served (f : Fibre) (p : Nat) : (f.served p).status = f.status := rfl
@[simp] theorem wait_served (f : Fibre) (p : Nat) : (f.served p).wait = f.wait := rfl
@[simp] theorem num_served (f : Fibre) (p : Nat) : (f.served p).num = f.num := rfl
@[simp] theorem ply_served (f : Fibre) (p q : Nat) : (f.served p).ply q = f.ply q := rfl

@[simp] theorem ply_count (f : Fibre) (p q : Nat) : (f.count p).ply q = f.ply q := rfl
@[simp] theorem regs_count (f : Fibre) (p : Nat) : (f.count p).regs = f.regs := rfl
@[simp] theorem spec_count (f : Fibre) (p : Nat) : (f.count p).spec = f.spec := rfl
@[simp] theorem lanes_count (f : Fibre) (p : Nat) : (f.count p).lanes = f.lanes := rfl
@[simp] theorem status_count (f : Fibre) (p : Nat) : (f.count p).status = f.status := rfl
@[simp] theorem wait_count (f : Fibre) (p : Nat) : (f.count p).wait = f.wait := rfl
@[simp] theorem num_count (f : Fibre) (p : Nat) : (f.count p).num = f.num := rfl

@[simp] theorem ply_begins (f : Fibre) (p q : Nat) : (f.begins p).ply q = f.ply q := rfl
@[simp] theorem regs_begins (f : Fibre) (p : Nat) : (f.begins p).regs = f.regs := rfl
@[simp] theorem spec_begins (f : Fibre) (p : Nat) : (f.begins p).spec = f.spec := rfl
@[simp] theorem lanes_begins (f : Fibre) (p : Nat) : (f.begins p).lanes = f.lanes := rfl
@[simp] theorem num_begins (f : Fibre) (p : Nat) : (f.begins p).num = f.num := rfl

@[simp] theorem ply_uncount (f : Fibre) (p q : Nat) : (f.uncount p).ply q = f.ply q := rfl
@[simp] theorem regs_uncount (f : Fibre) (p : Nat) : (f.uncount p).regs = f.regs := rfl
@[simp] theorem spec_uncount (f : Fibre) (p : Nat) : (f.uncount p).spec = f.spec := rfl
@[simp] theorem lanes_uncount (f : Fibre) (p : Nat) : (f.uncount p).lanes = f.lanes := rfl
@[simp] theorem status_uncount (f : Fibre) (p : Nat) : (f.uncount p).status = f.status := rfl
@[simp] theorem wait_uncount (f : Fibre) (p : Nat) : (f.uncount p).wait = f.wait := rfl
@[simp] theorem num_uncount (f : Fibre) (p : Nat) : (f.uncount p).num = f.num := rfl

/-- A ply that has not waited counts its instruction when it retires (18 R373). -/
theorem count_fresh {x : FSched} {p : Nat} (h : kget x.tally p = none) : x.count p = x.tick := by
  simp [FSched.count, h]

/-- One that has waited was counted when it began to wait. -/
theorem count_waited (x : FSched) (p : Nat) : ((x.begins p).count p).retired = (x.begins p).retired := by
  unfold FSched.count
  split <;> rename_i h
  · rfl
  · exfalso; apply h
    unfold FSched.begins
    split <;> rename_i h'
    · exact h'
    · simp [kget_kset_same]

@[simp] theorem regs_retire (f : Fibre) (p : Nat) : (f.retire p).regs = f.regs := by
  simp [Fibre.retire, Fibre.count]
@[simp] theorem lanes_retire (f : Fibre) (p : Nat) : (f.retire p).lanes = f.lanes := by
  simp [Fibre.retire, Fibre.count]
@[simp] theorem spec_retire (f : Fibre) (p : Nat) : (f.retire p).spec = f.spec := by
  simp [Fibre.retire, Fibre.count]

/-- Retiring reads nothing of the registers. -/
theorem retire_regs (f : Fibre) (p : Nat) (x : Regs) :
    ({ f with regs := x } : Fibre).retire p = { f.retire p with regs := x } := by
  unfold Fibre.retire Fibre.setPly Fibre.ply Fibre.count Fibre.served
  split <;> rfl

/-! ### The view of the issuing ply -/

/-- What a view holds is what the state holds. -/
theorem view_spec {s : State} {v : View} (h : s.view = some v) :
    v.who = s.cur ∧ s.team v.who.core v.who.res = some v.team ∧
      s.fibre v.who.core v.who.res v.who.slot = some v.fib ∧ v.ply = v.fib.ply v.who.ply ∧ v.ply.live = true ∧
      v.core = s.core v.who.core ∧ v.res = s.res v.who.core v.who.res := by
  unfold State.view State.viewOf at h
  split at h
  · rename_i t f ht hf
    simp only at h
    split at h
    · rename_i hl
      cases h
      exact ⟨rfl, ht, hf, rfl, hl, rfl, rfl⟩
    · cases h
  · cases h

/-- The effect of an instruction that issues and does not stop. -/
theorem issue_ok {y : Bool} {s t : State} {v : View} {body : View → Except Stop State} (h : s.view = some v)
    (hb : body v = .ok t) : issue y s body = .next t := by
  unfold issue
  rw [h]
  simp only [hb]

/-- The effect of an instruction that issues and stops. -/
theorem issue_stop {y : Bool} {s : State} {v : View} {body : View → Except Stop State} {e : Stop} (h : s.view = some v)
    (hb : body v = .error e) : issue y s body = .next (s.onStop v y e) := by
  unfold issue
  rw [h]
  simp only [hb]

end Sys2Proof.Machine
end

