-- ==== Sys2Proof/Laws/Deliver.lean ====
section
/-! SUPPORT. What writing a register, a last use, a result and a retirement do: the spec lemmas of `setV`, `putReg`,
`lastUses`, `writeD`, `finish` and `finishPlain`. -/

namespace Sys2Proof.Machine

/-! ### Changing one fibre -/

theorem onlyFibre_refl (v : View) (s : State) : v.OnlyFibre s s where
  rest := rfl
  bytes _ := rfl
  others _ _ := rfl
  core := (coreSetRes_self (s.core v.who.core) v.who.res).symm
  slots _ _ := rfl
  windows _ _ := rfl

theorem onlyFibre_trans {v : View} {s t u : State} (h : v.OnlyFibre s t) (k : v.OnlyFibre t u) : v.OnlyFibre s u where
  rest := by rw [k.rest, h.rest]
  bytes a := (k.bytes a).trans (h.bytes a)
  others n hn := (k.others n hn).trans (h.others n hn)
  core := by
    have e : t.res v.who.core v.who.res = { s.res v.who.core v.who.res with
        slots := (t.res v.who.core v.who.res).slots, windows := (t.res v.who.core v.who.res).windows } := by
      conv_lhs => unfold State.res
      rw [h.core]; simp
    rw [k.core, h.core, coreSetRes_twice, e]
  slots sl hs := (k.slots sl hs).trans (h.slots sl hs)
  windows q hq := (k.windows q hq).trans (h.windows q hq)

/-- Replacing the slots and windows of the issuing residency, all but those of the fibre and its spindle. -/
theorem onlyFibre_modRes {v : View} {s : State} {f : Residency → Residency}
    (hf : ∀ x, f x = { x with slots := (f x).slots, windows := (f x).windows })
    (hs : ∀ x sl, sl ≠ v.who.slot → kget (f x).slots sl = kget x.slots sl)
    (hw : ∀ x k, k ≠ spindleKey v.who.slot → kget (f x).windows k = kget x.windows k) :
    v.OnlyFibre s (s.modRes v.who.core v.who.res f) where
  rest := rfl
  bytes _ := rfl
  others n hn := core_modRes_ne s _ _ hn
  core := by rw [core_modRes_same, res_modRes_same]; congr 1; exact hf _
  slots sl h := by unfold State.fibre; rw [res_modRes_same]; exact hs _ sl h
  windows k h := by rw [res_modRes_same]; exact hw _ k h

theorem onlyFibre_setFibre (v : View) (s : State) (g : Fibre) : v.OnlyFibre s (s.putFibre v g) :=
  onlyFibre_modRes (f := fun x => { x with slots := kset x.slots v.who.slot g }) (fun _ => rfl)
    (fun _ _ h => kget_kset_ne _ _ h) (fun _ _ _ => rfl)

/-- What changing the issuing fibre does. -/
theorem onFibre_becomes {v : View} {s : State} {f : Fibre} (g : Fibre → Fibre)
    (h : s.fibre v.who.core v.who.res v.who.slot = some f) : v.BecomesFibre s (s.onFibre v g) (g f) := by
  rw [onFibre_of s v g h]
  exact ⟨onlyFibre_setFibre v s _, by simp [State.putFibre], by simp [State.putFibre]⟩

/-- What an instruction that only changes its fibre and goes on does. -/
theorem retire_becomes {v : View} {s : State} (h : s.view = some v) : v.BecomesFibre s (s.retire v) (v.fib.retire v.who.ply) :=
  onFibre_becomes _ (view_spec h).2.2.1

/-! ### Reading and writing registers -/

/-- The registers of a fibre but for the main and operand files. -/
def SameButFiles (f g : Fibre) : Prop := g = { f with regs := { f.regs with v := g.regs.v, o := g.regs.o } }

theorem sameButFiles_refl (f : Fibre) : SameButFiles f f := rfl

theorem sameButFiles_trans {f g h : Fibre} (a : SameButFiles f g) (b : SameButFiles g h) : SameButFiles f h := by
  unfold SameButFiles at *
  rw [b, a]

/-- What writing registers of the issuing fibre does: `w id` is the register afterwards. -/
structure Writes (v : View) (s t : State) (w : RegId → Reg) : Prop where
  only : v.OnlyFibre s t
  fibre : ∀ f, s.fibre v.who.core v.who.res v.who.slot = some f →
    ∃ g, t.fibre v.who.core v.who.res v.who.slot = some g ∧ SameButFiles f g
  regs : ∀ id, id.inFile = true → t.getReg v id = w id

theorem writes_refl (v : View) (s : State) : Writes v s s (s.getReg v) where
  only := onlyFibre_refl v s
  fibre f h := ⟨f, h, rfl⟩
  regs _ _ := rfl

theorem getV_setWindow (h : Header) (r : Residency) (slot : Nat) (f : Fibre) {i j : Nat} (x : Reg) (hw : h.inWindow i = true) :
    getV h { r with
      windows := kset r.windows (spindleKey slot)
        (setAt (kgetD r.windows (spindleKey slot) []) (i - h.wfirst) x fun k => Reg.dead (h.tag (k + h.wfirst)) h.width) }
      slot f j = if j = i then x else getV h r slot f j := by
  have hi : h.wfirst ≤ i := by simp only [Header.inWindow, Bool.and_eq_true, decide_eq_true_eq] at hw; exact hw.1
  unfold getV
  by_cases hj : j = i
  · subst hj
    rw [if_pos hw, if_pos rfl]
    simp only [kgetD_kset_same]
    exact getD_setAt_same _ _ _ _ _
  · rw [if_neg hj]
    by_cases hwj : h.inWindow j = true
    · have hj' : h.wfirst ≤ j := by simp only [Header.inWindow, Bool.and_eq_true, decide_eq_true_eq] at hwj; exact hwj.1
      rw [if_pos hwj, if_pos hwj]
      simp only [kgetD_kset_same]
      have := getD_setAt_ne (kgetD r.windows (spindleKey slot) []) (i := i - h.wfirst) (j := j - h.wfirst) x
        (fun k => Reg.dead (h.tag (k + h.wfirst)) h.width) (by omega)
      simp only [Nat.sub_add_cancel hj'] at this
      exact this
    · rw [if_neg hwj, if_neg hwj]

theorem getV_setOwn (h : Header) (r : Residency) (slot : Nat) (f : Fibre) {i j : Nat} (x : Reg) (hw : ¬h.inWindow i = true) :
    getV h r slot { f with regs := { f.regs with v := setAt f.regs.v i x fun k => Reg.dead (h.tag k) h.width } } j =
      if j = i then x else getV h r slot f j := by
  unfold getV
  by_cases hj : j = i
  · subst hj
    rw [if_neg hw, if_pos rfl]
    exact getD_setAt_same f.regs.v j x (fun k => Reg.dead (h.tag k) h.width) _
  · rw [if_neg hj]
    split
    · rfl
    · exact getD_setAt_ne f.regs.v x (fun k => Reg.dead (h.tag k) h.width) hj

theorem getO_setOwn (h : Header) (f : Fibre) {i j : Nat} (x : Reg) :
    getO h { f with regs := { f.regs with o := setAt f.regs.o i x fun _ => Reg.dead 2 h.width } } j =
      if j = i then x else getO h f j := by
  unfold getO
  by_cases hj : j = i
  · subst hj
    rw [if_pos rfl]
    exact getD_setAt_same f.regs.o j x (fun _ => Reg.dead 2 h.width) _
  · rw [if_neg hj]
    exact getD_setAt_ne f.regs.o x (fun _ => Reg.dead 2 h.width) hj

theorem ite_v {i j : Nat} {x y : Reg} : (if RegId.v j = RegId.v i then x else y) = if j = i then x else y := by
  by_cases h : j = i <;> simp [h]
theorem ite_o {i j : Nat} {x y : Reg} : (if RegId.o j = RegId.o i then x else y) = if j = i then x else y := by
  by_cases h : j = i <;> simp [h]

/-- Writing one register leaves the others. -/
theorem putReg_writes {v : View} {s : State} {f : Fibre} (h : s.fibre v.who.core v.who.res v.who.slot = some f)
    (id : RegId) (x : Reg) (hid : id.inFile = true) :
    Writes v s (s.putReg v id x) (fun k => if k = id then x else s.getReg v k) := by
  cases id with
  | v i =>
    simp only [State.putReg, State.setV]
    by_cases hw : v.team.hdr.inWindow i = true
    · rw [if_pos hw]
      have e : (s.modRes v.who.core v.who.res fun res => { res with
          windows := kset res.windows (spindleKey v.who.slot)
            (setAt (kgetD res.windows (spindleKey v.who.slot) []) (i - v.team.hdr.wfirst) x fun k =>
              Reg.dead (v.team.hdr.tag (k + v.team.hdr.wfirst)) v.team.hdr.width) }).fibre v.who.core v.who.res
          v.who.slot = some f := by simpa [State.fibre] using h
      refine ⟨onlyFibre_modRes (fun _ => rfl) (fun _ _ _ => rfl) (fun _ _ hk => kget_kset_ne _ _ hk),
        fun g hg => ⟨g, by rw [e, ← h, hg], rfl⟩, fun k hk => ?_⟩
      simp only [State.getReg, e, h]
      cases k with
      | v j =>
        simp only [res_modRes_same]
        rw [getV_setWindow _ _ _ _ _ hw, ite_v]
      | o j => simp
      | la => cases hk
      | lm => cases hk
    · rw [if_neg hw, modFibre_of s _ h]
      refine ⟨onlyFibre_setFibre v s _, fun g hg => ⟨_, fibre_setFibre_same _ _ _ _ _, ?_⟩, fun k hk => ?_⟩
      · rw [h] at hg; cases hg; rfl
      · simp only [State.getReg, fibre_setFibre_same, h]
        cases k with
        | v j =>
          simp only
          rw [ite_v, ← getV_setOwn _ _ _ _ _ hw]
          simp only [getV, windows_setFibre]
        | o j => simp [getO]
        | la => cases hk
        | lm => cases hk
  | o i =>
    simp only [State.putReg, State.setO]
    rw [modFibre_of s _ h]
    refine ⟨onlyFibre_setFibre v s _, fun g hg => ⟨_, fibre_setFibre_same _ _ _ _ _, ?_⟩, fun k hk => ?_⟩
    · rw [h] at hg; cases hg; rfl
    · simp only [State.getReg, fibre_setFibre_same, h]
      cases k with
      | v j => simp [getV]
      | o j => simp only; rw [ite_o, ← getO_setOwn]
      | la => cases hk
      | lm => cases hk
  | la => cases hid
  | lm => cases hid

theorem writes_trans {v : View} {s t u : State} {a : RegId → Reg} {b : RegId → Reg} (h : Writes v s t a)
    (k : Writes v t u b) : Writes v s u b where
  only := onlyFibre_trans h.only k.only
  fibre f hf := by
    obtain ⟨g, hg, e⟩ := h.fibre f hf
    obtain ⟨g', hg', e'⟩ := k.fibre g hg
    exact ⟨g', hg', sameButFiles_trans e e'⟩
  regs := k.regs

/-! ### Last uses -/

/-- Registers after some of them are killed. -/
def killed (ids : List RegId) (w : RegId → Reg) (k : RegId) : Reg := if ids.contains k then (w k).kill else w k

theorem kill_twice (r : Reg) : r.kill.kill = r.kill := rfl

theorem killAll_writes {v : View} (ids : List RegId) : ∀ {s : State} {f : Fibre},
    s.fibre v.who.core v.who.res v.who.slot = some f → (∀ id ∈ ids, id.inFile = true) →
    Writes v s (ids.foldl (fun s r => s.putReg v r (s.getReg v r).kill) s) (killed ids (s.getReg v)) := by
  induction ids with
  | nil => intro s f _ _; exact writes_refl v s
  | cons id ids ih =>
    intro s f h hin
    have h1 := putReg_writes h id (s.getReg v id).kill (hin id (by simp))
    obtain ⟨g, hg, -⟩ := h1.fibre f h
    have h2 := ih hg (fun k hk => hin k (by simp [hk]))
    have h3 := writes_trans h1 h2
    refine ⟨h3.only, h3.fibre, fun k hk => ?_⟩
    rw [List.foldl_cons, h3.regs k hk]
    simp only [killed, h1.regs k hk, List.contains_cons]
    by_cases e : k = id
    · subst e; simp [kill_twice]
    · rw [if_neg e]
      have e' : (k == id) = false := by simpa using e
      simp [e']

/-- The sources of a field are main and operand-file registers, unless it names a latch. -/
theorem regs_inFile {x : Src} {n : Nat} (hl : x ≠ .la) (hm : x ≠ .lm) : ∀ id ∈ x.regs n, id.inFile = true := by
  cases x <;> simp_all [Src.regs, RegId.inFile]

/-- A field with a last-use mark names no latch (03 R58). -/
theorem lastUse_srcOf {u : Use} (v : View) (h : lastUse u.field = true) :
    v.srcOf u ≠ .la ∧ v.srcOf u ≠ .lm := by
  have key : Machine.srcOf u.field ≠ some .la ∧ Machine.srcOf u.field ≠ some .lm := by
    have hk : u.field.getLsbD 8 = true := h
    constructor <;> intro e <;> simp only [Machine.srcOf, hk] at e <;> split at e <;> simp at e
  constructor <;> intro e <;> simp only [View.srcOf] at e <;> cases hs : Machine.srcOf u.field with
  | none => rw [hs] at e; simp [View.step] at e
  | some x => cases x <;> simp_all [View.step]

theorem lastUses_writes {v : View} {s : State} {f : Fibre} (h : s.fibre v.who.core v.who.res v.who.slot = some f)
    (fm : Form) : Writes v s (s.lastUses v fm) (fun id => if v.marked fm id then (s.getReg v id).kill else s.getReg v id) := by
  unfold State.lastUses View.marked
  generalize fm.uses = us
  induction us generalizing s f with
  | nil => exact writes_refl v s
  | cons u us ih =>
    simp only [List.filter_cons]
    by_cases hu : lastUse u.field = true
    · rw [if_pos hu, List.foldl_cons]
      have hl := lastUse_srcOf v hu
      have h1 := killAll_writes ((v.srcOf u).regs u.n) h (regs_inFile hl.1 hl.2)
      obtain ⟨g, hg, -⟩ := h1.fibre f h
      have h3 := writes_trans h1 (ih hg)
      refine ⟨h3.only, h3.fibre, fun k hk => ?_⟩
      rw [h3.regs k hk]
      simp only [h1.regs k hk, killed, List.any_cons, hu, Bool.true_and]
      cases ((v.srcOf u).regs u.n).contains k
      · simp
      · simp [kill_twice]
    · rw [if_neg hu]
      have h3 := ih h
      refine ⟨h3.only, h3.fibre, fun k hk => ?_⟩
      rw [h3.regs k hk]
      simp [hu]

/-! ### Results -/

theorem getReg_view {s : State} {v : View} (h : s.view = some v) {id : RegId} (hid : id.inFile = true) :
    s.getReg v id = v.reg id := by
  obtain ⟨-, -, hf, -, -, -, hr⟩ := view_spec h
  cases id <;> simp_all [State.getReg, View.reg, RegId.inFile]

/-- One part of a result. -/
theorem writeValue_writes {v : View} {s : State} {f : Fibre} (h : s.fibre v.who.core v.who.res v.who.slot = some f)
    (fm : Form) (d : BitVec 7) {id : RegId} (hid : id.inFile = true) (hu : s.getReg v id = v.used fm id) (x : Value)
    (hx : v.takes fm id x ≠ .shape) :
    ∃ t, s.writeValue v d id x = .ok t ∧ Writes v s t (fun k => if k = id then
      (match v.takes fm id x with | .writes r => r | _ => s.getReg v id) else s.getReg v k) := by
  unfold State.writeValue
  rw [hu]
  simp only [View.takes] at hx ⊢
  generalize (v.used fm id).take v.width v.active v.fib.lanes x = tk at hx ⊢
  cases tk with
  | shape => exact absurd rfl hx
  | keeps =>
    refine ⟨s, rfl, ?_⟩
    have := writes_refl v s
    exact ⟨this.only, this.fibre, fun k _ => by split <;> simp [*]⟩
  | writes r => exact ⟨_, rfl, putReg_writes h id r hid⟩

/-- The registers of a destination lie in the main and operand files. -/
theorem destRegs_inFile (d : Dest) (n : Nat) : ∀ id ∈ d.regs n, id.inFile = true := by
  cases d <;> simp [Dest.regs, RegId.inFile]

theorem destRegs_nodup (d : Dest) {x y : RegId} (h : d.regs 2 = [x, y]) : y ≠ x := by
  cases d <;> simp [Dest.regs, List.range_succ] at h
  all_goals obtain ⟨rfl, rfl⟩ := h; simp

/-- Last uses and the write of a result. -/
theorem writeD_writes {s : State} {v : View} (h : s.view = some v) (fm : Form) (d : BitVec 7) (r : Result)
    (hr : v.Fits fm d r) : ∃ t, (s.lastUses v fm).writeD v d r = .ok t ∧ Writes v s t (v.after fm d r) := by
  obtain ⟨-, -, hf, -⟩ := view_spec h
  have h1 := lastUses_writes hf fm
  obtain ⟨g, hg, -⟩ := h1.fibre _ hf
  have hu : ∀ k : RegId, k.inFile = true → (s.lastUses v fm).getReg v k = v.used fm k := by
    intro k hk
    rw [h1.regs k hk, getReg_view h hk]
    rfl
  have hl : ((v.dest d).regs (if r.wide then 2 else 1)).length ≤ 2 := by
    cases v.dest d <;> cases r.wide <;> simp [Dest.regs]
  have hin := destRegs_inFile (v.dest d) (if r.wide then 2 else 1)
  unfold State.writeD
  have hp : v.parts d r = match (v.dest d).regs (if r.wide then 2 else 1) with
    | [x] => [(x, r.lo)]
    | [x, y] => [(x, r.lo), (y, r.hi)]
    | _ => [] := rfl
  rcases hd : (v.dest d).regs (if r.wide then 2 else 1) with _ | ⟨x, _ | ⟨y, _ | ⟨z, zs⟩⟩⟩
  · simp only [hd] at hp ⊢
    refine ⟨_, rfl, h1.only, h1.fibre, fun k hk => ?_⟩
    rw [hu k hk, View.after, hp]
    rfl
  · simp only [hd] at hp ⊢
    rw [hd] at hin
    have hx : v.takes fm x r.lo ≠ .shape := hr (x, r.lo) (by rw [hp]; simp)
    obtain ⟨t, ht, h2⟩ := writeValue_writes hg fm d (hin x (by simp)) (hu x (hin x (by simp))) r.lo hx
    refine ⟨t, ht, ?_⟩
    have h3 := writes_trans h1 h2
    refine ⟨h3.only, h3.fibre, fun k hk => ?_⟩
    rw [h3.regs k hk, View.after, hp]
    by_cases e : k = x
    · subst e
      simp only [if_true, List.find?_cons, beq_self_eq_true]
      cases v.takes fm k r.lo <;> simp [hu k hk]
    · have e' : (x == k) = false := by simpa using fun h => e h.symm
      simp [e, e', hu k hk]
  · simp only [hd] at hp ⊢
    rw [hd] at hin
    have hxy : y ≠ x := by
      cases hw : r.wide
      · rw [hw] at hd; cases hdd : v.dest d <;> simp [hdd, Dest.regs] at hd
      · rw [hw] at hd; exact destRegs_nodup _ hd
    have hx : v.takes fm x r.lo ≠ .shape := hr (x, r.lo) (by rw [hp]; simp)
    have hy : v.takes fm y r.hi ≠ .shape := hr (y, r.hi) (by rw [hp]; simp)
    obtain ⟨t, ht, h2⟩ := writeValue_writes hg fm d (hin x (by simp)) (hu x (hin x (by simp))) r.lo hx
    obtain ⟨g2, hg2, -⟩ := h2.fibre _ hg
    obtain ⟨u, hu', h3⟩ := writeValue_writes hg2 fm d (hin y (by simp))
      (by rw [h2.regs y (hin y (by simp)), if_neg hxy]; exact hu y (hin y (by simp))) r.hi hy
    refine ⟨u, ?_, ?_⟩
    · simp only [ht]; exact hu'
    · have h4 := writes_trans (writes_trans h1 h2) h3
      refine ⟨h4.only, h4.fibre, fun k hk => ?_⟩
      rw [h4.regs k hk, View.after, hp]
      by_cases ey : k = y
      · subst ey
        have e' : (x == k) = false := by simpa using fun h => hxy h.symm
        simp only [if_true, List.find?_cons, e', beq_self_eq_true]
        cases v.takes fm k r.hi <;> simp [h2.regs k hk, hxy, hu k hk]
      · rw [if_neg ey, h2.regs k hk]
        have ey' : (y == k) = false := by simpa using fun h => ey h.symm
        by_cases ex : k = x
        · subst ex
          simp only [if_true, List.find?_cons, beq_self_eq_true]
          cases v.takes fm k r.lo <;> simp [hu k hk]
        · have ex' : (x == k) = false := by simpa using fun h => ex h.symm
          simp [ex, ex', ey', hu k hk]
  · rw [hd] at hl; simp at hl

/-! ### The end of an instruction with a result -/

/-- Reading registers of the files is not affected by what else a fibre holds. -/
theorem getReg_setFibre_files {s : State} {v : View} {f : Fibre}
    (h : s.fibre v.who.core v.who.res v.who.slot = some f) (g : Fibre) (hv : g.regs.v = f.regs.v)
    (ho : g.regs.o = f.regs.o) (id : RegId) : (s.putFibre v g).getReg v id = s.getReg v id := by
  unfold State.getReg State.putFibre
  rw [fibre_setFibre_same, h]
  cases id <;> simp [getV, getO, hv, ho]

theorem latchWrite_getD (w : Nat) (xs : List DWord) (act : Mask) (f : Nat → DWord) (l : Nat) (h : l < w) :
    (latchWrite w xs act f).getD l 0 = if act.getLsbD l then f l else xs.getD l 0 := by
  simp [latchWrite, List.getD_eq_getElem?_getD, h]

/-- All that `finish` does. -/
theorem finish_delivers {s : State} {v : View} (h : s.view = some v) (fm : Form) (d : BitVec 7) (r : Result)
    (hr : v.Fits fm d r) : ∃ t, s.finish v fm d r = .ok t ∧ v.Delivers fm d r s t := by
  obtain ⟨-, -, hf, -⟩ := view_spec h
  obtain ⟨t, ht, h1⟩ := writeD_writes h fm d r hr
  obtain ⟨g, hg, eg⟩ := h1.fibre _ hf
  refine ⟨_, by unfold State.finish; rw [ht]; rfl, ?_⟩
  have e1 : t.writeLa v r.lane = t.putFibre v { g with regs := { g.regs with
      la := latchWrite v.width g.regs.la v.active r.lane, laPoison := g.regs.laPoison &&& ~~~v.active } } :=
    onFibre_of t v _ hg
  rw [e1]
  clear e1
  generalize hx : ({ g with regs := { g.regs with
      la := latchWrite v.width g.regs.la v.active r.lane, laPoison := g.regs.laPoison &&& ~~~v.active } } : Fibre) = x
  have hg2 : (t.putFibre v x).fibre v.who.core v.who.res v.who.slot = some x := by simp [State.putFibre]
  have e2 : (t.putFibre v x).retire v = (t.putFibre v x).putFibre v (x.retire v.who.ply) := onFibre_of _ v _ hg2
  rw [e2]
  refine ⟨onlyFibre_trans h1.only (onlyFibre_trans (onlyFibre_setFibre v t _) (onlyFibre_setFibre v _ _)),
    ⟨x.retire v.who.ply, by simp [State.putFibre], ?_, ?_⟩, fun id hid => ?_⟩
  · subst hx
    rw [SameButFiles] at eg
    rw [eg]
    simp only [regs_retire]
    exact retire_regs v.fib v.who.ply _
  · intro l hl
    subst hx
    rw [regs_retire]
    simp only
    rw [latchWrite_getD _ _ _ _ _ hl, eg]
  · rw [getReg_setFibre_files hg2 _ (by simp) (by simp),
      getReg_setFibre_files hg x (by rw [← hx]) (by rw [← hx])]
    exact h1.regs id hid

/-- All that `finishPlain` does. -/
theorem finishPlain_delivers {s : State} {v : View} (h : s.view = some v) (fm : Form) (d : BitVec 7) (r : Result)
    (hr : v.Fits fm d r) : ∃ t, s.finishPlain v fm d r = .ok t ∧ v.DeliversPlain fm d r s t := by
  obtain ⟨-, -, hf, -⟩ := view_spec h
  obtain ⟨t, ht, h1⟩ := writeD_writes h fm d r hr
  obtain ⟨g, hg, eg⟩ := h1.fibre _ hf
  refine ⟨_, by unfold State.finishPlain; rw [ht]; rfl, ?_⟩
  have e2 : t.retire v = t.putFibre v (g.retire v.who.ply) := onFibre_of _ v _ hg
  rw [e2]
  refine ⟨onlyFibre_trans h1.only (onlyFibre_setFibre v t _),
    ⟨g.retire v.who.ply, by simp [State.putFibre], ?_⟩, fun id hid => ?_⟩
  · rw [Fibre.GoesOn]
    rw [SameButFiles] at eg
    rw [eg]
    simp only [regs_retire]
    exact retire_regs v.fib v.who.ply _
  · rw [getReg_setFibre_files hg _ (by simp) (by simp)]
    exact h1.regs id hid

/-! ### The checks at issue -/

theorem needClean_of {xs : List Opnd} {m : Mask} (h : Clean xs m) : needClean xs m = .ok () := by
  unfold needClean need
  rw [if_pos]
  rw [List.all_eq_true]
  intro x hx
  simp [Opnd.poisonedIn, h x hx]

theorem check_of {v : View} {fm : Form} {st shape : Except Stop Unit} (h : v.Ready fm) (hst : st = .ok ())
    (hsh : shape = .ok ()) : v.check fm true st shape = .ok () := by
  subst hst hsh
  unfold View.check
  simp only [need, h.encoding, h.state, h.settled, h.idle, h.free, h.live]
  rfl

/-- An instruction of a pipe completes with its result. -/
theorem pipe_computes {s : State} {v : View} (h : s.view = some v) {fm : Form} {d : BitVec 7} {xs : List Opnd}
    {m : Mask} {r : Result} {st shape : Except Stop Unit} {x : Except Stop Result} (hst : st = .ok ()) (hsh : shape = .ok ())
    (hx : x = .ok r) (h1 : v.Ready fm) (h2 : Clean xs m) (h3 : v.Fits fm d r) :
    ∃ t, pipe v s fm d true st shape xs m x = .ok t ∧ v.Delivers fm d r s t := by
  obtain ⟨t, ht, hd⟩ := finish_delivers h fm d r h3
  refine ⟨t, ?_, hd⟩
  subst hx
  unfold pipe
  rw [check_of h1 hst hsh, needClean_of h2]
  exact ht

end Sys2Proof.Machine
end

