-- ==== Sys2Proof/Laws/Memory.lean ====
section
/-! SUPPORT. Memory: reading after writing, the canonical form, and that equal readings are equal data. -/

namespace Sys2Proof.Machine

/-! ### Reading after writing -/

@[simp] theorem readByte_nil (a : Nat) : readByte [] a = Config.clearedByte := rfl

theorem readByte_writeByte (m : Memory) (a x : Nat) (b : Byte) :
    readByte (writeByte m a b) x = if x = a then b else readByte m x := by
  unfold writeByte
  split
  · simp only [readByte, kgetD, kget_kerase]; split <;> simp [*]
  · simp only [readByte, kgetD, kget_kset]; split <;> simp

@[simp] theorem readByte_writeByte_same (m : Memory) (a : Nat) (b : Byte) : readByte (writeByte m a b) a = b := by
  simp [readByte_writeByte]

theorem readByte_writeByte_ne (m : Memory) {a x : Nat} (b : Byte) (h : x ≠ a) :
    readByte (writeByte m a b) x = readByte m x := by simp [readByte_writeByte, h]

/-- Bytes written somewhere else leave a byte as it was. -/
theorem readByte_writeAll_ne (m : Memory) (as : List Nat) (bs : List Byte) {x : Nat} (h : x ∉ as) :
    readByte (writeAll m as bs) x = readByte m x := by
  induction as generalizing m bs with
  | nil => simp [writeAll]
  | cons a as ih =>
    cases bs with
    | nil => simp [writeAll]
    | cons b bs =>
      simp only [List.mem_cons, not_or] at h
      simp [writeAll, ih _ _ h.2, readByte_writeByte_ne _ _ h.1]

/-- Bytes written at distinct addresses are read back. -/
theorem readAll_writeAll (m : Memory) (as : List Nat) (bs : List Byte) (h : as.Nodup) (n : bs.length = as.length) :
    readAll (writeAll m as bs) as = bs := by
  induction as generalizing m bs with
  | nil => exact (List.length_eq_zero_iff.mp n).symm ▸ rfl
  | cons a as ih =>
    cases bs with
    | nil => simp at n
    | cons b bs =>
      rw [List.nodup_cons] at h
      have := ih (writeByte m a b) bs h.2 (by simpa using n)
      simp only [readAll] at this
      simp [readAll, writeAll, this, readByte_writeAll_ne _ _ _ h.1]

theorem span_nodup (a n : Nat) : (span a n).Nodup := by
  unfold span
  exact List.nodup_range.map fun _ _ h => by omega

theorem mem_span (a n x : Nat) : x ∈ span a n ↔ a ≤ x ∧ x < a + n := by
  simp only [span, List.mem_map, List.mem_range]
  exact ⟨fun ⟨i, h, e⟩ => by omega, fun h => ⟨x - a, by omega, by omega⟩⟩

@[simp] theorem span_length (a n : Nat) : (span a n).length = n := by simp [span]

/-- A store into memory is read back, and every byte outside it stays. -/
theorem readByte_store_ne (s : State) (as : List Nat) (bs : List Byte) {x : Nat} (h : x ∉ as) :
    readByte (s.store as bs).mem x = readByte s.mem x := readByte_writeAll_ne s.mem as bs h

theorem readAll_store (s : State) (as : List Nat) (bs : List Byte) (h : as.Nodup) (n : bs.length = as.length) :
    readAll (s.store as bs).mem as = bs := readAll_writeAll s.mem as bs h n

/-! ### The canonical form -/

theorem Memory.wf_iff (m : Memory) :
    Memory.wf m = true ↔ krising m = true ∧ ∀ c ∈ m, c.2 ≠ Config.clearedByte := by
  simp [Memory.wf]

theorem Memory.wf_nil : Memory.wf [] = true := rfl

theorem Memory.wf_writeByte {m : Memory} (a : Nat) (b : Byte) (h : Memory.wf m = true) :
    Memory.wf (writeByte m a b) = true := by
  rw [Memory.wf_iff] at *
  unfold writeByte
  split
  · exact ⟨krising_kerase a h.1, fun c hc => h.2 c (mem_kerase hc)⟩
  · refine ⟨krising_kset a b h.1, fun c hc => ?_⟩
    rcases mem_kset hc with rfl | hc
    · assumption
    · exact h.2 c hc

theorem Memory.wf_writeAll {m : Memory} (as : List Nat) (bs : List Byte) (h : Memory.wf m = true) :
    Memory.wf (writeAll m as bs) = true := by
  induction as generalizing m bs with
  | nil => simpa [writeAll] using h
  | cons a as ih =>
    cases bs with
    | nil => simpa [writeAll] using h
    | cons b bs => exact ih bs (Memory.wf_writeByte a b h)

theorem Memory.wf_writeNat {m : Memory} (a n x : Nat) (h : Memory.wf m = true) : Memory.wf (writeNat m a n x) = true :=
  Memory.wf_writeAll _ _ h

theorem krising_filter {α : Type} {m : KMap α} (p : Nat × α → Bool) (h : krising m = true) :
    krising (m.filter p) = true := by
  induction m with
  | nil => rfl
  | cons q m ih =>
    rw [List.filter_cons]
    split
    · exact krising_cons (ih (krising_tail h)) fun r hr => krising_head h r (List.mem_of_mem_filter hr)
    · exact ih (krising_tail h)

/-- Clearing some addresses keeps the form. -/
theorem Memory.wf_filter {m : Memory} (p : Host.Cell → Bool) (h : Memory.wf m = true) : Memory.wf (m.filter p) = true := by
  rw [Memory.wf_iff] at *
  exact ⟨krising_filter p h.1, fun c hc => h.2 c (List.mem_of_mem_filter hc)⟩

theorem Memory.wf_store {s : State} (as : List Nat) (bs : List Byte) (h : Memory.wf s.mem = true) :
    Memory.wf (s.store as bs).mem = true := Memory.wf_writeAll as bs h

/-- Posting an event keeps the form of the host's memory (19 R396). -/
theorem Memory.wf_post {s : State} (t : EventType) (a c : Nat) (p : List Nat) (h : Memory.wf s.hostMem = true) :
    Memory.wf (s.post t a c p).hostMem = true := by
  simp only [State.post, HostFn.ringStore]
  split
  · exact Memory.wf_writeAll _ _ h
  · exact h

@[simp] theorem hostMem_poisonAtoms (s : State) (as : List Nat) : (s.poisonAtoms as).hostMem = s.hostMem := rfl

/-! ### Equal memories are equal data -/

theorem readByte_lt_head {p : Host.Cell} {m : Memory} (h : krising (p :: m) = true) {x : Nat} (hx : x < p.1) :
    kget (p :: m) x = none := by
  induction m generalizing p with
  | nil => simp [kget, Nat.ne_of_lt hx]
  | cons q m ih =>
    have hq : x < q.1 := Nat.lt_trans hx (krising_head h q (by simp))
    have := ih (krising_tail h) hq
    simp only [kget, Nat.ne_of_lt hx, if_false] at this ⊢
    exact this

/-- Two memories in canonical form that read alike are the same list. -/
theorem Memory.eq_of_read {m n : Memory} (hm : Memory.wf m = true) (hn : Memory.wf n = true)
    (h : ∀ a, readByte m a = readByte n a) : m = n := by
  rw [Memory.wf_iff] at hm hn
  obtain ⟨rm, cm⟩ := hm
  obtain ⟨rn, cn⟩ := hn
  induction m generalizing n with
  | nil =>
    cases n with
    | nil => rfl
    | cons q n => exact absurd (by simpa [readByte, kgetD, kget] using (h q.1).symm) (cn q (by simp))
  | cons p m ih =>
    cases n with
    | nil => exact absurd (by simpa [readByte, kgetD, kget] using h p.1) (cm p (by simp))
    | cons q n =>
      have hpq : p.1 = q.1 := by
        rcases Nat.lt_trichotomy p.1 q.1 with hl | he | hl
        · have := h p.1
          simp only [readByte, kgetD, readByte_lt_head rn hl] at this
          exact absurd (by simpa [kget] using this) (cm p (by simp))
        · exact he
        · have := h q.1
          simp only [readByte, kgetD, readByte_lt_head rm hl] at this
          exact absurd (by simpa [kget] using this.symm) (cn q (by simp))
      obtain ⟨pa, pb⟩ := p
      obtain ⟨qa, qb⟩ := q
      simp only at hpq
      subst hpq
      have hb : pb = qb := by simpa [readByte, kgetD, kget] using h pa
      subst hb
      have tail : ∀ a, readByte m a = readByte n a := fun a => by
        by_cases ha : a = pa
        · have lo : ∀ {l : Memory}, krising ((pa, pb) :: l) = true → kget l a = none := fun {l} hl => by
            cases l with
            | nil => rfl
            | cons r l => exact readByte_lt_head (krising_tail hl) (by rw [ha]; exact krising_head hl r (by simp))
          simp [readByte, kgetD, lo rm, lo rn]
        · simpa [readByte, kgetD, kget, ha] using h a
      rw [ih tail (krising_tail rm) (fun c hc => cm c (List.mem_cons_of_mem _ hc)) (krising_tail rn)
        (fun c hc => cn c (List.mem_cons_of_mem _ hc))]

end Sys2Proof.Machine
end

