-- ==== Sys2Proof/Tests/Slice0.lean ====
section
/-! SUPPORT. Tests of the model on fixed values, and for every statement with hypotheses a state and operands that meet
them.  What a test expects is computed by hand from the rule that it names. -/

namespace Sys2Proof.Tests

set_option Elab.async false

open Sys2Proof Sys2Proof.Machine

/-! ### A small state: one team of core 0, its fibre 0 issuing with every register live -/

/-- v0:v1 = 0x1000, v2:v3 = 0x200100, v4 = 1, v5 = 3, v6:v7 = 0 (U); v8 to v15 are lane + 16 × number (A); v16 to v63 hold
lane + number per lane (G). -/
def demoVal (i : Nat) : RegVal :=
  if i = 0 then .u 0x1000 else if i = 2 then .u 0x200100 else if i = 4 then .u 1 else if i = 5 then .u 3
  else if i < 8 then .u 0
  else if i < 16 then .a (BitVec.ofNat 32 (16 * i)) 1
  else .g ((List.range 16).map fun l => BitVec.ofNat 32 (l + i))

def demoHeader : Header :=
  { probeHeader with fibres := 8, flags := 0x0A, scratch := 0x80000, handler := 0x200400 }

def demoFibre (mode : Word) : Fibre :=
  let f := launchFibre demoHeader 0 0x200000 0xFFFF
  { f with
    regs := { f.regs with
      v := (List.range 64).map fun i => { live := true, val := demoVal i, poison := 0 }
      o := List.replicate 16 { live := true, val := .g ((List.range 16).map fun l => BitVec.ofNat 32 l), poison := 0 }
      preds := [0x00FF, 0xF0F0, 0, 0xFFFF, 0, 0, 0, 0] }
    spec := { f.spec with mode := mode } }

def demoTeam : Team :=
  { ctx := 0, launch := 0, hdr := demoHeader, hdrAddr := 0, num := 0, handler := 0x200400, barriers := [], bins := []
    quantumAt := 0, save := none, det := none }

/-- The page of 64 KiB at 0x200000, with every permission (17 R345). -/
def demoLeaf : Leaf := { ctx := 0, va := 0x200000, size := 65536, entry := 0x100001F }

def demoWith (mode : Word) (fib : Fibre → Fibre) (team : Team → Team) (res : Residency → Residency) (core : Core → Core) : State :=
  let r := res { Residency.empty with
    team := some (team demoTeam), slots := [(0, fib (demoFibre mode))], active := [(0, 0)] }
  { State.reset with
    cores := [(0, core { Core.reset 0 with r0 := r, tlb := [demoLeaf], held := false, farReady := true })]
    homes := [(0, { Home.reset with down := false, farReady := true })]
    control := { State.reset.control with
      mode := 1, boot := { State.reset.control.boot with stage := 4, minimum := 0, images := [] }
      contexts := [(0, { fn := 0, mode := 1, device := 0, privileged := true, root := 0, presence := [0], checkSlot := 0
                         lseq := 0 })] } }

def demo (mode : Word) : State := demoWith mode id id id id

/-! ### Hypotheses as a check -/

def readyB (v : View) (fm : Form) : Bool :=
  fm.encOk && v.formOk fm && !v.owed (v.sourceRegs fm ++ v.destRegs fm) && !v.busy (v.sourceRegs fm ++ v.destRegs fm)
    && !v.held (v.destRegs fm) && (match v.liveOk fm with | .ok _ => true | .error _ => false)

theorem ready_of {v : View} {fm : Form} (h : readyB v fm = true) : v.Ready fm := by
  simp only [readyB, Bool.and_eq_true, Bool.not_eq_true'] at h
  obtain ⟨⟨⟨⟨⟨h1, h2⟩, h3⟩, h4⟩, h5⟩, h6⟩ := h
  refine ⟨h1, h2, h3, h4, h5, ?_⟩
  split at h6
  · assumption
  · cases h6

/-- What a statement asks of an instruction: its fields, the operands that must be clean in some lanes, a destination
that takes any result of its size (`w` registers, none for 0), and more. -/
structure Need where
  fm : Form
  xs : List Opnd := []
  mask : Mask := 0
  d : BitVec 7 := 0
  w : Nat := 0
  also : Bool := true

/-- Whether the registers of D hold G values: those take every result (03 R68). -/
def takesAny (v : View) (d : BitVec 7) (w : Nat) : Bool :=
  ((v.dest d).regs w).all fun id => match (v.reg id).val with | .g _ => true | _ => false

def Need.ok (v : View) (n : Need) : Bool :=
  readyB v n.fm && (n.xs.all fun x => x.poison &&& n.mask == 0) && (n.w == 0 || takesAny v n.d n.w) && n.also

def Need.Holds (v : View) (n : Need) : Prop :=
  v.Ready n.fm ∧ Clean n.xs n.mask ∧ (n.w ≠ 0 → ∀ r : Result, (if r.wide then 2 else 1) = n.w → v.Fits n.fm n.d r) ∧ n.also = true

theorem fits_any {v : View} {fm : Form} {d : BitVec 7} {r : Result} (h : takesAny v d (if r.wide then 2 else 1) = true) :
    v.Fits fm d r := by
  intro p hp
  have hid : p.1 ∈ (v.dest d).regs (if r.wide then 2 else 1) := by
    unfold View.parts at hp
    split at hp
    · rename_i x hx; rw [hx]; simp_all
    · rename_i x z hx; rw [hx]; simp_all; rcases hp with rfl | rfl <;> simp
    · cases hp
  have hg := List.all_eq_true.mp h _ hid
  have hu : (v.used fm p.1).val = (v.reg p.1).val := by unfold View.used Reg.kill; split <;> rfl
  unfold View.takes Reg.take
  cases hv : (v.reg p.1).val <;> simp_all
  split <;> simp

theorem holds_of {v : View} {n : Need} (h : n.ok v = true) : n.Holds v := by
  simp only [Need.ok, Bool.and_eq_true, Bool.or_eq_true, beq_iff_eq] at h
  obtain ⟨⟨⟨h1, h2⟩, h3⟩, h4⟩ := h
  refine ⟨ready_of h1, fun x hx => by simpa using List.all_eq_true.mp h2 x hx, fun hw r hr => ?_, h4⟩
  exact fits_any (by rw [hr]; exact h3.resolve_left hw)

/-- A state and its view meet every need listed. -/
def Witnessed (s : State) (f : View → List Need) : Prop := ∃ v, s.view = some v ∧ ∀ n ∈ f v, n.Holds v

theorem witnessed {s : State} {f : View → List Need} (h : (s.view.any fun v => (f v).all (Need.ok v)) = true) :
    Witnessed s f := by
  cases hv : s.view with
  | none => simp [hv] at h
  | some v => exact ⟨v, hv, fun n hn => holds_of (List.all_eq_true.mp (by simpa [hv] using h) n hn)⟩

/-- The needs of an instruction with a result of `w` registers in D. -/
def need (v : View) (uses : List Use) (xs : List Opnd) (d : BitVec 7) (w : Nat) (reads also : Bool) : Need :=
  { fm := { uses := uses, d := some (dUse d w reads) }, xs := xs, mask := v.active, d := d, w := w, also := also }

/-- No enabled exception occurs in an active lane. -/
def quietB (v : View) (f : Nat → Exc) : Bool := v.activeLanes.all fun l => f l &&& modeEnables v.fib.spec.mode == 0

theorem quiet_of {v : View} {f : Nat → Exc} (h : quietB v f = true) : v.Quiet f := fun l hl => by
  simpa using List.all_eq_true.mp h l hl

/-! ### Encoding -/

/-- Decoding: one word of each major family, written from its encoding (06 R143 to R150). -/
theorem test_decode_families :
    decodeWord ((0x01 <<< 25) ||| (2 <<< 18) ||| (0x0A0 <<< 9)) 0 = .iadd false 2 0x0A0 0 ∧
    decodeWord ((1 <<< 31) ||| (0x3E <<< 25) ||| (10 <<< 18) ||| (3 <<< 13)) 0x28200040 = .loop true 10 3 0x28200040 ∧
    decodeWord 0x1C00_0800 0 = .bnkBmode false 4 ∧ decodeWord 0x1C08_0805 0 = .bnkBmac false 0 2 4 ∧
    decodeWord 0x7E58_140D 0 = .pcown false 22 10 ∧ decodeWord 0x7E00_140E 0 = .pcrel false 10 := by decide +kernel

/-- Words of no instruction: major opcode 0, and a function code beyond INTX's twelve (06 R143, R147). -/
theorem test_decode_illegal :
    decodeWord 0x00000000 0 = .ill false 0 ∧ decodeWord 0x3200000C 0 = .unassignedFunctionCode 0x3200000C := by
  decide +kernel

/-! ### Well-formed terms -/

/-- A term that each check of WellFormed refuses. -/
theorem test_ill_formed :
    (Instr.unassignedFunctionCode 0x02094000).wellFormed = false ∧ (Instr.cvt false 0 0 14 1 0).wellFormed = false ∧
    (Instr.registerWrite (.die 8) 0 0).wellFormed = false ∧ (Instr.registerWrite (.bar0 17) 0 0).wellFormed = false ∧
    (Instr.registerWrite (.queue 64) 0 0).wellFormed = false ∧ (Instr.uncorrectableError (.atom 16)).wellFormed = false ∧
    (Instr.uncorrectableError (.root 4096)).wellFormed = false ∧ (Instr.queueConsume 65600).wellFormed = false ∧
    (Instr.teamEnd 640 0).wellFormed = false ∧ (Instr.teamEnd 0 2).wellFormed = false ∧
    (Instr.epochEnd 8).wellFormed = false ∧ (Instr.regionFree 16 0).wellFormed = false ∧
    (Instr.portReset 12).wellFormed = false ∧ (Instr.arvadd 64 1).wellFormed = false := by decide +kernel

/-- Terms at the ends of the ranges are well formed. -/
theorem witness_EncodeDecode :
    (Instr.teamEnd 639 1).wellFormed = true ∧ (Instr.epochEnd 7).wellFormed = true ∧
    (Instr.regionFree 15 0).wellFormed = true ∧ (Instr.portReset 11).wellFormed = true ∧
    (Instr.arvadd 63 1).wellFormed = true ∧ (Instr.iadd false 2 0x0A0 0).wellFormed = true ∧
    (Instr.registerWrite (.die 7) 0 0).wellFormed = true ∧ (Instr.uncorrectableError (.atom 32)).wellFormed = true ∧
    (Instr.unassignedFunctionCode 0x3200000C).wellFormed = true ∧ (Instr.queueConsume 65599).wellFormed = true := by
  decide +kernel

/-! ### The machine -/

/-- `demo` with its first words written at 0x200000: an IADD, and LOOP with its step word. -/
def demoCode : State :=
  { demo 2 with mem := writeAll [] (span 0x1000000 12) (bytesOfNat 4 0x02414000 ++ bytesOfNat 4 0x7C140000 ++ bytesOfNat 4 0x28200040) }

/-- What the first clauses of StepRunsDecoded ask of a state whose quadrant 0 of core 0 is to issue: its one ply, the ply's
instruction, and whether that stalls, so that nothing issues. -/
def issuesB (s : State) (rest : List Move) (stalls : Bool) (soft : Bool := false) : Bool :=
  let s0 : State := { s.settleSpindles with agenda := rest }
  let s1 := ({ s0 with clock := s0.clock + 1 } : State).openQuadrant 0 0
  let s2 := (s1.offered 0 0).foldl State.tryStall s1
  let w : Who := { core := 0, res := 0, slot := 0, ply := 0 }
  let issues (s : State) : Bool := (s.prepare w).view.any fun v =>
    v.fib.sched.softPending == soft && match (s.prepare w).fetchInstr v with
      | .ok i => (match exec i (s.prepare w) with
        | .next t => t.stalledAt w == stalls
        | _ => false)
      | .error _ => false
  s.copies == [] && s1.offered 0 0 == [w] && issues s1 &&
    if stalls then s2.quadrantIssue 0 0 == none else s2.quadrantIssue 0 0 == some w && issues s2

/-- `demoCode` with a load of v16 outstanding, which the first word waits for. -/
def demoStalled : State :=
  { demoCode with cores := demoCode.cores.map fun p => (p.1, { p.2 with
      nextOp := 1
      ops := [(0, { res := 0, slot := 0, fibre := 0, ply := 0, path := 0, active := 0xFFFF, lm := 0xFFFF
                    body := .load [{ lane := 0, pas := span 0x3000000 4, data := [] }] (.v 16) 4 true true
                    done := false, pages := [], seq := 0 })] }) }

/-- A deterministic team, on logical core 0. -/
def demoDet : DetTeam :=
  { lcore := 0, epoch := 0, sampled := true, copyCore := 1, digest := 0, buf := [], check := [] }

/-- `demo` with a first word, a SOFT to come, and a quantum where the team is deterministic. -/
def softCode (det : Option DetTeam) (word : Nat) : State :=
  let s := demoWith 2 (fun f => { f with sched := { f.sched with softPending := true, left := det.map fun _ => 5 } })
    (fun t => { t with det := det }) id id
  { s with mem := writeAll [] (span 0x1000000 4) (bytesOfNat 4 word) }

/-- A word that retires nothing: TRAP with v4. -/
def trapWord : Nat := leNat ((encodeBytes (.trap false 4)).getD [])

/-- The quadrant that is to issue has a ply, whose words can be fetched: from the agenda, and by itself; it runs, and it stalls
alone; a LOOP word too; and a ply within a LOOP; a SOFT is to come, in a launch that is deterministic and one that is not, and at
an instruction that retires and one that traps; an event in the agenda, without check copies and with one. -/
theorem witness_StepRunsDecoded :
    issuesB { demoCode with agenda := [.issue 0 0] } [] false = true ∧
    issuesB { demoStalled with agenda := [.issue 0 0] } [] true = true ∧
    (issuesB demoCode [] false = true ∧ demoCode.agenda = [] ∧ autoEvent demoCode.settleSpindles = none ∧
      demoCode.settleSpindles.nextIssue = some (0, 0)) ∧
    (demoCode.view.any fun v => match demoCode.fetchWord v 0x200004, demoCode.fetchWord v 0x200008 with
      | .ok x, .ok n => isLoopWord x && n == 0x28200040
      | _, _ => false) = true ∧
    (let l : LoopState := { laddr := 0x200004, body := [0x02414000], step := 0, pass := 0, count := 2, idx := 0, loff := 0 }
     let s := demoWith 2 (fun f => { f with p0 := { f.p0 with loop := some l } }) id id id
     s.view.any (fun v => v.ply.loop.isSome && (match s.fetchInstr v with | .ok i => i == .iadd false 16 0x0A0 0 | .error _ => false)) = true) ∧
    (∀ det ∈ [none, some demoDet], issuesB (softCode det 0x02414000) [] false true = true ∧
      (softCode det 0x02414000).view.any (fun v => v.team.det == det) = true) ∧
    (∀ x ∈ [((0x02414000 : Nat), true), (trapWord, false)],
      (((softCode (some demoDet) x.1).prepare { core := 0, res := 0, slot := 0, ply := 0 }).view.any fun v =>
        let s := (softCode (some demoDet) x.1).prepare { core := 0, res := 0, slot := 0, ply := 0 }
        match s.fetchInstr v with
        | .ok i => (match exec i s with
          | .next t => (t.fibre 0 0 0).any fun g => decide (v.fib.sched.retired < g.sched.retired) == x.2
          | _ => false)
        | .error _ => false) = true) ∧
    (let s : State := { demo 2 with agenda := [.event (.portLinkChange 0 true)], copies := [(demo 2).imageOf 0 0 0 0] }
     s.copies ≠ [] ∧ (Move.event (.portLinkChange 0 true)).mirrored = true ∧
     (match exec (.portLinkChange 0 true) s with | .next _ => true | _ => false) = true) := by
  decide +kernel

/-- A step at the words of `demoCode` runs IADD v16, sv.lane, v0: v16 becomes 0x1000 + lane (02 R48, 03 R60). -/
theorem test_step_runs : (match step demoCode with
    | .next t => (t.fibre 0 0 0).any fun f => f.p0.pc == 0x200004 && (f.regs.v.map (·.val)).getD 16 (.u 0) ==
        .g ((List.range 16).map fun l => BitVec.ofNat 32 (0x1000 + l))
    | _ => false) = true := by decide +kernel

/-! ### Writing registers -/

/-- A register of each tag, and a result of each shape. -/
theorem witness_TagRules :
    let u : Reg := { live := true, val := .u 7, poison := 0 }
    let a : Reg := { live := true, val := .a 5 1, poison := 0 }
    let g : Reg := { live := true, val := .g [1, 2, 3, 4], poison := 0 }
    u.take 4 15 15 (Value.per fun _ => 1) = .shape ∧ u.take 4 15 15 (Value.aff 1 1) = .shape ∧
    u.take 4 0 15 (Value.uni 9 true) = .keeps ∧ u.take 4 0 15 (Value.uni 9 false) = .writes { u with val := .u 9 } ∧
    u.take 4 15 15 (Value.aff 9 0) = .writes { u with val := .u 9 } ∧
    a.take 4 15 15 (Value.per fun _ => 1) = .shape ∧ a.take 4 0 15 (Value.aff 1 1) = .keeps ∧
    a.take 4 15 15 (Value.aff 9 2) = .writes { a with val := .a 9 2 } ∧ a.take 4 1 15 (Value.aff 9 2) = .shape ∧
    a.take 4 1 15 (Value.aff 5 1) = .writes a ∧
    g.take 4 0 15 (Value.uni 9 false) = .keeps ∧ g.take 4 5 15 (Value.uni 9 false) = .writes { g with val := .g [9, 2, 9, 4] } := by
  decide +kernel

/-- Fields of each level, and of none; a view that reads each: with constants at both ends of their range. -/
theorem witness_TagRules_reads :
    ([0, 0x105, 0x40, 0x4F, 0x50, 0x80, 0x8F, 0x90, 0x9F, 0xA0, 0xB1, 0xB2, 0xC0, 0xC1, 0xC2, 0x180, 0x1C0].map fun f => srcOf f) =
      [some (.v 0), some (.v 5), some (.o 0), some (.o 15), none, some (.const 0), some (.const 15), some (.const (-16)),
       some (.const (-1)), some (.sv 32), some (.sv 49), none, some .la, some .lm, none, none, none] ∧
    ((demo 2).view.any fun v =>
      ((([0x05, 0x41, 0x90, 0x8F, 0xA0, 0xC0, 0xC1] : List (BitVec 9)).map fun f => v.srcOf { field := f, pos := .a, n := 1, fixed := true }) ==
        [.v 5, .o 1, .const (-16), .const 15, .sv 32, .la, .lm]) && v.team.det.isNone &&
      ((List.range 17).all fun k => v.srcOf { field := BitVec.ofNat 9 (0xA1 + k), pos := .b, n := 2, fixed := true } == .sv (33 + k)) &&
      v.dest 16 == .v 16 && v.dest 0x41 == .o 1) = true := by
  decide +kernel

/-- What each level reads, by 03 R58 to R60: v5 = 3, lane 2 of o1, the constant -16 under i32, under i64 and as the f16 number
0xCC00, sv.lane, sv.width. -/
theorem test_operand_reads : ((demo 2).view.any fun v =>
    let rd (f : BitVec 9) (n : Nat) (flt : Option Fmt) (l : Nat) := (v.read { field := f, pos := .a, n := n, fixed := true } flt).lane l
    rd 5 1 none 7 == 3 && rd 0x41 1 none 2 == 2 && rd 0x90 1 none 0 == 0xFFFFFFF0 && rd 0x90 2 none 0 == 0xFFFFFFFFFFFFFFF0 &&
      rd 0x90 1 (some .f16) 0 == 0xCC00 && rd 0xA0 1 none 9 == 9 && rd 0xA6 1 none 0 == 16) = true := by decide +kernel

/-! ### Integer and lane instructions -/

theorem witness_IntegerOperations : Witnessed (demo 2) fun v =>
    let ua := intUse v.mode 8 .a
    let ub := intUse v.mode 4 .b
    let xs := [v.read ua none, v.read ub none]
    [need v [ua, ub] xs 16 1 false true, need v [ua, ub] (xs ++ [v.readD 16 1]) 16 1 true true] :=
  witnessed (by decide +kernel)

/-- Under i64 the operands are pairs. -/
theorem witness_IntegerOperations_wide : Witnessed (demo 3) fun v =>
    let ua := intUse v.mode 20 .a
    let ub := intUse v.mode 0x102 .b
    let xs := [v.read ua none, v.read ub none]
    [need v [ua, ub] xs 16 2 false true, need v [ua, ub] (xs ++ [v.readD 16 2]) 16 2 true true] :=
  witnessed (by decide +kernel)

theorem witness_IntegerLogic : Witnessed (demo 4) fun v =>
    let ua := intUse v.mode 20 .a
    let ub := intUse v.mode 21 .b
    [need v [ua, ub] [v.read ua none, v.read ub none] 16 1 false true] :=
  witnessed (by decide +kernel)

theorem witness_ShiftsAndImmediates : Witnessed (demo 2) fun v =>
    let ua := intUse v.mode 8 .a
    [need v [ua] [v.read ua none] 16 1 false true, need v [] [] 16 1 false true, need v [] [v.readD 16 1] 16 1 true true] :=
  witnessed (by decide +kernel)

/-- The greatest immediate amount under i32 is 31. -/
theorem witness_ShiftsAndImmediates_shifts : Witnessed (demo 2) fun v =>
    let ua := intUse v.mode 20 .a
    let ub := wordUse 5 .b
    [need v [ua, ub] [v.read ua none, v.read ub none] 16 1 false true,
     need v [ua] [v.read ua none] 16 1 false (decide ((31 : BitVec 6).toNat < intWidth v.mode))] :=
  witnessed (by decide +kernel)

theorem witness_IntegerOperations_unary : Witnessed (demo 2) fun v =>
    let ua := intUse v.mode 20 .a
    [need v [ua] [v.read ua none] 16 1 false true] :=
  witnessed (by decide +kernel)

theorem witness_BitFields : Witnessed (demo 2) fun v =>
    let ua := intUse v.mode 20 .a
    let ub := wordUse 5 .b
    let xs := [v.read ua none, v.read ub none]
    [need v [ua, ub] xs 16 1 false true, need v [ua, ub] (xs ++ [v.readD 16 1]) 16 1 true true] :=
  witnessed (by decide +kernel)

theorem witness_Compares : Witnessed (demo 2) fun v =>
    let ua := intUse v.mode 8 .a
    let ub := intUse v.mode 20 .b
    [{ fm := { uses := [ua, ub], d := none }, xs := [v.read ua none, v.read ub none], mask := v.active
       also := decide ((5 : BitVec 4).toNat ≤ 5) },
     { fm := { uses := [ua], d := none }, xs := [v.read ua none], mask := v.active }] :=
  witnessed (by decide +kernel)

/-- SEL under i32 and, with pairs, under f64. -/
theorem witness_LaneMoves_select : ∀ m ∈ [2, 11], Witnessed (demo m) fun v =>
    let ua := valUse v.mode 20 .a
    let ub := valUse v.mode 22 .b
    [need v [ua, ub] [v.read ua none, v.read ub none] 16 (valRegs v.mode) false true] := by
  intro m hm
  simp only [List.mem_cons, List.not_mem_nil, or_false] at hm
  rcases hm with rfl | rfl <;> exact witnessed (by decide +kernel)

theorem witness_LaneOperations : Witnessed (demo 2) fun v =>
    let ua := valUse v.mode 20 .a
    [need v [ua] [v.read ua none] 16 1 false true] :=
  witnessed (by decide +kernel)

theorem witness_LaneOperations_sums : Witnessed (demo 2) fun v =>
    let ua := intUse v.mode 20 .a
    [need v [ua] [v.read ua none] 16 1 false (floatFmt v.mode == none)] :=
  witnessed (by decide +kernel)

/-- Under f32 with EINV enabled: no node of the tree and no operand is invalid. -/
theorem witness_LaneFloatSums : Witnessed (demo 0x1000A) fun v =>
    let ua := valUse v.mode 20 .a
    let x := v.read ua (some .f32)
    let leaf := fun l => if v.active.getLsbD l then BitVec.ofNat 64 ((x.lane l).toNat % 2 ^ 32) else (0 : DWord)
    [need v [ua] [x] 16 1 false (floatFmt v.mode == some .f32 &&
      quietB v (fun _ => v.activeLanes.foldl (fun e l => e ||| (prefixNode .f32 .rne leaf l).2) 0) &&
      quietB v (fun _ => (treeNode .f32 .rne leaf v.width.log2 0).2) &&
      quietB v fun l => if (decodeF .f32 (x.lane l)).snan then excInv else 0)] :=
  witnessed (by decide +kernel)

/-- SHUF, and BFLYX with its greatest bit column, 8 of 16 lanes. -/
theorem witness_LaneMoves : Witnessed (demo 2) fun v =>
    let ua := valUse v.mode 20 .a
    let ub := wordUse 5 .b
    let ux := wordUse 4 .a
    let x := v.read ux none
    [need v [ua, ub] [v.read ub none] 16 1 false (v.activeLanes.all fun l =>
      !(v.read ua none).poison.getLsbD ((v.read ub none).lane l).toNat),
     need v [ux] [x] 16 1 true ((8 : BitVec 9).toNat == 2 ^ 3 && decide (8 < v.width) && x.shape == .u &&
      (v.readD 16 1).shape == .g && (v.readD 16 1).poison == 0)] :=
  witnessed (by decide +kernel)

/-! ### Float instructions -/

/-- `demo` with v20 = 1.5 and v21 = 2 in every lane (f32), v24:v25 = 2 (f64), v30 a signalling NaN in lane 0 (f32). -/
def demoF (mode : Word) : State :=
  let put (i : Nat) (xs : List Word) (r : List Reg) : List Reg := r.set i { live := true, val := .g xs, poison := 0 }
  let all (r : List Reg) : List Reg :=
    put 20 (List.replicate 16 0x3FC00000) (put 21 (List.replicate 16 0x40000000) (put 24 (List.replicate 16 0)
      (put 25 (List.replicate 16 0x40000000) (put 30 (0x7F800001 :: List.replicate 15 0) r))))
  demoWith mode (fun f => { f with regs := { f.regs with v := all f.regs.v } }) id id id

/-- Under f32 with EINV, EDZ, EOVF and EUNF enabled, nothing occurs for 1.5 and 2 (and D, a small number). -/
theorem witness_FloatOperations : Witnessed (demoF 0xF000A) fun v =>
    let ua := fltUse v.mode 20 .a
    let ub := fltUse v.mode 21 .b
    let x := v.read ua (some .f32)
    let z := v.read ub (some .f32)
    let w := v.readD 21 1
    let p := fun l => decodeF .f32 (x.lane l)
    let q := fun l => decodeF .f32 (z.lane l)
    let f := floatFmt v.mode == some .f32 && v.core.shadow == 0
    [need v [ua, ub] [x, z] 16 1 false (f && quietB v (fun l => (addF .f32 .rne (p l) (q l)).2)
      && quietB v (fun l => (addF .f32 .rne (p l) (q l).negate).2) && quietB v (fun l => (mulF .f32 .rne (p l) (q l)).2)
      && quietB v (fun l => (divF .f32 .rne (p l) (q l)).2) && quietB v (fun l => (minMaxF .f32 false (p l) (q l)).2)
      && quietB v (fun l => (minMaxF .f32 true (p l) (q l)).2)),
     need v [ua, ub] [x, z, w] 21 1 true (f && quietB v (fun l => (fmaF .f32 .rne (decodeF .f32 (w.lane l)) (p l) (q l)).2))] :=
  witnessed (by decide +kernel)

theorem witness_FloatOperations_unary : Witnessed (demoF 0xF000A) fun v =>
    let ua := fltUse v.mode 20 .a
    let x := v.read ua (some .f32)
    let quiet := fun (g : FVal → FRes) => quietB v fun l => (g (decodeF .f32 (x.lane l))).2
    [need v [ua] [x] 16 1 false (floatFmt v.mode == some .f32 && v.core.shadow == 0 && quiet (signF .f32 (!·)) &&
      quiet (sqrtF .f32 .rne) && quiet (rcpF .f32 .rne) && quiet (rsqF .f32) && quiet (exp2F .f32) && quiet (log2F .f32) &&
      quiet (sinpF .f32) && quiet (cospF .f32) && quiet (integralF .f32 .rd true) && quiet (integralF .f32 .ru true) &&
      quiet (integralF .f32 .rz true) && quiet (integralF .f32 .rne false))] :=
  witnessed (by decide +kernel)

/-- The functions that f64 has: 2 has a square root and an exact reciprocal. -/
theorem witness_FloatOperations_f64 : Witnessed (demoF 0xF000B) fun v =>
    let ua := fltUse v.mode 24 .a
    let x := v.read ua (some .f64)
    let quiet := fun (g : FVal → FRes) => quietB v fun l => (g (decodeF .f64 (x.lane l))).2
    [need v [ua] [x] 16 2 false (floatFmt v.mode == some .f64 && v.core.shadow == 0 && quiet (sqrtF .f64 .rne) &&
      quiet (rcpF .f64 .rne)), need v [ua] [x] 16 1 false true] :=
  witnessed (by decide +kernel)

theorem witness_Compares_float : Witnessed (demoF 0xF000A) fun v =>
    let ua := fltUse v.mode 20 .a
    let ub := fltUse v.mode 21 .b
    let x := v.read ua (some .f32)
    let z := v.read ub (some .f32)
    [{ fm := { uses := [ua, ub], d := none }, xs := [x, z], mask := v.active, also := floatFmt v.mode == some .f32 &&
        quietB v fun l => if (decodeF .f32 (x.lane l)).snan || (decodeF .f32 (z.lane l)).snan then excInv else 0 }] :=
  witnessed (by decide +kernel)

/-- A signalling NaN in lane 0, with EINV enabled: every operation, function, comparison, lane operation and conversion of it
is invalid; a collected cell whose exponent is out of range; tile cells that are not exact in f16, with EINX; a tile row with a
signalling NaN. -/
theorem witness_MathTraps :
    Witnessed (demoF 0x1000A) (fun v =>
      let ua := fltUse v.mode 30 .a
      let ub := fltUse v.mode 21 .b
      let x := v.read ua (some .f32)
      let z := v.read ub (some .f32)
      let w := v.readD 21 1
      let p := fun l => decodeF .f32 (x.lane l)
      let q := fun l => decodeF .f32 (z.lane l)
      let two := fun (g : Nat → FRes) => !quietB v fun l => (g l).2
      let one := fun (g : FVal → FRes) => !quietB v fun l => (g (p l)).2
      let leaf := fun l => if v.active.getLsbD l then BitVec.ofNat 64 ((x.lane l).toNat % 2 ^ 32) else (0 : DWord)
      [need v [ua, ub] [x, z] 16 1 false (floatFmt v.mode == some .f32 && v.core.shadow == 0 &&
        two (fun l => addF .f32 .rne (p l) (q l)) && two (fun l => addF .f32 .rne (p l) (q l).negate) &&
        two (fun l => mulF .f32 .rne (p l) (q l)) && two (fun l => divF .f32 .rne (p l) (q l)) &&
        two (fun l => minMaxF .f32 false (p l) (q l)) && two (fun l => minMaxF .f32 true (p l) (q l))),
       need v [ua, ub] [x, z, w] 21 1 true (two fun l => fmaF .f32 .rne (decodeF .f32 (w.lane l)) (p l) (q l)),
       need v [ua] [x] 16 1 false (one (signF .f32 (!·)) && one (signF .f32 fun _ => false) && one (sqrtF .f32 .rne) && one (rcpF .f32 .rne) && one (rsqF .f32) && one (exp2F .f32) &&
        one (log2F .f32) && one (sinpF .f32) && one (cospF .f32) && one (integralF .f32 .rd true) &&
        one (integralF .f32 .ru true) && one (integralF .f32 .rz true) && one (integralF .f32 .rne false)),
       { fm := { uses := [ua, ub], d := none }, xs := [x, z], mask := v.active
         also := !quietB v fun l => if (p l).snan || (q l).snan then excInv else 0 },
       need v [valUse v.mode 30 .a] [x] 16 1 false (
        !quietB v (fun _ => v.activeLanes.foldl (fun e l => e ||| (prefixNode .f32 .rne leaf l).2) 0) &&
        !quietB v (fun _ => (treeNode .f32 .rne leaf v.width.log2 0).2) &&
        !quietB v (fun l => if (p l).snan then excInv else (0 : Exc))),
       { fm := { uses := [valUse v.mode 30 .a], d := some { dUse 16 1 false with fixed := true } }, xs := [x], mask := v.active
         also := !v.tableBusy && !quietB v fun l => (cvtLane 10 8 (CvtRnd.ofField 0 (modeRnd v.mode)) false (v.cvtDraw l) (x.lane l)).2 }]) ∧
    Witnessed (demo 0x110002) (fun v =>
      let ua : Use := { field := 20, pos := .a, n := 4, fixed := true }
      let xs := v.readQuad (v.srcOf ua)
      let w := v.readD 16 1
      [need v [ua] (w :: xs) 16 1 true (v.core.shadow == 0 && !quietB v fun l => (collect (quadLane xs l) (toSigned 32 (w.lane l).toNat)).2)]) ∧
    (let tiled (mode w : Word) (c : Word) : State := demoWith mode (fun f => { f with regs := { f.regs with
        v := f.regs.v.set 1 { live := true, val := .u w, poison := 0 }
        tiles := f.regs.tiles.set 0 { live := true, cells := List.replicate 1024 c, poison := [] } } }) id id id
     let asks (v : View) (type : Nat) (noisy : Bool) : List Need :=
       let ua : Use := { field := 1, pos := .a, n := 1, fixed := true }
       let x := v.read ua none
       let w := (x.lane 0).toNat
       [{ fm := { uses := [ua], d := some (dUse 16 1 false) }, xs := [x], mask := v.active, also := noisy && v.team.hdr.flags.getLsbD 1 &&
          x.shape == .u && decide (w % 16 < v.team.hdr.tiles) && !v.tileBusy (w % 16) && (v.fib.tile (w % 16)).poison == [] &&
          w / 2 ^ 14 == type && !v.tableBusy && v.core.shadow == 0 }]
     Witnessed (tiled 0x10000A 0x20000 0x3F800001) (fun v => asks v 8 (!quietB v fun l => (cvtLane 10 8
        (CvtRnd.mode (Rnd.ofCode (modeRnd v.mode))) false (v.cvtDraw l) (((v.fib.tile 0).cell 0).setWidth 64)).2)) ∧
     Witnessed (tiled 0x1000A 0 0x7F800001) fun v => asks v 0 (!quietB v fun _ =>
        if (decodeF .f32 (((v.fib.tile 0).cell 0).setWidth 64)).snan then excInv else 0)) :=
  ⟨witnessed (by decide +kernel), witnessed (by decide +kernel), witnessed (by decide +kernel), witnessed (by decide +kernel)⟩

/-- CVT from f32 to f16 of 1.5; CVT.w of a quad; QRND under i32 and f32. -/
theorem witness_Conversions :
    Witnessed (demoF 0x1000A) (fun v =>
      let ua := fltUse v.mode 20 .a
      let x := v.read ua (floatFmt v.mode)
      [{ fm := { uses := [ua], d := some { dUse 16 (typeRegs 8) false with fixed := true } }, xs := [x], mask := v.active
         d := 16, w := typeRegs 8, also := !v.tableBusy && v.core.shadow == 0 && quietB v fun l =>
          (cvtLane (modeType v.mode) 8 (CvtRnd.ofField 0 (modeRnd v.mode)) false (v.cvtDraw l) (x.lane l)).2 }]) ∧
    Witnessed (demo 2) (fun v =>
      let ua : Use := { field := 20, pos := .a, n := 4, fixed := true }
      let xs := v.readQuad (v.srcOf ua)
      [need v [ua] (v.readD 16 1 :: xs) 16 1 true
        (quietB v fun l => (collect (quadLane xs l) (toSigned 32 ((v.readD 16 1).lane l).toNat)).2)]) ∧
    Witnessed (demo 2) (fun v =>
      let ua := wordUse 20 .a
      let ub := wordUse 5 .b
      [need v [ua, ub] [v.read ua none, v.read ub none] 16 1 false (!v.tableBusy && modeType v.mode == 2)]) :=
  ⟨witnessed (by decide +kernel), witnessed (by decide +kernel), witnessed (by decide +kernel)⟩

/-! ### Moves and special registers -/

theorem witness_SpecialRegisters : Witnessed (demo 2) fun v =>
    let ua := valUse v.mode 8 .a
    [need v [ua] [v.read ua none] 16 1 false true,
     { fm := { uses := [], d := some { dUse 16 1 false with fixed := true } }, d := 16, w := 1 },
     { fm := { uses := [], d := some { dUse 16 2 false with fixed := true } }, d := 16, w := 2 }] :=
  witnessed (by decide +kernel)

/-- `demo` with v4 = 2 (a MODE), v5 = 0x27 (an FMT), v6:v7 = 0, v2:v3 a word address, v1 = 1 (a GANG of quadrant 0). -/
def demoSet : State :=
  let put (i : Nat) (x : Word) (r : List Reg) : List Reg := r.set i { live := true, val := .u x, poison := 0 }
  demoWith 2 (fun f => { f with regs := { f.regs with v := put 4 2 (put 5 0x27 (put 1 1 f.regs.v)) } }) id id id

theorem witness_SpecialRegisters_set : Witnessed demoSet fun v =>
    let law := fun (a : BitVec 9) (n : Nat) (fixed : Bool) (legal : DWord → Bool) =>
      let ua : Use := { field := a, pos := .a, n := n, fixed := fixed }
      let x := v.read ua none
      ({ fm := { uses := [ua], d := none }, xs := [x], mask := v.active, also := x.shape == .u && legal (x.lane 0) } : Need)
    [law 2 2 true (fun x => decide (x.toNat % 4 = 0 ∧ x.toNat < 2 ^ 56)),
     law 4 1 true (fun x => decide (x.toNat % 16 ≤ 12 ∧ x.toNat / 16 % 8 ≤ 4 ∧ x.toNat % 2 ^ 32 < 2 ^ 21)),
     law 5 1 true (fun x => decide (4 ≤ x.toNat / 8 % 16 ∧ x.toNat / 8 % 16 ≤ 9 ∧ x.toNat / 128 % 4 ≤ 1 ∧
       x.toNat / 512 % 8 ≤ 2 ∧ x.toNat / 4096 % 4 ≤ 1 ∧ x.toNat % 2 ^ 32 < 2 ^ 18)),
     law 6 1 false (fun _ => true),
     law 1 1 true (fun x => decide (x.toNat % 2 ^ 32 ∈ [0, 1, 2, 4, 8, 3, 12, 15]) && x.toNat.testBit (quadOf v.who.slot))] :=
  witnessed (by decide +kernel)

/-- A tree of parents in v20; TPATH's D, a G register, is live, and its result is uniform or per lane. -/
theorem witness_LaneMoves_trees : Witnessed (demo 2) fun v =>
    let ua := wordUse 20 .a
    let ub := wordUse 4 .a
    let x := v.read ua none
    let z := v.read ub none
    let all := if v.active = 0 then 0 else fullMask v.width
    [{ fm := { uses := [ua], d := some (dUse 16 1 false) }, xs := [x], mask := all, d := 16, w := 1 },
     { fm := { uses := [ub], d := some { dUse 16 1 true with reads := false } }, xs := [z], mask := v.active, d := 16, w := 1
       also := z.shape == .u && v.liveAll ((v.dest 16).regs 1) && (v.readD 16 1).poison &&& all == 0 }] :=
  witnessed (by decide +kernel)

/-! ### Control flow -/

def targetB (x : Addr) : Bool := decide (x.toNat % 4 = 0 ∧ 0x200000 ≤ x.toNat ∧ x.toNat < 2 ^ 56)

theorem targetB_iff (x : Addr) : targetB x = true ↔ Target x := by simp [targetB, Target]

/-- Targets legal and not: four words ahead, one word back (below 0x200000); LINK 0x200100 and 0; v2:v3 = 0x200100 and
v0:v1 = 0x1000. -/
theorem witness_Branches :
    Witnessed (demoWith 2 (fun f => { f with p0 := { f.p0 with link := 0x200100 } }) id id id) (fun v =>
      let x := fun (o : BitVec 18) => BitVec.ofNat 64 (((v.ply.pc.toNat : Int) + 4 * o.toInt) % 2 ^ 56).toNat
      let jump := fun (a : BitVec 9) (ok : Bool) =>
        let ua := v.addrUse a .a
        let z := v.read ua none
        ({ fm := { uses := [ua], d := none }, xs := [z], mask := fullMask v.width
           also := z.shape == .u && targetB (z.lane 0) == ok } : Need)
      [{ fm := { uses := [], d := none }, also := targetB (x 4) && !targetB (x (-1)) && targetB v.ply.link },
       jump 2 true, jump 0 false]) ∧
    Witnessed (demo 2) (fun v => [{ fm := { uses := [], d := none }, also := !targetB v.ply.link }]) :=
  ⟨witnessed (by decide +kernel), witnessed (by decide +kernel)⟩

def demoEntry : StackEntry := { arm := false, mask := 0xFF, addr := none, mode := 2, fmt := 0x27, bad := false }

/-- `demo` with `n` entries on chip and `k` spilled. -/
def demoStack (n k : Nat) : State :=
  demoWith 2 (fun f => { f with p0 := { f.p0 with stack := List.replicate n demoEntry, spilled := k } }) id id id

theorem witness_Stacks :
    (demoStack 3 0).view.any (fun v => v.ply.stack.length == 3 && v.ply.spilled == 0) = true ∧
    (demoStack 4 2).view.any (fun v => v.ply.stack.length == 4 && v.ply.stack.getLast? == some demoEntry && v.ply.spilled == 2 &&
      v.ply.stack.all fun x => x.addr == none && !x.arm) = true := by decide +kernel

/-- The cases of BRD: p2 holds no lane, p3 every lane, p0 the lanes 0 to 7; with an empty stack and the other ply empty,
and with 1, 30, 31 and 32 entries. -/
theorem witness_Divergence :
    let ok (s : State) (top : Bool) (depth : Nat) : Bool := s.view.any fun v =>
      targetB (BitVec.ofNat 64 (((v.ply.pc.toNat : Int) + 4 * (4 : BitVec 18).toInt) % 2 ^ 56).toNat) &&
      (v.fib.regs.preds.getD 2 0 &&& v.ply.exec == 0) && (v.ply.mask &&& ~~~(v.ply.exec &&& v.fib.regs.preds.getD 3 0) == 0) &&
      (v.ply.exec &&& v.fib.regs.preds.getD 0 0 != 0) && (v.ply.mask &&& ~~~(v.ply.exec &&& v.fib.regs.preds.getD 0 0) != 0) &&
      ((v.fib.ply 1).mask == 0 && v.ply.stack == [] && v.ply.spilled == 0) == top && v.ply.stack.length + v.ply.spilled == depth
    ok (demo 2) true 0 = true ∧ ok (demoStack 1 0) false 1 = true ∧ ok (demoStack 4 26) false 30 = true ∧
    ok (demoStack 4 27) false 31 = true ∧ ok (demoStack 4 28) false 32 = true := by decide +kernel

/-- `demo` with lanes 8 to 15 in ply 1, which waits at a JOIN or not, and a merge record that ply 0 owns. -/
def demoPlies (atJoin : Bool) : State :=
  demoWith 2 (fun f => { f with
    p0 := { f.p0 with exec := 0xFF, mask := 0xFF }
    p1 := { f.p0 with pc := 0x200040, exec := 0xFF00, mask := 0xFF00, atJoin := atJoin }
    merge := some { mode := 2, fmt := 0x27, owner := 0 } }) id id id

/-- An entry whose lanes have all left, and one that came back poisoned. -/
def goneEntry : StackEntry := { demoEntry with mask := 0xFF0000 }
def badEntry : StackEntry := { demoEntry with bad := true }

/-- `s` with a stack in ply 0. -/
def stacked (s : State) (es : List StackEntry) : State := s.modFibre 0 0 0 fun f => { f with p0 := { f.p0 with stack := es } }

def isGone (lanes : Mask) (e : StackEntry) : Bool := e.mask &&& lanes == 0 && !e.bad

/-- `s` with entries pushed on the stack of its ply, the first of them on top: all but the newest four are spilled. -/
def deep (s : State) (es : List StackEntry) : State :=
  es.reverse.foldl (fun s e => match s.view with | some v => s.pushEntry v e | none => s) s

/-- The whole stack of the issuing ply, where it has its form. -/
def wholeB (s : State) (v : View) : Option (List StackEntry) :=
  let whole := s.wholeStack v.who.core v.who.res v.who.slot v.who.ply v.ply
  if v.ply.stack.length ≤ 4 ∧ (v.ply.spilled = 0 ∨ v.ply.stack.length = 4) ∧ whole.length ≤ 32 then some whole else none

/-- `deep` of six entries of which the oldest has lanes, with the spill area poisoned. -/
def deepBad : State :=
  let s := deep (demo 2) (List.replicate 5 goneEntry ++ [demoEntry])
  s.poisonAtoms (span (s.spillPa 0 0 0 0 0) 32)

/-- Entries without lanes over one with lanes: one, an arm, two, and so many that some of both kinds are spilled; an entry with
lanes on top, over spilled ones too; entries without lanes alone, spilled or not, beside each kind of ply; a poisoned entry on
top, below others, and spilled; an empty stack beside each kind of ply. -/
theorem witness_Joining :
    let ok (s : State) (p : View → List StackEntry → Bool) : Bool := s.view.any fun v => (wholeB s v).any (p v)
    let kind (v : View) : Bool × Bool := ((v.fib.ply 1).mask != 0, (v.fib.ply 1).atJoin)
    (∀ es ∈ [[goneEntry, demoEntry], [{ goneEntry with arm := true, addr := some 0x200100 }, demoEntry], [goneEntry, goneEntry, demoEntry],
        List.replicate 5 goneEntry ++ [demoEntry]],
      ok (deep (demo 2) es) (fun v whole => whole == es && es.dropLast.all (isGone v.fib.lanes) && !isGone v.fib.lanes demoEntry) = true) ∧
    (∀ n ∈ [2, 6], ok (deep (demo 2) (List.replicate n demoEntry)) (fun v whole => whole == List.replicate n demoEntry &&
      demoEntry.mask &&& v.fib.lanes != 0) = true) ∧
    (∀ n ∈ [1, 6], ∀ k ∈ [(demo 2, (false, false)), (demoPlies false, (true, false)), (demoPlies true, (true, true))],
      ok (deep k.1 (List.replicate n goneEntry)) (fun v whole => whole == List.replicate n goneEntry &&
        whole.all (isGone v.fib.lanes) && kind v == k.2 && (v.fib.merge.isSome || !k.2.2)) = true) ∧
    ok (stacked (demo 2) [badEntry]) (fun _ whole => whole == [badEntry]) = true ∧
    ok (stacked (demo 2) [goneEntry, badEntry]) (fun v whole => whole == [goneEntry, badEntry] && isGone v.fib.lanes goneEntry) = true ∧
    ok deepBad (fun v whole => whole == List.replicate 5 goneEntry ++ [badEntry] && (whole.take 5).all (isGone v.fib.lanes)) = true ∧
    (∀ k ∈ [(demo 2, (false, false)), (demoPlies false, (true, false)), (demoPlies true, (true, true))],
      ok k.1 (fun v whole => whole == [] && v.ply.stack == [] && v.ply.spilled == 0 && kind v == k.2 &&
        (!k.2.2 || v.fib.merge == some { mode := 2, fmt := 0x27, owner := 0 })) = true) := by decide +kernel

/-- A stack whose top entry keeps lanes that EXIT leaves; one whose entry below it does, the oldest, spilled, does; none does, beside
each kind of ply; a poisoned entry on top and spilled. -/
theorem witness_Ending :
    let ok (s : State) (p : View → List StackEntry → Mask → Bool) : Bool := s.view.any fun v =>
      (wholeB s v).any fun whole => p v whole (v.fib.lanes &&& ~~~v.ply.mask)
    let kind (v : View) : Bool × Bool := ((v.fib.ply 1).mask != 0, (v.fib.ply 1).atJoin)
    let keeps : StackEntry := { demoEntry with mask := 0xFF00 }
    (∀ es ∈ [[keeps], [demoEntry, keeps], List.replicate 5 demoEntry ++ [keeps]],
      ok (deep (demoPlies false) es) (fun _ whole left => whole == es && es.dropLast.all (isGone left) && !isGone left keeps) = true) ∧
    (∀ n ∈ [0, 1, 6], ∀ k ∈ [(demo 2, (false, false)), (demoPlies false, (true, false)), (demoPlies true, (true, true))],
      ok (deep k.1 (List.replicate n demoEntry)) (fun v whole left => whole == List.replicate n demoEntry &&
        whole.all (isGone left) && kind v == k.2 && (v.fib.merge.isSome || !k.2.2)) = true) ∧
    ok (stacked (demo 2) [badEntry]) (fun _ whole _ => whole == [badEntry]) = true ∧
    ok deepBad (fun _ whole left => whole == List.replicate 5 goneEntry ++ [badEntry] && (whole.take 5).all (isGone left)) = true := by
  decide +kernel

/-- WSTART 64, which is ILL; pass 2 of a loop with WSTART 48, DSTEP -1, ASTEP 3 and BSTEP 1: registers before the window and at
both ends of it, a tile, and a source that is no main register. -/
theorem witness_Loops_steps :
    64 ≤ (0x00400000 : BitVec 32).toNat / 2 ^ 16 % 2 ^ 7 ∧
    (let l : LoopState := { laddr := 0x200000, body := [0], step := 0xECB00000, pass := 2, count := 4, idx := 0, loff := 0 }
     (demoWith 2 (fun f => { f with p0 := { f.p0 with loop := some l } }) id id id).view.any fun v =>
       v.ply.loop == some l && decide (l.step.toNat / 2 ^ 16 % 2 ^ 7 = 48) &&
       srcOf 47 == some (.v 47) && srcOf 48 == some (.v 48) && srcOf 63 == some (.v 63) && destOf 48 == some (.v 48) &&
       srcOf 0x41 == some (.o 1) && destOf 0x41 == some (.o 1) &&
       -- 02 R50, by hand: 63 by 2 passes of 3 is 48 + (15 + 6) mod 16 = 53, by 2 of 1 is 49; 48 by 2 of -1 is 62
       v.srcOf { field := 63, pos := .a, n := 1, fixed := true } == .v 53 &&
       v.srcOf { field := 63, pos := .b, n := 1, fixed := true } == .v 49 &&
       v.srcOf { field := 47, pos := .a, n := 1, fixed := true } == .v 47 && v.dest 48 == .v 62 && v.tileIndex 1 == 15) = true := by
  decide +kernel

/-- LOOP with v6 = 0 and v5 = 3 as its count over one word, a NOP, and over an EXIT, which may not stand there. -/
theorem witness_Loops :
    let code (x : Nat) : State := { demo 2 with mem := writeAll [] (span 0x1000008 4) (bytesOfNat 4 x) }
    let body (s : State) (v : View) : List Word := match s.fetchBody v v.ply.pc 1 with | .ok b => b | .error _ => []
    let form (d : BitVec 7) : Form := { uses := [], d := some { field := d, n := 1, fixed := true, reads := true, discard := false } }
    stepStart 0 < 64 ∧
    Witnessed (code 0x7E000000) (fun v =>
      [{ fm := form 6, xs := [v.readD 6 1], mask := fullMask v.width, also := (v.readD 6 1).shape == .u && (v.readD 6 1).lane 0 == 0 &&
          !(body (code 0x7E000000) v).any loopForbids && body (code 0x7E000000) v != [] },
       { fm := form 5, xs := [v.readD 5 1], mask := fullMask v.width, also := (v.readD 5 1).shape == .u && (v.readD 5 1).lane 0 == 3 }]) ∧
    Witnessed (code 0x7E000001) (fun v => [{ fm := form 5, also := (body (code 0x7E000001) v).any loopForbids }]) ∧
    (let l : LoopState := { laddr := 0x200000, body := [1, 2], step := 0x00000040, pass := 0, count := 2, idx := 0, loff := 0 }
     l.idx + 1 < l.body.length ∧ (let m := { l with idx := 1 }
       m.body.length ≤ m.idx + 1 ∧ m.pass + 1 < m.count ∧ ({ m with pass := 1 } : LoopState).count ≤ 2)) :=
  ⟨by decide +kernel, witnessed (by decide +kernel), witnessed (by decide +kernel), by decide +kernel⟩

/-- The lanes of a team fibre go to v2:v3 = 0x200100 by SPAWN; bins that hold a group, and that have no room for it. -/
theorem witness_Spawning :
    Witnessed (demo 2) (fun v =>
      let ua := v.addrUse 2 .a
      let x := v.read ua none
      let ok := (match v.binWait with | .ok _ => true | .error _ => false) &&
        (List.range 4).all fun i => (Opnd.ofReg (v.reg (.v i)) v.width).poison &&& v.active == 0
      let es := v.activeLanes.map fun l => ({ v := [0x1000, 0, 0x200100, 0], fibre := 0, lane := l } : BinEntry)
      [{ fm := { uses := [ua], d := none }, xs := [x], mask := fullMask v.width, also := ok && x.shape == .u && targetB (x.lane 0) &&
          v.activeLanes != [] && (pushGroup (List.replicate 8 Bin.empty) v.width 0 (x.lane 0) es).isSome }]) ∧
    Witnessed (demoWith 2 (fun f => { f with p0 := { f.p0 with exec := 0 } }) id id id) (fun v =>
      let ua := v.addrUse 2 .a
      let x := v.read ua none
      [{ fm := { uses := [ua], d := none }, xs := [x], mask := fullMask v.width, also := v.activeLanes == [] && x.shape == .u &&
          targetB (x.lane 0) && (pushGroup (List.replicate 8 Bin.empty) v.width 0 (x.lane 0) []).isSome }]) ∧
    (let es := List.replicate 3 ({ v := [], fibre := 0, lane := 0 } : BinEntry)
     let b : Bin := { state := .filling, target := 5, entries := es, since := 0, order := 0 }
     (pushGroup [b] 4 9 6 es) = none ∧ (pushGroup [b, Bin.empty] 4 9 6 es).isSome = true ∧
     (pushGroup [b] 2 9 5 es) = none ∧ (pushGroup [b] 3 9 5 es).isSome = true) :=
  ⟨witnessed (by decide +kernel), witnessed (by decide +kernel), by decide +kernel⟩

/-- The successors of the active lanes in the order of their lanes. -/
def successors (v : View) (x : Opnd) : List Addr := (v.activeLanes.map x.lane).eraseDups

/-- The bins after the first groups of EXITN; none where one does not fit. -/
def pushed (v : View) (x : Opnd) (zs : List Addr) : Option (List Bin) :=
  zs.foldlM (fun bins z => pushGroup bins v.width 0 z ((v.activeLanes.filter fun l => x.lane l == z).map fun l =>
    ({ v := [0x1000, 0, (x.lane l).setWidth 32, 0], fibre := 0, lane := l } : BinEntry))) (v.team.bins ++ List.replicate (8 - v.team.bins.length) Bin.empty)

/-- EXITN to the pair v2:v3: `s` with v2 giving each lane its own successor, and what is asked of them and of the fibre. -/
def exitsTo (s : State) (g : Nat → Word) (ok : Bool) (p : View → Opnd → List Addr → Bool) : Prop :=
  let s := s.modFibre 0 0 0 fun f => { f with regs := { f.regs with
    v := f.regs.v.set 2 { live := true, val := .g ((List.range 16).map g), poison := 0 } } }
  Witnessed s fun v =>
    let ub : Use := { field := 2, pos := .a, n := 2, fixed := true }
    let y := v.read ub none
    let clean := (List.range 4).all fun i => (Opnd.ofReg (v.reg (.v i)) v.width).poison &&& v.active == 0
    [{ fm := { uses := [ub], d := none }, xs := [y], mask := v.active, also := clean &&
        (match v.binWait with | .ok _ => true | .error _ => false) &&
        v.activeLanes.all (fun l => targetB (y.lane l)) == ok && p v y (successors v y) }]

theorem exitsTo_of {s : State} {g : Nat → Word} {ok : Bool} {p : View → Opnd → List Addr → Bool}
    (h : ((s.modFibre 0 0 0 fun f => { f with regs := { f.regs with
        v := f.regs.v.set 2 { live := true, val := .g ((List.range 16).map g), poison := 0 } } }).view.any fun v =>
      let ub : Use := { field := 2, pos := .a, n := 2, fixed := true }
      let y := v.read ub none
      let clean := (List.range 4).all fun i => (Opnd.ofReg (v.reg (.v i)) v.width).poison &&& v.active == 0
      Need.ok v { fm := { uses := [ub], d := none }, xs := [y], mask := v.active, also := clean &&
        (match v.binWait with | .ok _ => true | .error _ => false) &&
        v.activeLanes.all (fun l => targetB (y.lane l)) == ok && p v y (successors v y) }) = true) : exitsTo s g ok p :=
  witnessed (by simpa using h)

/-- EXITN of some lanes: to one successor, to three, to nine, to one that is no target; with bins that have no room for the
second group; and with no lane active. -/
theorem witness_Spawning_some :
    let s := demoWith 2 (fun f => { f with p0 := { f.p0 with exec := 0x1FF } }) id id id
    let full := demoWith 2 (fun f => { f with p0 := { f.p0 with exec := 0x1FF } })
      (fun t => { t with bins := List.replicate 7 { state := .filling, target := 0x200200, entries := [], since := 0, order := 0 } }) id id
    exitsTo s (fun _ => 0x200100) true (fun v y zs => zs == [0x200100] && (pushed v y zs).isSome && v.ply.mask &&& ~~~v.active != 0) ∧
    exitsTo s (fun l => BitVec.ofNat 32 (0x200100 - 4 * (l % 3))) true (fun v y zs => zs == [0x200100, 0x2000FC, 0x2000F8] &&
      (pushed v y zs).isSome && v.ply.mask &&& ~~~v.active != 0) ∧
    exitsTo s (fun l => BitVec.ofNat 32 (0x200100 + 4 * l)) true (fun _ _ zs => zs.length == 9) ∧
    exitsTo s (fun l => BitVec.ofNat 32 (0x200100 + l)) false (fun v _ _ => v.activeLanes != []) ∧
    exitsTo full (fun l => BitVec.ofNat 32 (0x200100 + 4 * (l % 3))) true (fun v y zs => zs.length == 3 &&
      (pushed v y (zs.take 1)).isSome && (pushed v y (zs.take 2)).isNone) ∧
    exitsTo (demoWith 2 (fun f => { f with p0 := { f.p0 with exec := 0 } }) id id id) (fun _ => 0x200100) true
      (fun v _ zs => v.active == 0 && zs == []) :=
  ⟨exitsTo_of (by decide +kernel), exitsTo_of (by decide +kernel), exitsTo_of (by decide +kernel), exitsTo_of (by decide +kernel),
   exitsTo_of (by decide +kernel), exitsTo_of (by decide +kernel)⟩

/-- EXITN of the whole ply to two successors: beside each kind of ply, with entries that keep no lane, spilled or not; with an entry
that keeps lanes on top, below one without, and spilled; and with a poisoned one, on top and spilled. -/
theorem witness_Spawning_whole :
    let two (l : Nat) : Word := BitVec.ofNat 32 (0x200100 + 4 * (l % 2))
    let ok (s : State) (p : View → List StackEntry → Mask → Bool) : Prop := exitsTo s two true fun v y zs =>
      zs.length == 2 && (pushed v y zs).isSome && v.ply.mask &&& ~~~v.active == 0 && v.activeLanes != [] &&
        (wholeB s v).any fun whole => p v whole (v.fib.lanes &&& ~~~v.active)
    let kind (v : View) : Bool × Bool := ((v.fib.ply 1).mask != 0, (v.fib.ply 1).atJoin)
    let keeps : StackEntry := { demoEntry with mask := 0xFF00 }
    let none' (s : State) (k : Bool × Bool) (n : Nat) : Prop := ok (deep s (List.replicate n demoEntry)) fun v whole left =>
      whole == List.replicate n demoEntry && whole.all (isGone left) && kind v == k && (v.fib.merge.isSome || !k.2)
    let first (es : List StackEntry) : Prop := ok (deep (demoPlies false) es) fun _ whole left =>
      whole == es && es.dropLast.all (isGone left) && !isGone left keeps
    none' (demo 2) (false, false) 0 ∧ none' (demo 2) (false, false) 6 ∧ none' (demoPlies false) (true, false) 1 ∧
    none' (demoPlies true) (true, true) 6 ∧ first [keeps] ∧ first [demoEntry, keeps] ∧ first (List.replicate 5 demoEntry ++ [keeps]) ∧
    ok (stacked (demo 2) [badEntry]) (fun _ whole _ => whole == [badEntry]) ∧
    ok deepBad (fun _ whole left => whole == List.replicate 5 goneEntry ++ [badEntry] && (whole.take 5).all (isGone left)) :=
  ⟨exitsTo_of (by decide +kernel), exitsTo_of (by decide +kernel), exitsTo_of (by decide +kernel), exitsTo_of (by decide +kernel),
   exitsTo_of (by decide +kernel), exitsTo_of (by decide +kernel), exitsTo_of (by decide +kernel), exitsTo_of (by decide +kernel),
   exitsTo_of (by decide +kernel)⟩

theorem witness_SmallControl :
    Witnessed (demo 2) (fun v =>
      let law := fun (a : BitVec 9) (zero : Bool) =>
        let ua := v.addrUse a .a
        let x := v.read ua none
        ({ fm := { uses := [ua], d := none }, xs := [x], mask := fullMask v.width, also := x.shape == .u &&
            (if zero then x.lane 0 == 0 else targetB (x.lane 0)) } : Need)
      [law 2 false, law 6 true, { fm := { uses := [], d := none }, also := decide (v.who.slot < 32) },
       { fm := { uses := [], d := none }, also := v.team.hdr.flags.getLsbD 3 &&
          kget v.res.active (spindleKey v.who.slot) == some v.who.slot && (v.fib.retire v.who.ply).isReady }]) ∧
    Witnessed (demoWith 2 id (fun t => { t with hdr := { t.hdr with flags := 0 } }) id id) (fun v =>
      [{ fm := { uses := [], d := none }, also := !v.team.hdr.flags.getLsbD 3 }]) :=
  ⟨witnessed (by decide +kernel), witnessed (by decide +kernel)⟩

/-! ### Traps -/

/-- With a handler, without one, in a handler, and with too little scratchpad. -/
theorem witness_Handlers_taking :
    let ok (s : State) (p : View → Bool) : Bool := s.view.any fun v => v.fib.status != .frozen && p v
    ok (demo 2) (fun v => v.team.handler != 0 && !v.ply.inHandler && decide (8192 ≤ v.team.hdr.scratch)) = true ∧
    ok (demoWith 2 id (fun t => { t with handler := 0 }) id id) (fun v => v.team.handler == 0) = true ∧
    ok (demoWith 2 (fun f => { f with p0 := { f.p0 with inHandler := true } }) id id id) (fun v => v.ply.inHandler) = true ∧
    ok (demoWith 2 id (fun t => { t with hdr := { t.hdr with scratch := 4096 } }) id id)
      (fun v => decide (v.team.hdr.scratch < 8192)) = true := by decide +kernel

theorem witness_SoftTrap : Witnessed (demo 2) fun v =>
    let law := fun (a : BitVec 9) (u : Bool) =>
      let ua : Use := { field := a, pos := .a, n := 1, fixed := true }
      let x := v.read ua none
      ({ fm := { uses := [ua], d := none }, xs := [x], mask := fullMask v.width, also := (x.shape == .u) == u } : Need)
    [law 4 true, law 20 false] :=
  witnessed (by decide +kernel)

/-- `s` after a trap: in the handler, with a frame. -/
def trapped (s : State) : State := match s.view with | some v => s.takeTrap v (Trap.plain .ill 1) | none => s

/-- TRET with v6 = 0; with v4 = 1, back to a word that is no LOOP and to one that is; from a frame that holds a loop. -/
theorem witness_Handlers_return :
    let needs (s : State) (a : BitVec 9) (skips looping atLoop : Bool) (v : View) : List Need :=
      let ua : Use := { field := a, pos := .a, n := 1, fixed := true }
      let x := v.read ua none
      let pa := s.framePa v.who.core v.who.res v.who.slot v.who.ply v.team.hdr.scratch
      let rd := fun o n => leAt (s.ownBytes v (span pa 128)) o n
      let fr : Frame :=
        { looping := (rd 2 1).testBit 1, pc := BitVec.ofNat 64 (rd 8 8), exec := BitVec.ofNat 64 (rd 16 8)
          link := BitVec.ofNat 64 (rd 24 8), mode := BitVec.ofNat 32 (rd 32 4), fmt := BitVec.ofNat 32 (rd 36 4)
          pass := rd 56 4, count := rd 60 4, loff := toSigned 32 (rd 64 4), laddr := BitVec.ofNat 64 (rd 72 8) }
      [{ fm := { uses := [ua], d := none }, xs := [x], mask := fullMask v.width
         also := x.shape == .u && v.ply.inHandler && x.lane 0 == (if skips then 1 else 0) && !s.mustWait v (span pa 128) &&
          !s.ownPoison v (span pa 128) && modeLegal fr.mode && fmtLegal fr.fmt && decide (fr.link.toNat % 4 = 0 ∧ fr.link.toNat < 2 ^ 56) &&
          fr.looping == looping && (!looping || decide (fr.pass < fr.count)) && targetB fr.pc &&
          (match s.frameLoop v fr with | .ok l => l.isSome == looping | _ => false) &&
          match s.fetchWord v fr.pc.toNat with | .ok w => (w.extractLsb' 25 6 == 0x3E) == atLoop | _ => false }]
    let plain := trapped (demo 2)
    let atWord := trapped { demo 2 with mem := writeAll [] (span 0x1000000 4) (bytesOfNat 4 0x7C000000) }
    let inside := trapped { demoWith 2 (fun f => { f with p0 := { f.p0 with
      pc := 0x200008, loop := some { laddr := 0x200000, body := [0x7E000000], step := 0, pass := 1, count := 3, idx := 0, loff := 0 } } })
        id id id with mem := writeAll [] (span 0x1000000 12) (bytesOfNat 12 (0x7C000000 + 0x7E000000 * 2 ^ 64)) }
    Witnessed plain (needs plain 6 false false false) ∧ Witnessed plain (needs plain 4 true false false) ∧
    Witnessed atWord (needs atWord 4 true false true) ∧ Witnessed inside (needs inside 4 true true false) ∧
    (let x : FSched := { (demoFibre 2).sched with tally := [(0, true)], left := some 5 }
     kget x.tally 1 = none ∧ kget x.tally 0 = some true ∧ (x.uncount 0).left = some 6 ∧
      ((demo 2).view.any fun v => v.team.det.isNone) = true) :=
  ⟨witnessed (by decide +kernel), witnessed (by decide +kernel), witnessed (by decide +kernel), witnessed (by decide +kernel),
   by decide +kernel⟩

/-! ### Memory -/

def reachesB (v : View) (s : State) (write : Bool) (n : Nat) (ls : List LanePlace) : Bool :=
  ls.all fun x => (x.places.all fun p => p.peer == none && dieOf p.pa == v.who.core / 80) &&
    !s.inSpill v.who.core v.who.res (x.places.map (·.pa)) && !lockStops (s.locksOf v.who.core v.who.res) write x.va n

theorem reaches_of {v : View} {s : State} {w : Bool} {n : Nat} {ls : List LanePlace} (h : reachesB v s w n ls = true) :
    v.Reaches s w n ls := fun x hx => by
  have := List.all_eq_true.mp h x hx
  simp only [Bool.and_eq_true, Bool.not_eq_true', List.all_eq_true, beq_iff_eq] at this
  exact ⟨fun p hp => this.1.1 p hp, this.1.2, this.2⟩

/-- Whether an access of lanes is translated and its places may be used. -/
def placesB (v : View) (s : State) (cls : AccClass) (write : Bool) (n : Nat) (as : List (Nat × Nat)) (ok : LanePlace → Bool) : Bool :=
  match s.xlatLanes v cls n as with
  | .ok ls => ls != [] && reachesB v s write n ls && ls.all ok
  | .error _ => false

def lateB (v : View) (d : BitVec 7) (n : Nat) (sh : Shape) : Bool :=
  ((v.dest d).regs n).all fun r => (v.reg r).arrivalOk sh v.active v.fib.lanes

/-- A uniform load and a load per lane from the team window, a store there; the same under an empty mask; LDX and STX by a
G index. -/
theorem witness_MemoryAccess :
    let needs (s : State) (v : View) : List Need :=
      let ua := v.addrUse 0 .a
      let uv := v.addrUse 20 .a
      let ub := wordUse 21 .b
      let dst := fun (fixed reads : Bool) => ({ field := 16, n := 1, fixed := fixed, reads := reads, discard := !reads } : DUse)
      let small := fun (b : BitVec 9) => ({ v.read (v.addrUse b .a) none with lane := fun l => BitVec.ofNat 64 (64 * l) } : Opnd)
      let one := v.active == 0 || placesB v s .load false 4 [(0, v.place (v.read ua none) 8 0)] fun _ => true
      let all := v.active == 0 || placesB v s .store true 4 (v.activeLanes.map fun l => (l, v.place (small 20) 8 l)) fun _ => true
      [{ fm := { uses := [ua], d := some (dst true false) }, xs := [v.read ua none], mask := v.active
         also := one && lateB v 16 1 .u && decide (v.fib.spec.ctr.ld < 65535) },
       { fm := { uses := [uv], d := some (dst true false) }, xs := [v.read uv none], mask := v.active, also := all && lateB v 16 1 .g },
       { fm := { uses := [ua], d := some (dst true true) }, xs := [v.read ua none], mask := v.active
         also := v.team.det.isNone && decide (v.fib.spec.ctr.st < 65535) },
       { fm := { uses := [ua, ub], d := some (dst false false) }, xs := [v.read ua none, v.read ub none], mask := v.active
         also := v.active == 0 || placesB v s .load false 4
           (v.activeLanes.map fun l => (l, v.place (v.read ua none) (((v.read ub none).lane l).setWidth 32 : Word).toInt l)) fun _ => true },
       { fm := { uses := [ua, ub], d := some (dst false true) }, xs := [v.read ua none, v.read ub none], mask := v.active }]
    Witnessed (demo 2) (needs (demo 2)) ∧
    (let s := demoWith 2 (fun f => { f with p0 := { f.p0 with exec := 0 } }) id id id
     Witnessed s fun v => (needs s v).map fun n => { n with also := n.also && v.active == 0 }) :=
  ⟨witnessed (by decide +kernel), witnessed (by decide +kernel)⟩

/-- A store of a deterministic launch outside the window is translated, and its records fit. -/
theorem witness_MemoryAccess_det :
    let s := demoWith 2 id (fun t => { t with det := some demoDet }) id id
    Witnessed s fun v =>
      let ua := v.addrUse 2 .a
      let x := v.read ua none
      [{ fm := { uses := [ua], d := some { field := 16, n := 1, fixed := true, reads := true, discard := false } }, xs := [x]
         mask := v.active, also := v.team.det == some demoDet && decide (v.buffered + 16 ≤ 2048) &&
          placesB v s .store true 4 (v.activeLanes.map fun l => (l, v.place x 0 l)) fun q => decide (0x200000 ≤ q.va) }] :=
  witnessed (by decide +kernel)

/-- `demo` with outstanding accesses of fibre 0. -/
def demoOps (ops : List OpBody) : State :=
  demoWith 2 id id id fun c => { c with
    nextOp := ops.length
    ops := ops.zipIdx.map fun p => (p.2, { res := 0, slot := 0, fibre := 0, ply := 0, path := 1, active := 3, lm := 3, body := p.1
                                           done := false, pages := [], seq := p.2 }) }

/-- `s` with a region of 1 KiB at 0x1000400 in the stack of its die. -/
def demoRegion (state : RegionState) : Region :=
  { base := 0x1000400, cl := false, size := 1024, wide := true, e := 0, owner := 0, state := state, written := [], conflict := [] }

def regioned (s : State) (state : RegionState) : State :=
  { s with homes := [(0, { s.agent 0 with regions := [demoRegion state] })] }

def demoLoad (pa : Nat) : OpBody := .load [{ lane := 0, pas := span pa 4, data := [] }] (.v 16) 4 true true

def demoStore : OpBody := .write .store [{ lane := 0, pas := span 0x1000200 4, data := [1, 2, 3, 4] }] .nothing

/-- A store that may be performed; one behind an older one of its bytes; one behind the load of a region's count word, which is
an acquire; a buffered one. -/
theorem witness_AccessesPerformed :
    (let s := demoOps [demoStore]
     ((s.op 0 0).any fun o => !o.done && s.mayPerform 0 0 o && !s.isBuffered 0 0 o &&
      (s.regionTouched (span 0x1000200 4)).isNone && kindOf 0x1000200 != 3) = true) ∧
    (let s := demoOps [demoStore, demoStore]
     ((s.op 0 1).any fun o => !s.mayPerform 0 1 o) = true) ∧
    (let s := regioned (demoOps [demoLoad 0x1000400, demoStore]) .opened
     ((s.op 0 0).any fun o => !o.done && s.acquires o) = true ∧ ((s.op 0 1).any fun o => !s.mayPerform 0 1 o) = true) ∧
    (let s := demoWith 2 id (fun t => { t with det := some { demoDet with buf := [{ fibre := 0, op := 0, kind := .store, lanes := [], va := [] }] } })
        id fun c => { c with ops := (demoOps [demoStore]).cores.flatMap fun p => p.2.ops }
     ((s.op 0 0).any fun o => s.isBuffered 0 0 o) = true) := by decide +kernel

/-- A load of two lanes, and a uniform one. -/
theorem witness_AccessesPerformed_loads :
    let ok (ls : List LaneAcc) (uniform : Bool) : Bool :=
      let s := demoOps [.load ls (.v 16) 4 true uniform]
      (s.op 0 0).any fun o => !o.done && s.mayPerform 0 0 o && (s.team 0 0).any (fun t => t.det.isNone) &&
        (s.fibre 0 0 0).isSome && s.poison == [] && (ls.all fun l => l.pas.all fun a => kindOf a != 3) &&
        (if uniform then ls.length == 1 else (List.range 64).all fun l => !o.active.getLsbD l || (ls.map (·.lane)).contains l)
    ok [{ lane := 0, pas := span 0x1000200 4, data := [] }, { lane := 1, pas := span 0x1000204 4, data := [] }] false = true ∧
    ok [{ lane := 0, pas := span 0x1000200 4, data := [] }] true = true := by decide +kernel

/-- ATOM and POST to the team window at TEAM scope, CAS; ADD, SWAP and POST's operation; a pending ADD and a pending CAS. -/
theorem witness_Atomics :
    (let s := demo 2
     Witnessed s fun v =>
      let ua := v.addrUse 0 .a
      let ub : Use := { field := 21, pos := .b, n := 1, fixed := false }
      let xs := [v.read ua none, v.read ub none]
      let at_ := v.activeLanes.map fun l => (l, v.place (v.read ua none) 0 l / 4 * 4)
      let holds := fun (q : LanePlace) => q.places.all fun p => s.scopeHolds v 0 p
      [{ fm := { uses := [ua, ub], d := none }, xs := xs, mask := v.active, also := v.team.det.isNone && v.active != 0 &&
          placesB v s .atomic true 4 at_ holds && placesB v s .store true 4 at_ holds && !s.acquiring v },
       { fm := { uses := [ua, ub], d := some { field := 16, n := 1, fixed := false, reads := true, discard := false } }
         xs := v.readD 16 1 :: xs, mask := v.active, also := lateB v 16 1 .g }]) ∧
    (let ok (r : Rmw) : Bool :=
       let s := demoOps [.write (.rmw r []) [{ lane := 0, pas := span 0x1000200 4, data := [1, 0, 0, 0] }] (.v 16)]
       (s.op 0 0).any fun o => !o.done && s.mayPerform 0 0 o && !s.isBuffered 0 0 o &&
        (s.regionTouched (span 0x1000200 4)).isNone && !s.poisoned (span 0x1000200 4)
     ok { code := 0, wide := false, unsigned := false, cas := false } = true ∧
     ok { code := 7, wide := false, unsigned := false, cas := true } = true) :=
  ⟨witnessed (by decide +kernel), by decide +kernel⟩

/-- POST at PKG scope and FETCH, on the page at 0x200000. -/
theorem witness_FarAccess :
    let s := demo 2
    Witnessed s fun v =>
      let ua := v.addrUse 2 .a
      let ub : Use := { field := 21, pos := .b, n := 1, fixed := false }
      let ul := v.addrUse 2 .b
      let x := v.read ua none
      let at_ := v.activeLanes.map fun l => (l, v.place x 0 l / 4 * 4)
      let far := v.team.det.isNone && v.core.farReady && !s.acquiring v && decide (v.fib.spec.ctr.far < 65535) && v.active != 0
      [{ fm := { uses := [ua, ub], d := none }, xs := [x, v.read ub none], mask := v.active, also := far && postAllowed 0 3 &&
          placesB v s .store true 4 at_ fun q => q.places.all fun p => p.peer == none && s.postHolds v 0 3 p },
       { fm := { uses := [ua, ul], d := none }, xs := [x, v.read ul none], mask := v.active, also := far &&
          placesB v s .store true 4 at_ (fun q => q.places.all fun p => kindOf p.pa == 0) &&
          placesB v s .load false 4 at_ fun q => q.places.all fun p => (s.contextDies v.team.ctx).contains (dieOf p.pa) }] :=
  witnessed (by decide +kernel)

/-! ### Waiting -/

/-- A fence with free slots, and fences whose accesses have returned and have not. -/
theorem witness_Fences :
    Witnessed (demo 2) (fun v => [{ fm := { uses := [], d := some { dUse 16 1 false with fixed := true } }, d := 16, w := 1
                                    also := (List.range 8).find? (fun k =>
        (kgetD v.res.fences (8 * v.who.slot + k) FenceSlot.fresh).busy.isNone) == some 0 }]) ∧
    (let s := demoWith 2 id id (fun r => { r with fences := [(0, { gen := 1, busy := some [0] })] })
        fun c => { c with ops := (demoOps [demoStore]).cores.flatMap fun p => p.2.ops }
     kget (s.res 0 0).fences 0 = some { gen := 1, busy := some [0] } ∧ ((s.op 0 0).any fun o => !o.done) = true ∧
     (demo 2).op 0 0 = none) :=
  ⟨witnessed (by decide +kernel), by decide +kernel⟩

/-- Tokens legal (v6 = 0) and not (v1 = 2^24 in token class 1); a word of the window for MON, which holds 0: below v4 = 1, and
not below v6 = 0; a full set of monitors, of which one has been met or none; an empty mask; a deterministic team. -/
theorem witness_Waits :
    let mon (s : State) (b : BitVec 9) (ok : View → Bool) (v : View) : Need :=
      let ua := v.addrUse 2 .a
      let ub : Use := { field := b, pos := .b, n := 1, fixed := true }
      let x := v.read ua none
      let z := v.read ub none
      { fm := { uses := [ua, ub], d := some { dUse 16 1 false with fixed := true } }, xs := [x, z], mask := v.active
        also := ok v && x.shape == .u && z.shape == .u && lateB v 16 1 .u && (v.active == 0 ||
          placesB v s .load false 4 [(0, v.place x 0 0 / 4 * 4)] fun q =>
            !s.mustWait v (q.places.map (·.pa)) && !s.poisoned (q.places.map (·.pa))) }
    let armed (s : State) (v : View) : Nat := s.armed v.who.core v.who.res
    let s := demoWith 2 (fun f => { f with regs := { f.regs with v := f.regs.v.set 1 { live := true, val := .u 0x41000000, poison := 0 } } })
      id id id
    let waiting : Fibre := { demoFibre 2 with status := .waiting, wait := some { ply := 0, wait := .mon 0x1000100 0x200100 1 (.v 16) } }
    let full := demoWith 2 id id
      (fun r => { r with slots := r.slots ++ (List.range 16).map fun k => (k + 1, waiting) }) fun c => { c with dual := true }
    let none' := demoWith 2 (fun f => { f with p0 := { f.p0 with exec := 0 } }) id id id
    let det := demoWith 2 id (fun t => { t with det := some demoDet }) id id
    Witnessed s (fun v =>
      let law := fun (a : BitVec 9) (ok : Word → Bool) =>
        let ua : Use := { field := a, pos := .a, n := 1, fixed := true }
        let x := v.read ua none
        ({ fm := { uses := [ua], d := none }, xs := [x], mask := fullMask v.width
           also := x.shape == .u && ok ((x.lane 0).setWidth 32) } : Need)
      [law 6 (fun w => tokenLegal v.core w && v.res.tokenDone w), law 1 (fun w => !tokenLegal v.core w),
       mon s 6 (fun v => armed s v == 0 && s.wordAt 0x1000100 == 0 && v.team.det.isNone) v, mon s 4 (fun v => armed s v == 0) v]) ∧
    Witnessed full (fun v => [mon full 6 (fun v => armed full v == 16 && v.core.dual) v]) ∧
    (let one := { full with met := [{ core := 0, res := 0, slot := 5, bad := false }] }
     Witnessed one fun v => [mon one 6 (fun v => armed one v == 15) v]) ∧
    Witnessed none' (fun v => [mon none' 6 (fun v => v.active == 0) v]) ∧
    Witnessed det (fun v => [mon det 6 (fun v => v.team.det.isSome && armed det v == 0) v]) :=
  ⟨witnessed (by decide +kernel), witnessed (by decide +kernel), witnessed (by decide +kernel), witnessed (by decide +kernel),
   witnessed (by decide +kernel)⟩

/-- A waiting MON on a word that holds 0: for 0; for 1, after a write has met it and before; of a deterministic team; its word
poisoned, and read poisoned by a write; a write of 1 to the word, clean and poisoned. -/
theorem witness_Waits_events :
    let w (value : Word) : WaitState := { ply := 0, wait := .mon 0x1000100 0x200100 value (.v 16) }
    let m (value : Word) (det : Option DetTeam) : State :=
      demoWith 2 (fun f => { f with status := .waiting, wait := some (w value) }) (fun t => { t with det := det }) id id
    let met (s : State) (bad : Bool) : State := { s with met := [{ core := 0, res := 0, slot := 0, bad := bad }] }
    let bad (s : State) : State := { s with poison := [0x1000100 / 32] }
    let ok (s : State) (value : Word) (det : Bool) (how : Option Bool) (poisoned : Bool) : Bool :=
      (s.fibre 0 0 0).any (fun f => f.status == .waiting && f.wait == some (w value)) && s.poisoned [0x1000100] == poisoned &&
        s.wordAt 0x1000100 == 0 && s.metAt 0 0 0 == how && (s.team 0 0).any fun t => t.det.isSome == det
    ok (m 0 none) 0 false none false = true ∧ ok (met (m 1 none) false) 1 false (some false) false = true ∧
    ok (m 1 none) 1 false none false = true ∧ ok (m 0 (some demoDet)) 0 true none false = true ∧
    ok (met (m 1 none) true) 1 false (some true) false = true ∧ ok (bad (m 1 none)) 1 false none true = true ∧
    (1 ≤ readNat ((m 1 none).store [0x1000100] [1]).mem 0x1000100 4 ∧ 0x1000100 / 32 ∉ ((m 1 none).store [0x1000100] [1]).poison) ∧
    0x1000100 / 32 ∈ ((bad (m 1 none)).store [0x1000100] [1]).poison := by decide +kernel

/-- `demo` with barrier 1 in a state, and FBAR's word 1 in v4. -/
def demoBar (st : BarState) (count : Nat) (pend : List Nat) : State :=
  demoWith 2 id (fun t => { t with barriers := [(1, { state := st, count := count, reload := 2, pend := pend })] }) id id

def barNeeds (s : State) (ok : Barrier → Bool) (v : View) : List Need :=
  let ua : Use := { field := 4, pos := .a, n := 1, fixed := true }
  let x := v.read ua none
  let w := (x.lane 0).toNat % 2 ^ 32
  let also := x.shape == .u && decide (w % 32 < v.team.hdr.bars) && w / 32 == 0 && v.fib.wait.isNone && v.fib.status == .ready &&
    lateB v 16 1 .u && !v.scratchPending s && ok (s.bar 0 0 1)
  [{ fm := { uses := [ua], d := none }, xs := [x], mask := fullMask v.width, also := also && w.testBit (posOf v.who.slot) },
   { fm := { uses := [ua], d := some { dUse 16 1 false with fixed := true } }, xs := [x], mask := fullMask v.width, d := 16, w := 1
     also := also }]

/-- Barrier 1 FREE; ARMED with count 2 and 1, pending or not; CONSUMED, pending alone, with others, and not; ABANDONED. -/
theorem witness_Barriers :
    Witnessed (demoBar .free 0 []) (barNeeds (demoBar .free 0 []) (·.state == .free)) ∧
    Witnessed (demoBar .armed 2 []) (barNeeds (demoBar .armed 2 []) fun b => b.state == .armed && b.count == 2 && b.pend == []) ∧
    Witnessed (demoBar .armed 1 [0]) (barNeeds (demoBar .armed 1 [0]) fun b => b.state == .armed && b.count == 1 && b.pend == [0]) ∧
    Witnessed (demoBar .consumed 0 [0, 3]) (barNeeds (demoBar .consumed 0 [0, 3]) fun b => b.state == .consumed && b.pend == [0, 3]) ∧
    Witnessed (demoBar .consumed 0 [3]) (barNeeds (demoBar .consumed 0 [3]) fun b => b.state == .consumed && b.pend == [3]) ∧
    Witnessed (demoBar .abandoned 0 []) (barNeeds (demoBar .abandoned 0 []) (·.state == .abandoned)) :=
  ⟨witnessed (by decide +kernel), witnessed (by decide +kernel), witnessed (by decide +kernel), witnessed (by decide +kernel),
   witnessed (by decide +kernel), witnessed (by decide +kernel)⟩

/-- An arrival at count 0; CONSUMED with the fibre's pending bit as the last one, with nobody held, and with a BARV and a BSYNC of
fibre 1 held; a fibre that waits for the barrier; ids of BARS and nonzero fields; FBAR masks without the fibre's position. -/
theorem witness_Barriers_last :
    let s (st : BarState) (pend : List Nat) (w : Option Wait) : State := demoWith 2 id
      (fun t => { t with barriers := [(1, { state := st, count := 0, reload := 2, pend := pend })] })
      (fun r => { r with slots := r.slots ++ (w.map fun w =>
        (1, { demoFibre 2 with num := 1, status := .waiting, wait := some { ply := 0, wait := w } })).toList }) id
    let bar (held sync : Bool) : Option Wait := some (.barrier 1 held sync (.v 16))
    Witnessed (s .armed [] none) (barNeeds (s .armed [] none) fun b => b.state == .armed && b.count == 0) ∧
    Witnessed (s .consumed [0] none) (barNeeds (s .consumed [0] none) fun b =>
      b.state == .consumed && b.pend == [0] && (s .consumed [0] none).barWaiters 0 0 1 true == []) ∧
    (∀ sync ∈ [true, false], let t := s .consumed [0] (bar true sync)
      ∃ q, t.barWaiters 0 0 1 true = [q] ∧ t.fibre q.1 0 q.2.1 = some q.2.2 ∧
        q.2.2.wait = some { ply := 0, wait := .barrier 1 true sync (.v 16) } ∧ 1 < (t.bar 0 0 1).reload) ∧
    (let t := s .armed [1] (bar false true)
     Witnessed t (barNeeds t fun b => b.state == .armed && (t.barWaiters 0 0 1 false).length == 1) ∧
       (∃ f, t.fibre 0 0 1 = some f ∧ f.wait = some { ply := 0, wait := .barrier 1 false true (.v 16) }) ∧
       ∃ q, t.barWaiters 0 0 1 false ++ t.barWaiters 0 0 1 true = [q] ∧ q.1 = 0 ∧ t.fibre 0 0 q.2.1 = some q.2.2) ∧
    Witnessed (demo 2) (fun v => [0x88, 0x9F, 0x80, 0x82].flatMap fun a =>
      let ua : Use := { field := a, pos := .a, n := 1, fixed := true }
      let x := v.read ua none
      let w := (x.lane 0).toNat % 2 ^ 32
      [{ fm := { uses := [ua], d := none }, also := x.shape == .u && lateB v 16 1 .u && v.fib.wait.isNone &&
          (decide (v.team.hdr.bars ≤ w % 32) || w / 32 != 0 || !w.testBit (posOf v.who.slot)) },
       { fm := { uses := [ua], d := some { dUse 16 1 false with fixed := true } } }]) :=
  ⟨witnessed (by decide +kernel), witnessed (by decide +kernel),
   by intro y hy; fin_cases hy <;> exact ⟨_, rfl, by decide +kernel⟩,
   ⟨witnessed (by decide +kernel), ⟨_, rfl, by decide +kernel⟩, _, rfl, by decide +kernel⟩, witnessed (by decide +kernel)⟩

theorem witness_BarrierQuery : Witnessed (demoBar .armed 2 [0])
    (barNeeds (demoBar .armed 2 [0]) fun b => decide (b.count < 2 ^ 12) && decide (b.reload < 2 ^ 12)) :=
  witnessed (by decide +kernel)

/-- FBAR with v5 = 3: the other fibre of the spindle is absent, runs, and waits at the same FBAR. -/
theorem witness_Barriers_spindle :
    let s (g : Option Fibre) : State := demoWith 2 id id (fun r => { r with slots := r.slots ++ (g.map fun g => (8, g)).toList }) id
    let ok (g : Option Fibre) (here arrived : Bool) : Prop := Witnessed (s g) fun v =>
      let ua : Use := { field := 5, pos := .a, n := 1, fixed := true }
      let x := v.read ua none
      let m := (x.lane 0).toNat % 16
      [{ fm := { uses := [ua], d := none }, xs := [x], mask := fullMask v.width
         also := x.shape == .u && (x.lane 0).toNat == 3 && posOf v.who.slot == 0 && v.fib.wait.isNone && v.fib.status == .ready &&
          (v.core.ops.all fun p => !v.windowPending p) && fbarArrived v.res (spindleKey v.who.slot) m 1 == arrived &&
          (match kget v.res.slots (8 + spindleKey v.who.slot % 2 * 4 + spindleKey v.who.slot / 2) with
           | none => true
           | some g => g.wait.map (·.wait) == some (.fbar m)) == here }]
    let other : Fibre := { demoFibre 2 with num := 1 }
    ok none true true ∧ ok (some other) false false ∧
    ok (some { other with status := .waiting, wait := some { ply := 0, wait := .fbar 3 } }) true true :=
  ⟨witnessed (by decide +kernel), witnessed (by decide +kernel), witnessed (by decide +kernel)⟩

/-! ### Where memory instructions trap -/

/-- The kind that the frame in the handler's scratchpad names, when fibre 0 of the next state stands in the handler. -/
def trapsTo (s : State) (i : Instr) : Option Nat :=
  match exec i s with
  | .next t => match t.fibre 0 0 0 with
    | some f => if f.p0.inHandler && f.p0.pc == 0x200400 then some (readByte t.mem (t.framePa 0 0 0 0 0x80000)).toNat else none
    | none => none
  | _ => none

/-- `demo` with the page at 0x200000 at another place, locks, and v0 live or not. -/
def demoPage (entry : BitVec 64) (locks : List Lock) (live : Bool) : State :=
  demoWith 2 (fun f => { f with regs := { f.regs with v := f.regs.v.set 0 { live := live, val := .u 0x1000, poison := 0 } } }) id
    (fun r => { r with locks := locks }) fun c => { c with tlb := [{ demoLeaf with entry := entry }] }

def deadB (v : View) (fm : Form) : Bool :=
  fm.encOk && v.formOk fm && !v.owed (v.sourceRegs fm ++ v.destRegs fm) && !v.busy (v.sourceRegs fm ++ v.destRegs fm)
    && !v.held (v.destRegs fm) && fm.uses.any fun u => !v.liveAll ((v.srcOf u).regs u.n)

/-- A place of another die at 0x200100; a lock on it, for writes and for all; a kind that no scope holds there. -/
def farPage : State := demoPage 0x100000100001F [] true
def lockedPage (dest : Bool) : State := demoPage 0x100001F [{ entry := 0, va := 0x200100, len := 4, dest := dest }] true
def barPage : State := demoPage 0x20000000001F [] true

/-- The forms of LD, ST, LDX, STX, ATOM, CAS and POST at v2:v3 = 0x200100, with the class and lanes of each: each finds a far
place on the far page, a locked one on the locked page; ATOM at TEAM scope a place outside it, CAS no memory; POST and FETCH to
another kind of place, and FETCH to a far landing address; a dead source. -/
theorem witness_MemoryTraps :
    let dst := fun (fixed reads : Bool) => ({ field := 16, n := 1, fixed := fixed, reads := reads, discard := !reads } : DUse)
    let ub : Use := { field := 6, pos := .b, n := 1, fixed := true }
    let uv : Use := { field := 21, pos := .b, n := 1, fixed := false }
    let forms (a : View → Use) (v : View) : List (Form × AccClass × Bool) :=
      [({ uses := [a v], d := some (dst true false) }, .load, false), ({ uses := [a v], d := some (dst true true) }, .store, true),
       ({ uses := [a v, ub], d := some (dst false false) }, .load, false), ({ uses := [a v, ub], d := some (dst false true) }, .store, true),
       ({ uses := [a v, uv], d := none }, .atomic, true), ({ uses := [a v, uv], d := some (dst false true) }, .atomic, true),
       ({ uses := [a v, uv], d := none }, .store, true)]
    let lanes (v : View) : List (Nat × Nat) := v.activeLanes.map fun l => (l, v.place (v.read (v.addrUse 2 .a) none) 0 l)
    let all (s : State) (ok : View → Bool → List LanePlace → Bool) : Bool := s.view.any fun v =>
      v.active != 0 && lateB v 16 1 .u && lateB v 16 1 .g && (forms (fun v => v.addrUse 2 .a) v).all fun p =>
        readyB v p.1 && match s.xlatLanes v p.2.1 4 (lanes v), s.xlatLanes v p.2.1 4 ((lanes v).take 1) with
          | .ok ls, .ok l1 => ok v p.2.2 ls && ok v p.2.2 l1
          | _, _ => false
    let far (v : View) (q : LanePlace) : Bool := q.places.any fun p => p.peer.isSome || dieOf p.pa != v.who.core / 80
    all farPage (fun v _ ls => ls.any (far v)) = true ∧
    all (lockedPage true) (fun v w ls => !ls.any (far v) && ls.any fun q => lockStops ((lockedPage true).locksOf 0 0) w q.va 4) = true ∧
    all (lockedPage false) (fun v w ls => !ls.any (far v) && (ls.any fun q => lockStops ((lockedPage false).locksOf 0 0) w q.va 4) == w) = true ∧
    all (demo 2) (fun v _ ls => !ls.any (far v) && ls.any fun q => q.places.any fun p => !(demo 2).scopeHolds v 0 p) = true ∧
    all barPage (fun v _ ls => !ls.any (far v) && ls.any fun q => q.places.any fun p => kindOf p.pa == 2) = true ∧
    ((demoPage 0x100001F [] false).view.any fun v => (forms (fun v => v.addrUse 0 .a) v).all fun p => deadB v p.1) = true ∧
    (let fetch (s : State) (ok : View → List LanePlace → Bool) : Bool := s.view.any fun v =>
       v.active != 0 && readyB v { uses := [v.addrUse 2 .a, v.addrUse 2 .b], d := none } &&
       match s.xlatLanes v .load 4 (lanes v), s.xlatLanes v .store 4 (lanes v) with
       | .ok src, .ok land => src == land && ok v src
       | _, _ => false
     fetch farPage (fun v ls => ls.any (far v)) = true ∧
     fetch barPage (fun v ls => !ls.any (far v) && ls.any fun q => q.places.any fun p => p.peer.isNone && kindOf p.pa != 0) = true) := by
  decide +kernel

/-- The kinds 3, 5 and 4 of 17 R355, and 2 for a dead source; 0 for SIZE 5. -/
theorem test_memory_traps :
    trapsTo farPage (.ld false 16 2 2 0) = some 3 ∧ trapsTo (lockedPage false) (.st false 16 2 2 0) = some 5 ∧
    trapsTo (lockedPage true) (.ldx false 16 2 6) = some 5 ∧ trapsTo (demo 2) (.atom false 0 0 2 21) = some 4 ∧
    trapsTo barPage (.cas false 16 2 21) = some 4 ∧ trapsTo farPage (.post false 0 2 2 21) = some 3 ∧
    trapsTo barPage (.fetch false 0 2 2) = some 4 ∧ trapsTo (demoPage 0x100001F [] false) (.stx false 16 0 6) = some 2 ∧
    trapsTo (demo 2) (.ld false 16 2 5 0) = some 0 := by decide +kernel

/-! ### The matrix engine -/

def uniUse (a : BitVec 9) : Use := { field := a, pos := .a, n := 1, fixed := true }

/-- Tile 0; the window at 0x1000 for a tile's 4,096 bytes, 512 bytes of metadata and 2,048 of scales; a tile load. -/
theorem witness_MatrixTiles :
    Witnessed (demo 2) (fun v =>
      let s := demo 2
      let ua := v.addrUse 0 .a
      let x := v.read ua none
      let va := v.place x 0 0
      let whole := fun (cls : AccClass) (w : Bool) (n : Nat) => match s.xlatBytes v cls va n with
        | .ok ps => reachesB v s w n [wholeAccess va ps] && !s.writesPending v (ps.map (·.pa)) && !s.acquiring v &&
          !s.seesPoison v.who.core v.who.res v.fib.num v.core.nextOp (ps.map (·.pa))
        | .error _ => false
      [{ fm := { uses := [ua], d := none }, xs := [x], mask := fullMask 64
         also := v.team.hdr.flags.getLsbD 1 && decide (v.tileIndex 0 < v.team.hdr.tiles) && !v.tileBusy (v.tileIndex 0) &&
          v.team.det.isNone && x.shape == .u && va % 64 == 0 && whole .load false 4096 && whole .store true 4096 &&
          !v.core.dual && (match v.freeSlot (fmtSslot v.fib.spec.fmt) with | .ok _ => true | .error _ => false) }]) ∧
    (let s := demoOps [.tileLoad 0 (span 0x1000200 4096)]
     ((s.op 0 0).any fun o => !o.done && s.mayPerform 0 0 o && (s.fibre 0 0 0).isSome && s.poison == []) = true) :=
  ⟨witnessed (by decide +kernel), by decide +kernel⟩

/-- `demo` with a control word in v1; its tile 0 is empty, and clean. -/
def demoTile (w : Word) : State :=
  demoWith 2 (fun f => { f with regs := { f.regs with v := f.regs.v.set 1 { live := true, val := .u w, poison := 0 } } }) id id id

/-- TRD, TWR and TROWMAX of tile 0; TCVT to f16, and (with FMT.ACC 1) of i32 cells to type 13. -/
theorem witness_MatrixLanes :
    let named (v : View) (x : Opnd) (type : Nat) : Bool :=
      let w := (x.lane 0).toNat
      v.team.hdr.flags.getLsbD 1 && x.shape == .u && w / 2 ^ 14 == type && decide (w % 16 < v.team.hdr.tiles) &&
        !v.tileBusy (w % 16) && (v.fib.tile (w % 16)).poison == []
    let one (v : View) (type l j : Nat) : DWord × Exc :=
      cvtLane (if fmtAcc v.fib.spec.fmt = 1 then 2 else 10) type (CvtRnd.mode (Rnd.ofCode (modeRnd v.mode))) false (v.cvtDraw l)
        (((v.fib.tile 0).cell (2 * l + j)).setWidth 64)
    Witnessed (demoTile 0) (fun v =>
      let x := v.read (uniUse 1) none
      [{ fm := { uses := [uniUse 1], d := some (dUse 16 1 false) }, xs := [x], mask := fullMask 64, d := 16, w := 1
         also := named v x 0 && quietB v fun _ => if (decodeF .f32 ((v.fib.tile 0).cell 0).toNat).snan then excInv else 0 },
       { fm := { uses := [uniUse 1], d := some (dUse 16 1 true) }, xs := [v.readD 16 1], mask := v.active }]) ∧
    Witnessed (demoTile 0x20000) (fun v =>
      let x := v.read (uniUse 1) none
      [{ fm := { uses := [uniUse 1], d := some (dUse 16 1 false) }, xs := [x], mask := fullMask 64, d := 16, w := 1
         also := named v x 8 && fmtAcc v.fib.spec.fmt == 0 && !v.tableBusy && v.core.shadow == 0 &&
          quietB v fun l => (one v 8 l 0).2 ||| (one v 8 l 1).2 }]) ∧
    Witnessed (demoTile 0x34000) (fun v =>
      let x := v.read (uniUse 1) none
      [{ fm := { uses := [uniUse 1], d := some (dUse 16 1 false) }, xs := [x], mask := fullMask 64, d := 16, w := 1
         also := named v x 13 && quietB v fun l => (one v 13 l 0).2 }]) :=
  ⟨witnessed (by decide +kernel), witnessed (by decide +kernel), witnessed (by decide +kernel)⟩

/-- `demo` of 32 lanes under f16, with a gang word; fibre 1 is like fibre 0. -/
def demoMma (gang : Word) : State :=
  let wide (f : Fibre) : Fibre := { f with
    lanes := 0xFFFFFFFF
    p0 := { f.p0 with exec := 0xFFFFFFFF, mask := 0xFFFFFFFF }
    spec := { f.spec with gang := gang }
    regs := { f.regs with v := (List.range 64).map fun _ => { live := true, val := .g (List.replicate 32 0), poison := 0 } } }
  demoWith 8 wide (fun t => { t with hdr := { t.hdr with width := 32, nu := 0, na := 0, ng := 64 } })
    (fun r => { r with slots := [(0, wide (demoFibre 8)), (1, { wide (demoFibre 8) with num := 1 })] }) id

def demoArrival (slot : Nat) : Arrival :=
  { slot := slot, ply := 0, tile := 0, a := .v 0, na := 16, killA := false, b := .v 16, nb := 8, killB := false }

theorem witness_MatrixProducts :
    let ok (gang : Word) (nb : Nat) : Bool := (demoMma gang).view.any fun v =>
      match mmaForm v.mode v.fib.spec.fmt, v.fragment 0 .a 16, v.fragment 16 .b nb with
      | some f, some da, some db =>
        let regs := da.regs 16 ++ db.regs nb
        let quads := gangQuads gang 0
        v.team.hdr.flags.getLsbD 1 && atRegLevel 0 && atRegLevel 16 && v.width != 16 && f.aBytes == 16 * 4 * v.width &&
          f.bBytes / quads.length == nb * 4 * v.width && !f.readsSlot && v.fib.spec.gang == gang &&
          decide (v.tileIndex 0 < v.team.hdr.tiles) && !v.tileBusy (v.tileIndex 0) && !v.owed regs && !v.busy regs &&
          (regs.all fun id => (v.reg id).live && (v.reg id).poison == 0) && (kget v.res.latches 0).isNone &&
          v.core.slicesFree [0] && (v.fib.tile (v.tileIndex 0)).poison == [] &&
          quads.all fun i => ((kget v.res.slots i).any fun g => g.status != .frozen) || quads.length == 1
      | _, _, _ => false
    ok 0 16 = true ∧ ok 3 8 = true ∧
    (let r : GangRec := { gang := 3, type := 8, fmt := fmtReset, tile := 0, arrived := [demoArrival 0, demoArrival 1] }
     let s := (demoMma 3).modRes 0 0 fun x => { x with latches := [(0, r)] }
     let parts := r.arrived.map fun a => fragBytes 32 (s.regsOf 0 0 a.slot a.b a.nb)
     ((s.core 0).slicesFree (gangQuads r.gang 0) && r.arrived.length == (gangQuads r.gang 0).length &&
      match mmaForm (BitVec.ofNat 32 r.type) r.fmt with
      | some f => r.arrived.all fun a => (s.mmaShare 0 0 f r.fmt 32 parts a).isSome
      | none => false) = true) ∧
    (∀ doneAt ∈ [0, 9],
     let r : GangRec := { gang := 3, type := 8, fmt := fmtReset, tile := 0, arrived := [demoArrival 0, demoArrival 1] }
     let m : MmaRun := { doneAt := doneAt, quadrants := [0], shares := [{ slot := 0, fibre := 0, tile := 0, pc := 0, cells := [] }] }
     let s := (demoMma 3).modRes 0 0 fun x => { x with latches := [(0, r)], mmas := [(0, m)] }
     (s.core 0).slicesFree (gangQuads r.gang 0) = false ∧ s.clock = 0 ∧ (s.core 0).shadow = 0 ∧ (m.shares.map (·.slot)).Nodup ∧
       (s.fibre 0 0 0).any (fun f => f.num == 0) = true) := by decide +kernel

/-! ### Privileged instructions -/

/-- `demo` in a context that is not privileged. -/
def demoUser : State :=
  { demo 2 with control := { (demo 2).control with contexts := (demo 2).control.contexts.map fun p => (p.1, { p.2 with privileged := false }) } }

theorem witness_IllegalInstructions :
    (demoUser.view.any fun v =>
      let status : DUse := { dUse 16 1 false with fixed := true }
      !demoUser.privileged v && ({ uses := [uniUse 6], d := some status } : Form).encOk &&
        ({ uses := [v.addrUse 0 .a], d := some status } : Form).encOk && ({ uses := [v.addrUse 0 .a], d := none } : Form).encOk) = true := by
  decide +kernel

/-- `demo` with the page at 0x200000 channel-local, memory, channels, and teams of cores 1 and 2. -/
def demoBank (mem : List (Nat × List Byte)) (chans : KMap Channel) (ch : Option Nat) : State :=
  let s := demoWith 2 (fun f => { f with spec := { f.spec with bankCh := ch } }) id id
    fun c => { c with tlb := [{ demoLeaf with entry := 0x100003F }] }
  { s with
    mem := mem.foldl (fun m p => writeAll m (span p.1 p.2.length) p.2) []
    channels := chans
    cores := s.cores ++ [(1, { Core.reset 0 with r0 := { Residency.empty with team := some { demoTeam with num := 1 } } })] }

/-- The window's physical address of 0x1000, and a request block there: core, residency, save area 0x2000000. -/
def demoBlock (core : Nat) : List (Nat × List Byte) :=
  [(scratchPa 0 0x1000, bytesOfNat 8 core ++ bytesOfNat 8 0x2000000 ++ List.replicate 48 0)]

def demoOwner (fibre : Nat) : ChOwner := { ctx := 0, launch := 0, team := 0, fibre := fibre, gone := false }

def demoLaunch : Launch :=
  { ctx := 0, hdr := { demoHeader with tiles := 4, tx := 3, ty := 1, tz := 1 }, hdrAddr := 0, queue := 0, slot := 0, node := none, left := 3, frozen := 0, cancelled := false
    det := none, remap := [], ended := [], resting := [] }

def statusForm (u : Use) : Form := { uses := [u], d := some { dUse 16 1 false with fixed := true } }

/-- The window's 256 and 8,320 bytes at 0x1000 for LAUNCH and QTAB, with room in the device-launch queue and with none; HALTF of
a fibre and of an empty slot. -/
theorem witness_System :
    Witnessed (demo 2) (fun v =>
      let s := demo 2
      let ua := v.addrUse 0 .a
      let x := v.read ua none
      let whole := fun (n : Nat) => match s.xlatBytes v .load 0x1000 n with
        | .ok ps => reachesB v s false n [wholeAccess 0x1000 ps] && !s.poisoned (ps.map (·.pa)) &&
            !s.mustWait v (ps.map (·.pa)) && !s.writesPending v (ps.map (·.pa)) &&
            !s.seesPoison v.who.core v.who.res v.fib.num v.core.nextOp (ps.map (·.pa))
        | .error _ => false
      [{ fm := statusForm ua, xs := [x], mask := fullMask v.width, d := 16, w := 1
         also := x.shape == .u && v.place x 0 0 == 0x1000 &&
          v.active != 0 && whole 256 && whole 8320 && lateB v 16 1 .u && decide (v.fib.spec.ctr.ld < 65535) && v.team.det.isNone &&
          !v.tableComing && !s.acquiring v && (kget s.control.deviceQueues 0).isNone },
       { fm := statusForm (uniUse 6), xs := [v.read (uniUse 6) none], mask := v.active, d := 16, w := 1
         also := s.privileged v && lateB v 16 1 .u && (s.fibre 0 0 0).any (fun f => f.status != .frozen) && (s.fibre 0 0 5).isNone }]) ∧
    (let full := { Queue.reset with arvcnt := 4096 }
     4096 ≤ (full.arvcnt - full.consumed).toNat ∧ (Queue.reset.arvcnt - Queue.reset.consumed).toNat < 4096) :=
  ⟨witnessed (by decide +kernel), by decide +kernel⟩

/-- A pseudo-channel that nobody owns, with none and four of this fibre's; one that this fibre owns, and one that another does. -/
theorem witness_System_channels :
    let bank (chans : KMap Channel) (owner : Option ChOwner) (held : Nat) : Bool :=
      let s := demoBank [] chans none
      s.view.any fun v => match s.bankAddr v .bankRead 0x200100 with
        | .ok (q, _) => Need.ok v ({ fm := statusForm (v.addrUse 2 .a), xs := [v.read (v.addrUse 2 .a) none], mask := v.active, d := 16, w := 1 } : Need) &&
            readyB v { uses := [v.addrUse 2 .a], d := none } && (v.read (v.addrUse 2 .a) none).shape == .u && lateB v 16 1 .u &&
            v.place (v.read (v.addrUse 2 .a) none) 0 0 == 0x200100 && v.active != 0 &&
            (s.channel q).owner == owner && (s.channel q).queue == [] &&
            (s.channels.filter fun p => p.2.owner == some (demoOwner 0)).length == held
        | .error _ => false
    let owned (ks : List Nat) (o : ChOwner) : KMap Channel := ks.map fun k => (k, { Channel.reset with owner := some o })
    bank [] none 0 = true ∧ bank (owned [1, 2, 3, 4] (demoOwner 0)) none 4 = true ∧ bank (owned [128] (demoOwner 0)) (some (demoOwner 0)) 1 = true ∧
    bank (owned [128] (demoOwner 3)) (some (demoOwner 3)) 0 = true := by decide +kernel

/-- Requests about the issuer's team, another team, a residency that is free and one with a save in progress. -/
theorem witness_System_saves :
    let block (core : Nat) (change : State → State) (ok : State → Bool) : Bool :=
      let s := change (demoBank (demoBlock core) [] none)
      s.view.any fun v => Need.ok v ({ fm := statusForm (v.addrUse 0 .a), xs := [v.read (v.addrUse 0 .a) none], mask := v.active, d := 16, w := 1 } : Need) &&
        s.privileged v && lateB v 16 1 .u && (v.read (v.addrUse 0 .a) none).shape == .u && v.place (v.read (v.addrUse 0 .a) none) 0 0 == 0x1000 &&
        match (span 0x1000 64).mapM (fun i => s.windowPa 0 0 i) with
        | some pas => !s.inSpill 0 0 pas && !lockStops (s.locksOf 0 0) false 0x1000 64 && !s.mustWait v pas && !s.ownPoison v pas &&
            (match requestBlock 0 (s.ownBytes v pas) with
             | .ok (m, q, base) => m == core && q == 0 && base == 0x2000000
             | .error _ => false) && ok s
        | none => false
    let image (paired : Bool) (s : State) : State :=
      { s with
        mem := writeAll s.mem [0x2000000, 0x2000005] [1, 4]
        control := { s.control with launches := [(5, { demoLaunch with hdr := { demoLaunch.hdr with flags := if paired then 0x0B else 0x0A } })] } }
    let free (m : Nat) (s : State) : Bool := !s.inProgress m 0 && !s.occupied m 0
    let reads (m : Nat) (ok : Saved → Bool) (s : State) : Bool := free m s && readNat s.mem 0x2000000 4 == 1 &&
      readNat s.mem 0x200000A 1 == 0 && (s.readArea 0x2000000 m 0).any ok
    block 0 id (fun s => !s.inProgress 0 0 && s.occupied 0 0 && (s.team 0 0).any fun t => t.num == 0) = true ∧
    block 1 id (fun s => !s.inProgress 1 0 && s.occupied 1 0 && (s.team 1 0).any fun t => t.num == 1) = true ∧
    block 2 id (fun s => free 2 s && (s.team 2 0).isNone && readNat s.mem 0x2000000 4 != 1) = true ∧
    block 0 (fun s => s.modTeam 0 0 fun t => { t with save := some .swap }) (·.inProgress 0 0) = true ∧
    block 2 (fun s => { s with mem := writeAll s.mem [0x2000000] [1] }) (fun s => free 2 s && (s.readArea 0x2000000 2 0).isNone) = true ∧
    block 2 (image false) (reads 2 fun x => !x.team.hdr.paired) = true ∧ block 3 (image true) (reads 3 fun x => x.team.hdr.paired) = true ∧
    block 2 (image true) (fun s => reads 2 (fun x => x.team.hdr.paired && x.team.hdr.coresAt 2 == [2, 3]) s && !s.occupied 3 0) = true ∧
    block 4 (fun s => { image true s with cores := s.cores ++ [(5, { Core.reset 5 with restore := [(0, { base := none, saved :=
        { team := demoTeam, even := Residency.empty, odd := none, scratch := [], ops := [] } })] })] })
      (fun s => reads 4 (fun x => x.team.hdr.paired) s && s.occupied 5 0) = true := by decide +kernel

/-! ### Engines -/

/-- A descriptor at 0x1000 for FILL of 64 bytes at 0x2000, and one of zeros, which is not legal for FILL. -/
def demoFill : List Byte := bytesOfNat 8 0 ++ bytesOfNat 8 4 ++ bytesOfNat 8 0x2000 ++ bytesOfNat 8 64 ++ List.replicate 16 7 ++ List.replicate 16 0

def demoCmd (code : Nat) : EngCmd :=
  { code := code, desc := demoFill, statusPas := span (scratchPa 0 0x100C) 4, slot := 0, op := 7, ctx := 0, ranges := []
    readyAt := 0, conds := 0, packets := [] }

/-- A legal descriptor, and one that is not, with nothing outstanding on its path and with an access of the fibre. -/
theorem witness_EngineCommands :
    let ok (mem : List (Nat × List Byte)) (ops : KMap Op) (legal : Bool) : Bool :=
      let s := (demoBank mem [] none).modCore 0 fun c => { c with ops := ops, nextOp := 1 }
      s.view.any fun v => match s.xlatBytes v .load 0x1000 64 with
        | .ok ps =>
          let pas := ps.map (·.pa)
          let desc := s.ownBytes v pas
          Need.ok v { fm := statusForm (v.addrUse 0 .a), xs := [v.read (v.addrUse 0 .a) none], mask := fullMask 64, d := 16, w := 1 } &&
            reachesB v s false 64 [wholeAccess 0x1000 ps] && !s.mustWait v pas && !s.ownPoison v pas &&
            (v.read (v.addrUse 0 .a) none).shape == .u && v.team.det.isNone && v.fib.status == .ready && v.core.nextOp == 1 &&
            (kgetD v.res.deps 0 DepEntry.fresh).state == .free && decide ((pas.drop 12).take 4).Nodup &&
            (v.core.ops.all fun p => decide (p.1 < 1) && p.2.res == 0 && p.2.slot == v.who.slot && p.2.path == 3 && !p.2.done) &&
            match descRanges v.core 4 desc with
            | none => !legal
            | some rs => legal && (match s.xlatRanges v rs with | .ok _ => true | .error _ => false) &&
                decide ((s.locksOf 0 0).length + (rs.filter fun g => g.lock && g.len != 0).length ≤ if (s.core (s.home 0 0)).dual then 16 else 32)
        | .error _ => false
    let busy : KMap Op := [(0, { res := 0, slot := 0, fibre := 0, ply := 0, path := 3, active := 0, lm := 0, body := .engine 1
                                 done := false, pages := [], seq := 0 })]
    ok [(scratchPa 0 0x1000, demoFill)] [] true = true ∧ ok [] [] false = true ∧ ok [] busy false = true := by decide +kernel

/-- Engines: nothing READY; a FILL and an RDX that are READY, the older first; a RUNNING one that is due and one whose ply has an
earlier load from its destination; commands at the selection and the reduction engine. -/
theorem witness_EngineCommands_events :
    (let s (deps : List (DepState × EngCmd)) : State := demoWith 2 id id (fun r => { r with
       deps := deps.zipIdx.map fun p => (p.2, { state := p.1.1, gen := 1, cmd := some p.1.2 }) }) id
     let me : BaseCmd := { core := 0, res := 0, entry := 0 }
     (s []).nextReady 0 = none ∧
     (∀ k ∈ [4, 6, 8], (s [(.ready, demoCmd k)]).nextReady 0 = some { res := 0, entry := 0, cmd := demoCmd k }) ∧
     (s [(.ready, { demoCmd 4 with readyAt := 5 }), (.ready, demoCmd 8)]).nextReady 0 = some { res := 0, entry := 1, cmd := demoCmd 8 } ∧
     (s [(.running, demoCmd 4)]).destClear 0 0 (demoCmd 4) = true ∧
     (let c : EngCmd := { demoCmd 4 with op := 1, ranges := [{ va := 0x2000, len := 64, dest := true, leaves := [] }] }
      let late := (s [(.running, c)]).modCore 0 fun x => { x with ops := [(0, Op.mk 0 0 0 0 0 1 0 (demoLoad (scratchPa 0 0x2000)) false [] 0),
        (1, Op.mk 0 0 0 0 3 0 0 (.engine 0) false [] 1)] }
      late.destClear 0 0 c = false) ∧
     (let h : State := { s [(.running, demoCmd 6)] with homes := [(0, { Home.reset with queue := [me], down := false, farReady := true })] }
      (h.agent 0).queue = [me] ∧ (h.agent 0).running = none ∧ (h.agent 0).farReady = true ∧ (h.agent 0).down = false ∧
        (h.baseCmd me).any (h.destClear 0 0) = true) ∧
     (let h : State := { s [(.running, demoCmd 8)] with homes := [(0, { Home.reset with sums := [me], down := false })] }
      (h.agent 0).sums = [me] ∧ (h.agent 0).summing = none ∧ (h.agent 0).queue = [] ∧ (h.agent 0).down = false) ∧
     (∀ k ∈ [6, 8], let h : State := { s [(.running, demoCmd k)] with
        homes := [(0, { Home.reset with running := if k = 6 then some me else none, summing := if k = 8 then some me else none })] }
      h.destClear 0 0 (demoCmd k) = true ∧ (demoCmd k).packets = [] ∧ (demoCmd k).stack h 0 0 = 0 ∧
        (k = 8 → (h.agent 0).summing = some me) ∧ (k = 6 → (h.agent 0).running = some me))) := by decide +kernel

/-! ### Bank units -/

/-- A fibre that owns pseudo-channel 128 without being in bank mode, and in bank mode; with an empty mask; the oldest command of
the channel for each effect, of a live fibre, and of one that is DONE, as its last and before another of it. -/
theorem witness_BankCommands :
    let ch : Channel := { Channel.reset with owner := some (demoOwner 0) }
    let idle := demoBank [] [(128, ch)] none
    let on := demoBank [] [(128, ch)] (some 128)
    let bank (s : State) (v : View) (cls : AccClass) (a : BitVec 9) : Bool :=
      v.place (v.read (v.addrUse a .a) none) 0 0 == 0x200100 &&
        match s.bankAddr v cls 0x200100 with | .ok (q, _) => q == 128 | .error _ => false
    let need (v : View) (a : BitVec 9) (ok : Bool) : Need :=
      { fm := { uses := [v.addrUse a .a], d := none }, xs := [v.read (v.addrUse a .a) none], mask := v.active
        also := ok && (v.read (v.addrUse a .a) none).shape == .u && v.team.det.isNone && decide (v.fib.spec.ctr.get 4 < 65535) }
    Witnessed idle (fun v => [need v 2 (v.active != 0 && v.fib.spec.bankCh.isNone && (idle.channel 128).owner == some (demoOwner 0) &&
      bank idle v .bankRead 2 && !idle.acquiring v && idle.privileged v &&
      match idle.bankPlace v .bankRead 0x200100 with | .ok (p, cl) => cl && !p.far 0 | .error _ => false)]) ∧
    Witnessed on (fun v =>
      [need v 2 (v.active != 0 && bank on v .bankRead 2 && bank on v .bankWrite 2 && v.fib.spec.bankCh == some 128 && !on.acquiring v),
       need v 0 (v.active != 0 && match on.xlatBytes v .bankRead 0x1000 32 with
        | .ok ps => v.place (v.read (v.addrUse 0 .a) none) 0 0 == 0x1000 &&
            reachesB v on false 32 [{ lane := 0, va := 0x1000, places := ps }] && !on.mustWait v (ps.map (·.pa)) &&
            ps.all fun p => kindOf p.pa == 1 && (on.teamCores 0 0).contains (scratchCore p.pa)
        | .error _ => false),
       { fm := { uses := [], d := some { dUse 16 1 false with fixed := true, discard := false } }, also := lateB v 16 1 .g }]) ∧
    (let none' := demoWith 2 (fun f => { f with p0 := { f.p0 with exec := 0 } }) id id id
     Witnessed none' fun v => [need v 2 (v.active == 0 && none'.privileged v && !none'.acquiring v),
       { fm := { uses := [], d := some { dUse 16 1 false with fixed := true, discard := false } } }]) :=
  ⟨witnessed (by decide +kernel), witnessed (by decide +kernel), witnessed (by decide +kernel)⟩

theorem witness_BankCommands_events :
    let cmd (act : BankDo) : BankCmd := { core := 0, op := 0, by_ := demoOwner 0, banks := [0, 1], act := act }
    let s (gone : Bool) (q : List BankCmd) : State :=
      { demo 2 with channels := [(128, { Channel.reset with owner := some { demoOwner 0 with gone := gone }, queue := q })] }
    (∀ act ∈ [BankDo.enter, .leave, .load 7 0, .store 7 0, .broadcast 7 [] false, .mac 7 0 0, .reduce 0 7],
      ((s false [cmd act]).channel 128).queue = [cmd act] ∧
      ((s false [cmd act]).channel 128).owner ≠ some { (cmd act).by_ with gone := true } ∧ (cmd act).banks.Nodup) ∧
    (∀ i ∈ [0, 1], (s false [cmd (.store 7 0)]).regionTouched ((span (i * 1024) 32).map (channelPa 128)) = none) ∧
    ((s true [cmd .leave]).channel 128).owner = some { (cmd .leave).by_ with gone := true } ∧
    ((s true [cmd .leave, cmd .enter]).channel 128).queue = [cmd .leave, cmd .enter] := by decide +kernel

/-! ### Where commands trap -/

/-- FILL of 64 bytes at an address. -/
def fillAt (a : Nat) : List Byte := bytesOfNat 8 0 ++ bytesOfNat 8 4 ++ bytesOfNat 8 a ++ bytesOfNat 8 64 ++ List.replicate 32 0

/-- `demo` with a descriptor in the window, the page at 0x200000 at a place, locks, a bank channel, and channel 128's owner. -/
def demoCmds (desc : List Byte) (entry : BitVec 64) (locks : List Lock) (ch : Option Nat) : State :=
  let s := demoWith 2 (fun f => { f with
      spec := { f.spec with bankCh := ch }
      regs := { f.regs with v := f.regs.v.set 0 { live := true, val := .u 0x1000, poison := 0 } } }) id
    (fun r => { r with locks := locks }) fun c => { c with tlb := [{ demoLeaf with entry := entry }] }
  { s with mem := writeAll [] (span (scratchPa 0 0x1000) desc.length) desc }

/-- What a descriptor's ranges meet: a place of another die, a place that is no memory, a spill area or a locked descriptor. -/
theorem witness_CommandTraps :
    let rangesOk (s : State) (far out spill locked : Bool) : Bool := s.view.any fun v =>
      readyB v (statusForm (v.addrUse 0 .a)) && (v.read (v.addrUse 0 .a) none).shape == .u &&
      v.place (v.read (v.addrUse 0 .a) none) 0 0 == 0x1000 &&
      match s.xlatBytes v .load 0x1000 64 with
      | .ok ps =>
        let pas := ps.map (·.pa)
        let rs := (descRanges v.core 4 (s.ownBytes v pas)).getD []
        !s.mustWait v pas && rs != [] &&
        (match rs.mapM (s.xlatRange v) with
         | .ok xs =>
           (xs.flatten.any fun q => q.2.2.far 0) == far && (xs.flatten.any fun q => kindOf q.2.2.pa == 3) == out &&
           (xs.flatten.any fun q => (s.spillAreas 0 0).any fun x => overlaps q.2.2.pa q.2.1 x.1 x.2) == spill
         | .error _ => false) && (s.inSpill 0 0 pas || lockStops (s.locksOf 0 0) false 0x1000 64) == locked
      | .error _ => false
    let lock : Lock := { entry := 0, va := 0x1000, len := 64, dest := true }
    rangesOk (demoCmds (fillAt 0x200100) 0x100000100001F [] none) true false false false = true ∧
    rangesOk (demoCmds (fillAt 0x200100) 0x30000000001F [] none) false true false false = true ∧
    rangesOk (demoCmds (fillAt 0xF2000) 0x100001F [] none) false false true false = true ∧
    rangesOk (demoCmds (fillAt 0x2000) 0x100001F [lock] none) false false false true = true ∧
    ((demo 2).view.any fun v => readyB v (statusForm (v.addrUse 2 .a)) && (v.read (v.addrUse 2 .a) none).shape == .u &&
      decide (0x200000 ≤ v.place (v.read (v.addrUse 2 .a) none) 0 0)) = true ∧
    ((demoPage 0x100001F [] false).view.any fun v => deadB v (statusForm (v.addrUse 0 .a)) &&
      (v.read (v.addrUse 0 .a) none).shape == .u) = true ∧
    (let bank (s : State) (va : Nat) (a : BitVec 9) (far cl : Bool) (ch : Option Nat) : Bool := s.view.any fun v =>
       readyB v { uses := [v.addrUse a .a], d := none } && (v.read (v.addrUse a .a) none).shape == .u && v.active != 0 &&
       v.place (v.read (v.addrUse a .a) none) 0 0 == va && v.fib.spec.bankCh == ch &&
       match s.bankPlace v .bankRead va, s.bankPlace v .bankWrite va with
       | .ok (p, c), .ok (q, k) => p.far 0 == far && c == cl && q.far 0 == far && k == cl && ch != some (channelOf p.pa)
       | _, _ => false
     bank (demoCmds [] 0x100003F [] none) 0x200100 2 false true none = true ∧
     bank (demoCmds [] 0x100000100003F [] (some 128)) 0x200100 2 true true (some 128) = true ∧
     bank (demoCmds [] 0x100001F [] (some 128)) 0x200100 2 false false (some 128) = true ∧
     bank (demoCmds [] 0x100003F [] (some 7)) 0x200100 2 false true (some 7) = true) ∧
    (let bbc (s : State) (ok : List Place → Bool) : Bool := s.view.any fun v => v.fib.spec.bankCh == some 128 &&
       match s.xlatBytes v .bankRead 0x200100 32 with | .ok ps => ok ps | .error _ => false
     bbc (demoCmds [] 0x100000100001F [] (some 128)) (·.any (·.far 0)) = true ∧
     bbc (demoCmds [] 0x100001F [] (some 128)) (fun ps => !ps.any (·.far 0) && ps.any fun p => kindOf p.pa != 1) = true) ∧
    (let s := demoCmds [] 0x100001F [{ entry := 0, va := 0x1000, len := 64, dest := true }] (some 128)
     (s.view.any fun v => match s.xlatBytes v .bankRead 0x1000 32 with
      | .ok ps => !ps.any (·.far 0) && ps.all (fun p => kindOf p.pa == 1 && (s.teamCores 0 0).contains (scratchCore p.pa)) &&
          lockStops (s.locksOf 0 0) false 0x1000 32
      | .error _ => false) = true) ∧
    ((demo 2).view.any fun v => v.active != 0 && v.fib.spec.bankCh == none && lateB v 16 1 .g &&
      readyB v { uses := [], d := some { dUse 16 1 false with fixed := true, discard := false } }) = true := by decide +kernel

/-- A descriptor: its code and the fields from byte 16 on, as sizes and numbers (11 R273). -/
def engDesc (code : Nat) (fields : List (Nat × Nat)) : List Byte :=
  let fs := fields.flatMap fun p => bytesOfNat p.1 p.2
  bytesOfNat 8 0 ++ bytesOfNat 8 code ++ fs ++ List.replicate (48 - fs.length) 0

/-- A legal descriptor of each code, or several: rows of 64 bytes from 0x200000 on to 0x201000 on; a FILL; a KVC of rows 0 and 3 with
an arrival target and without; selections of f32 and u16 among 4 elements; a sum of two buffers with a flag and without; a narrow
and a wide region; a region that is revoked; a wide region of 2 KiB. -/
def engDescs : List (Nat × List Byte) :=
  [(0, engDesc 0 [(8, 0x200000), (8, 0x201000), (4, 64)]),
   (1, engDesc 1 [(8, 0x200000), (8, 0x201000), (4, 64), (4, 2), (4, 128), (4, 64)]),
   (1, engDesc 1 [(8, 0x200200), (8, 0x201000), (4, 64), (4, 2), (4, 2 ^ 32 - 128), (4, 2 ^ 32 - 64)]),
   (2, engDesc 2 [(8, 0x200000), (8, 0x201000), (8, 0x202000), (4, 64), (4, 2), (4, 2)]),
   (3, engDesc 3 [(8, 0x200000), (8, 0x201000), (8, 0x202000), (4, 64), (4, 2), (4, 2)]),
   (4, engDesc 4 [(8, 0x201000), (4, 64), (4, 0), (8, 7), (8, 9)]),
   (5, engDesc 5 [(8, 0x200000), (8, 0x201000), (8, 0x202000), (4, 64), (4, 1), (8, 9), (8, 0)]),
   (5, engDesc 5 [(8, 0x200000), (8, 0x201000), (8, 0x202000), (4, 64), (4, 1), (8, 9), (8, 0x203000)]),
   (6, engDesc 6 [(8, 0x200000), (4, 4), (1, 10), (1, 2), (2, 2), (4, 0x3F800000), (4, 5), (8, 0x201000)]),
   (6, engDesc 6 [(8, 0x200000), (4, 4), (1, 8), (1, 11), (2, 256), (4, 0x3F80), (4, 5), (8, 0x201000)]),
   (7, engDesc 7 [(8, 0x200000), (4, 4), (1, 10), (1, 0), (2, 2), (4, 0), (4, 5), (8, 0x201000)]),
   (8, engDesc 8 [(8, 0x202000), (8, 0x201000), (4, 2), (4, 3), (8, 0)]),
   (8, engDesc 8 [(8, 0x202000), (8, 0x201000), (4, 2), (4, 3), (8, 0x203000), (4, 77)]),
   (9, engDesc 9 [(8, 0x204000), (4, 128), (4, 0), (4, 0)]), (9, engDesc 9 [(8, 0x204000), (4, 128), (4, 1), (4, 2 ^ 32 - 160)]),
   (10, engDesc 10 [(8, 0x204000)]), (9, engDesc 9 [(8, 0x204000), (4, 2048), (4, 1), (4, 0)])]

/-- Each is legal, and not with a reserved byte set (11 R273); by hand, the ranges of the second CPY2D: it reads down from 0x200200
to 0x200180, and writes down from 0x201000 to 0x200FC0. -/
theorem witness_CommandTraps_legal :
    (∀ p ∈ engDescs, p.2.length = 64 ∧ (descRanges (Core.reset 0) p.1 p.2).isSome = true ∧
      descRanges (Core.reset 0) p.1 (p.2.set 9 1) = none) ∧
    (engDescs[2]?.bind fun p => descRanges (Core.reset 0) p.1 p.2) = some
      [{ va := 0x200180, len := 192, dest := false, lock := true, stack := false },
       { va := 0x200FC0, len := 128, dest := true, lock := true, stack := false }] := by decide +kernel

/-- A command that runs, in the state that it completes in: its page holds what `mem` says, and regions stand in its die. -/
def engRuns (p : Nat × List Byte) (entry : BitVec 64) (mem : List (Nat × Nat × Nat)) (regions : List Region) : State :=
  let c : EngCmd := { demoCmd p.1 with
    desc := p.2, ranges := [{ va := 0x200000, len := 65536, dest := false, leaves := [{ demoLeaf with entry := entry }] }] }
  let me : BaseCmd := { core := 0, res := 0, entry := 0 }
  let s := demoWith 2 id id (fun r => { r with deps := [(0, { state := .running, gen := 1, cmd := some c })] }) id
  { s with
    mem := mem.foldl (fun m w => writeAll m (span w.1 w.2.1) (bytesOfNat w.2.1 w.2.2)) []
    homes := [(0, { Home.reset with
      regions := regions, down := false, farReady := true
      running := if p.1 = 6 ∨ p.1 = 7 then some me else none, summing := if p.1 = 8 then some me else none })] }

/-- Whether a running command may complete with a clean STATUS, and more. -/
def endsB (s : State) (ok : EngCmd → (Nat → Nat) → Bool) : Bool :=
  ((kget (s.res 0 0).deps 0).bind (·.cmd)).any fun c =>
    let h := s.agent (c.stack s 0 0)
    let me : BaseCmd := { core := 0, res := 0, entry := 0 }
    s.destClear 0 0 c && (c.code != 8 || h.summing == some me) &&
      ((c.code != 6 && c.code != 7) || (h.running == some me && c.packets == [])) && s.poison == [] && c.conds == 0 &&
      c.statusPas.length == 4 && decide c.statusPas.Nodup && ok c (c.pa s 0 0)

/-- What each kind of command finds where it completes: no region at what it writes, and no byte that it writes among those it
reads; an index in range and one beyond the table; an arrival target that is a region's base and one that is none; a region's place
in either decoding that is free and one that is not; a region of the context to revoke, and none. -/
theorem witness_EngineCommands_ends :
    let free (s : State) (as : List Nat) : Bool := as.all fun b => (s.regionAt b).isNone
    let apart (xs ys : List Nat) : Bool := xs.all fun a => !ys.contains a
    let d (k : Nat) : Nat × List Byte := engDescs.getD k (0, [])
    let at_ (pa : Nat → Nat) (va n : Nat) : List Nat := (span va n).map pa
    let arv : Region := { demoRegion .opened with base := 0x1003000, wide := false }
    (∀ k ∈ [0, 5], let s := engRuns (d k) 0x100001F [] []
      endsB s (fun _ pa => free s (at_ pa 0x201000 64)) = true) ∧
    (let s := engRuns (d 1) 0x100001F [] []
     endsB s (fun c pa => let f := leAt c.desc
       (List.range (f 36 4)).all fun i => free s (at_ pa (0x201000 + 64 * i) 64) &&
        (List.range (f 36 4)).all fun j => apart (at_ pa (0x200000 + 128 * j) 64) (at_ pa (0x201000 + 64 * i) 64)) = true) ∧
    (∀ k ∈ [3, 4], let s := engRuns (d k) 0x100001F [(0x1002000, 4, 1), (0x1002004, 4, 2)] []
      endsB s (fun c pa => let f := leAt c.desc
        let x := fun i => leNat (readAll s.mem (at_ pa (f 32 8 + 4 * i) 4))
        let src := fun i => if k = 3 then 0x200000 + x i * 64 else 0x201000 + i * 64
        let dst := fun i => if k = 3 then 0x201000 + i * 64 else 0x200000 + x i * 64
        x 0 == 1 && x 1 == 2 && f 48 4 == 2 && free s (at_ pa (dst 0) 64) && [0, 1].all fun j =>
          apart (at_ pa (f 32 8 + 4 * j) 4) (at_ pa (dst 0) 64) && apart (at_ pa (src j) 64) (at_ pa (dst 0) 64)) = true) ∧
    (∀ x ∈ [(6, []), (7, []), (7, [arv])], let s := engRuns (d x.1) 0x100001F [] x.2
      endsB s (fun c pa => let f := leAt c.desc
        let rows := (List.range 64).filter (f 48 8).testBit
        let src := fun i => 0x200000 + rows.getD i 0 * 64
        let dst := fun i => 0x201000 + (1 + i) * 64
        rows == [0, 3] && f 56 8 == (if x.1 = 7 then 0x203000 else 0) && free s (at_ pa 0x202000 8) &&
          ([0, 1].all fun i => free s (at_ pa (dst i) 64) && [0, 1].all fun j => apart (at_ pa (src j) 64) (at_ pa (dst i) 64)) &&
          (x.1 == 6 || ((s.regionAt (pa 0x203000)).map fun r => (r.2.base, r.2.state)) == x.2.head?.map fun r => (r.base, r.state)) &&
          apart (at_ pa (dst 0) 128 ++ at_ pa 0x202000 8) (span (pa 0x203000) 4)) = true) ∧
    (∀ k ∈ [8, 10], endsB (engRuns (d k) 0x100001F [] []) (fun c _ => c.code == 6 || c.code == 7) = true) ∧
    (∀ x ∈ [((13 : Nat), (0x100001F : BitVec 64), false), (14, 0x100001F, false), (16, 0x100003F, true)], ∀ taken ∈ [true, false],
      let base := (engRuns (d x.1) x.2.1 [] [])
      let home := ((kget (base.res 0 0).deps 0).bind (·.cmd)).map fun c => c.pa base 0 0 0x204000
      let s := engRuns (d x.1) x.2.1 [] (if taken then [{ demoRegion .opened with base := home.getD 0, cl := x.2.2 }] else [])
      endsB s (fun c pa => let f := leAt c.desc
        let steps := fun cl => (List.range (f 24 4 / 64)).all fun i => pa (0x204000 + 64 * i) == regionByte cl (pa 0x204000) (64 * i)
        steps x.2.2 && (!x.2.2 || !steps false) && dieOf (pa 0x204000) == 0 &&
          s.regionFits x.2.2 (pa 0x204000) (f 24 4) (decide (f 28 4 = 1)) == !taken &&
          (!taken || !s.regionFits (!x.2.2) (pa 0x204000) (f 24 4) (decide (f 28 4 = 1)) || !steps (!x.2.2))) = true) ∧
    (∀ rs ∈ [[{ demoRegion .opened with base := 0x1004000 }], []], let s := engRuns (d 15) 0x100001F [] rs
      endsB s (fun c pa => (s.regionAt (pa 0x204000)).map (fun p => (p.2.base == pa 0x204000 && p.2.owner == c.ctx && p.2.state == .opened)) ==
        rs.head?.map fun _ => true) = true) := by decide +kernel

/-- A selection that may start: SELP with a bound, and SELK. -/
theorem witness_EngineCommands_selects :
    ∀ k ∈ [8, 10], let s0 := engRuns (engDescs.getD k (0, [])) 0x100001F [] []
      let me : BaseCmd := { core := 0, res := 0, entry := 0 }
      let s : State := { s0 with homes := [(0, { s0.agent 0 with running := none, queue := [me] })] }
      (s.agent 0).down = false ∧ (s.agent 0).queue = [me] ∧ (s.agent 0).running = none ∧ (s.agent 0).farReady = true ∧
      ((s.baseCmd me).any fun c => s.destClear 0 0 c && (c.code == 6 || c.code == 7) && leAt c.desc 28 1 == 10 && leAt c.desc 30 2 == 2) = true := by
  decide +kernel

/-- The kinds of 17 R355: 3 FAR, 4 SCOPE, 5 RLOCK, 6 BANKBUSY; 0 for a descriptor outside the window; 2 for a dead source. -/
theorem test_command_traps :
    trapsTo (demoCmds (fillAt 0x200100) 0x100000100001F [] none) (.engFill false 16 0) = some 3 ∧
    trapsTo (demoCmds (fillAt 0x200100) 0x30000000001F [] none) (.engFill false 16 0) = some 4 ∧
    trapsTo (demoCmds (fillAt 0xF2000) 0x100001F [] none) (.engFill false 16 0) = some 5 ∧
    trapsTo (demo 2) (.engCpy false 16 2) = some 0 ∧ trapsTo (demoPage 0x100001F [] false) (.engSelp false 16 0) = some 2 ∧
    trapsTo (demoCmds [] 0x100003F [] none) (.bnkBld false 0 2) = some 6 ∧
    trapsTo (demoCmds [] 0x100000100003F [] (some 128)) (.bnkBst false 0 2) = some 3 ∧
    trapsTo (demoCmds [] 0x100001F [] (some 128)) (.bnkBmac false 0 0 2) = some 4 ∧
    trapsTo (demoCmds [] 0x100003F [] (some 7)) (.bnkBld false 0 2) = some 6 ∧
    trapsTo (demoCmds [] 0x100001F [] (some 128)) (.bnkBbc false 0 2) = some 4 ∧
    trapsTo (demo 2) (.bnkBexit false) = some 6 ∧ trapsTo (demo 2) (.bnkBrd false 16) = some 6 := by decide +kernel

/-! ### Events of cores and teams -/

/-- `demo` with a change of its control die. -/
def demoControl (f : Control → Control) : State := { demo 2 with control := f (demo 2).control }

def demoWaiting (since : Nat) : Waiting := { launch := 5, num := 1, count := 1, since := since, saved := none, aged := false }

/-- `s` with a launch of which one team waits on list 0 of device 0. -/
def withWaiting (s : State) (w : Waiting) : State :=
  { s with control := { s.control with launches := [(5, demoLaunch)], lists := [(0, [w])] } }

def demoBin (st : BinState) (target : Addr) (n : Nat) : Bin :=
  { state := st, target := target, entries := List.replicate n { v := [1, 2, 3, 4], fibre := 0, lane := 0 }, since := 0, order := 0 }

/-- A spindle whose active fibre is stalled with and without the yield bit, and another that is ready; a bin that is FILLING,
before and after 4,096 cycles, and one that is FULL with a free slot, beside a save that an open NOPRE section defers and
without; a team of one fibre that is stuck at a SPAWN with every bin
FILLING for another target. -/
theorem witness_SchedulingEvents_bins :
    (let ok (y : Bool) : Bool :=
       let f : Fibre → Fibre := fun f => { f with p0 := { f.p0 with stall := some y } }
       let s := demoWith 2 f id (fun r => { r with slots := kset r.slots 8 (demoFibre 2) }) id
       ((s.core 0).res 0).activeSlot 0 == some 0 && ((s.core 0).res 0).nextReady 0 (posOf 0) == some 8 &&
         (kget ((s.core 0).res 0).slots 0).any (fun f => f.stalledYield == y)
     ok true = true ∧ ok false = true) ∧
    (∀ now ∈ [4095, 4096], let s : State := { demoWith 2 id (fun t => { t with bins := [demoBin .filling 0x200100 3] }) id id with clock := now }
      ((s.res 0 0).team.any fun t => (t.bins.getD 0 Bin.empty).state == .filling && t.det.isNone) = true ∧ s.home 0 0 = 0) ∧
    (∀ save ∈ [none, some SaveReason.swap],
     let s := demoWith 2 (fun f => { f with sched := { f.sched with nopre := some 0 } })
       (fun t => { t with bins := [demoBin .full 0x200100 20], save := save }) id id
     ((s.res 0 0).team.any fun t => t.det.isNone && t.save == save && s.nopreOpen 0 0 && s.freeSlot 0 0 t == some 1 && t.nextBin == some 0 &&
       !(binFibre t.hdr 1 s.clock 0x200100 ((t.bins.getD 0 Bin.empty).entries.take t.hdr.width)).2) = true) ∧
    (let spawn : List Byte := (encodeBytes (.spawn false 2)).getD []
     let s : State := { demoWith 2 id (fun t => { t with hdr := { t.hdr with fibres := 1 }, bins := List.replicate 8 (demoBin .filling 0x200200 15) }) id id with
       mem := writeAll [] (span 0x1000000 4) spawn }
     let live := (s.teamFibres 0 0).filter fun x => x.2.2.status != .frozen
     live ≠ [] ∧ ((s.res 0 0).team.any fun t => (s.freeSlot 0 0 t).isNone) = true ∧
       (∀ x ∈ live, s.spawnStuck x.1 0 x.2.1 x.2.2 = true ∧ (s.team x.1 0).isSome = true)) := by decide +kernel

/-- A team whose every fibre has waited for more than 2^18 cycles while a team of its residency waits; a quantum that has ended,
with a team that may take the core and with none, and one that has not. -/
theorem witness_SchedulingEvents_teams :
    (let s : State := { withWaiting (demoWith 2 (fun f => { f with status := .waiting }) id id id) (demoWaiting 0) with clock := 2 ^ 18 + 1 }
     let live := (s.teamFibres 0 0).filter fun x => x.2.2.status != .frozen
     live ≠ [] ∧ ((s.res 0 0).team.any fun t => t.save.isNone && s.teamWaits 0 0 (s.deviceOf t.ctx)) = true ∧
       (∀ x ∈ live, x.2.2.waits = true ∧ x.2.2.sched.since + 2 ^ 18 < s.clock)) ∧
    (let s : State := { withWaiting (demo 2) (demoWaiting 0) with clock := 2500000 }
     ((s.res 0 0).team.any fun t => t.quantumAt + (s.core 0).quant ≤ s.clock && (s.replacement 0 0 t).isSome) = true) ∧
    (let s : State := { demo 2 with clock := 2500000 }
     ((s.res 0 0).team.any fun t => t.quantumAt + (s.core 0).quant ≤ s.clock && (s.replacement 0 0 t).isNone) = true) ∧
    (let s : State := { demo 2 with clock := 2499999 }
     ((s.res 0 0).team.any fun t => s.clock < t.quantumAt + (s.core 0).quant) = true) := by decide +kernel

/-- A NOPRE section open since 0, at the end of its budget and one cycle before, and of a deterministic launch; a fibre of which one
ply has begun to wait in a quantum, with a section that ends at its next instruction; a core that is draining, with no MMA, and one
that has been idle for 64 and for 63 cycles while a fibre of its other residency is ready; a team that has waited 50 us, and one that has not. -/
theorem witness_SchedulingEvents_cores :
    (∀ now ∈ [2 ^ 20 - 1, 2 ^ 20], let s : State := { demoWith 2 (fun f => { f with sched := { f.sched with nopre := some 0 } }) id id id with clock := now }
      ((s.fibre 0 0 0).any fun f => f.sched.nopre == some 0) = true ∧ ((s.team 0 0).any fun t => t.det.isNone) = true) ∧
    (let s := demoWith 2 (fun f => { f with sched := { f.sched with nopre := some 0 } }) (fun t => { t with det := some demoDet }) id id
     ((s.fibre 0 0 0).any fun f => f.sched.nopre == some 0) = true ∧ ((s.team 0 0).any fun t => t.det.isSome) = true) ∧
    (let f : FSched := { (demoFibre 2).sched with tally := [(0, true)], left := some 3, nopre := some 7, retired := 2 ^ 20 + 6 }
     (kget f.tally 0).isSome = true ∧ (kget f.tally 1).isSome = false ∧ f.left = some 3 ∧ f.nopre = some 7 ∧ 7 + 2 ^ 20 ≤ f.retired + 1 ∧
       (demoFibre 2).sched.left = none) ∧
    (let s := demoWith 2 id id id fun c => { c with dual := true, draining := true }
     (s.core 0).draining = true ∧ ((s.core 0).res (s.core 0).issuing).mmas = []) ∧
    (∀ now ∈ [163, 164], let s : State := { demoWith 2 id id id fun c => { c with dual := true, issuing := 1, idleSince := some 100 } with clock := now }
     let c := s.core 0
     c.dual = true ∧ c.draining = false ∧ (c.res c.issuing).anyReady = false ∧ (c.res (1 - c.issuing)).anyReady = true ∧
       c.idleSince = some 100 ∧ kget s.cores 0 = some c) ∧
    (∀ now ∈ [124999, 125000], let s : State := { withWaiting (demo 2) (demoWaiting 0) with clock := now }
      s.list 0 = [demoWaiting 0] ∧ (demoWaiting 0).aged = false) := by decide +kernel

/-- A queue of context 0 that holds one record of 256 bytes of 1, enabled or not. -/
def demoQueue (on : Bool) : Queue :=
  { Queue.reset with enable := on, arvcnt := 1, owner := some (17, 0), granules := (List.range 64).map fun g => (g, 0x01010101) }

def demoSaved : Saved :=
  { team := { demoTeam with num := 1 }, even := Residency.empty, odd := none, scratch := [], ops := [] }

/-- A control die with queues 0 and 1 of context 0, each with a record, of which the queue at `served` is next. -/
def demoQueues (on : Bool) (served : Nat) : State :=
  demoControl fun k => { k with queues := [(0, demoQueue on), (1, demoQueue on)], served := served }

theorem ready_only (on : Bool) (served k : Nat) (h : (demoQueues on served).queueReady k = true) : k = 0 ∨ k = 1 := by
  by_contra hk
  have : (demoQueues on served).anyQueue k = Queue.reset := by
    unfold State.anyQueue
    split
    · simp only [State.queue, demoQueues, demoControl, kgetD, kget]
      rw [if_neg (by omega), if_neg (by omega)]
      rfl
    · rfl
  simp [State.queueReady, this, Queue.reset] at h

/-- A queue that is enabled or not; of two that are ready, the one whose turn it is, and the other; nothing to place; a team of a
launch that waits, and one that was saved. -/
theorem witness_TeamEvents_placing :
    (∀ on ∈ [true, false], ∀ q ∈ [0, 1], let s := demoQueues on 0
      (s.anyQueue q).owner = some (17, 0) ∧ s.mayConsume (s.anyQueue q) 0 = on) ∧
    (let after (served q : Nat) : Nat :=
       if served ≤ (demoQueues true served).queuePlace q then (demoQueues true served).queuePlace q
       else (demoQueues true served).queuePlace q + 2 ^ 21
     (∀ k, (demoQueues true 0).queueReady k = true → after 0 0 ≤ after 0 k) ∧
     (∀ k, (demoQueues true 1).queueReady k = true → after 1 1 ≤ after 1 k) ∧
     (∃ k, (demoQueues true 0).queueReady k = true ∧ after 0 k < after 0 1)) ∧
    (let free (s : State) : State := { s with cores := s.cores ++ [(1, { Core.reset 1 with held := false })] }
     let spot (s : State) := (s.serviceOrder 0).findSome? fun key => (s.listSpot 0 key).map fun x => (key, x)
     spot (demo 2) = none ∧ demoLaunch.hdr.paired = false ∧
     (∀ sv ∈ [none, some demoSaved], let s := free (withWaiting (demo 2) { demoWaiting 0 with saved := sv })
       spot s = some (0, 0, 1, 1) ∧ (s.list 0)[0]? = some { demoWaiting 0 with saved := sv } ∧
       s.launchOf { demoWaiting 0 with saved := sv } = some demoLaunch ∧ demoLaunch.det = none)) := by
  refine ⟨by decide +kernel, ⟨fun k hk => ?_, fun k hk => ?_, 0, by decide +kernel⟩, by decide +kernel⟩ <;>
    obtain rfl | rfl := ready_only _ _ _ hk <;> decide +kernel

/-- A team whose every fibre is FROZEN, and one whose fibre is ready; saves that are ready, and one that an outstanding access
holds up; a restore to a free core, and to one that a team occupies; an epoch that may end, and a die with none. -/
theorem witness_TeamEvents_ending :
    (let frozen := demoWith 2 (fun f => { f with status := .frozen }) id id id
     (frozen.res 0 0).team.isSome = true ∧ (∀ x ∈ frozen.teamFibres 0 0, x.2.2.status = .frozen) ∧
       ((frozen.res 0 0).team.any fun t => t.bins.all fun b => b.entries == []) = true ∧ frozen.drained 0 0 = true) ∧
    (∃ x ∈ (demo 2).teamFibres 0 0, x.2.2.status ≠ .frozen) ∧ (∀ x ∈ (demo 2).teamFibres 0 0, (demo 2).metAt x.1 0 x.2.1 = none) ∧
    (∀ why ∈ [SaveReason.test, .replace, .ctxsave 0x2000000],
      let s := demoWith 2 id (fun t => { t with save := some why }) id id
      let m := s.wakeMet 0 0
      ((m.res 0 0).team.any fun t => t.save == some why) = true ∧ m.saveReady 0 0 why = true) ∧
    (∀ st ∈ [Status.waiting, .ready],
     let m := (demoWith 2 (fun f => { f with status := st }) (fun t => { t with save := some .swap }) id id).wakeMet 0 0
     ((m.res 0 0).team.any fun t => t.save == some .swap) = true ∧ m.saveReady 0 0 .swap = decide (st = .waiting)) ∧
    (let q : RestoreReq := { base := none, saved := demoSaved }
     let s (team : Bool) : State := demoWith 2 id id (fun r => if team then r else Residency.empty) fun c => { c with restore := [(0, q)] }
     (∀ team ∈ [true, false], kget ((s team).core 0).restore 0 = some q ∧ demoSaved.team.hdr.coresAt 0 = [0] ∧
       ((s team).core 0).health.testing = false ∧ (((s team).rivals 0 0).any fun k => ((s team).team 0 k).isSome) = team) ∧
     (let u := (s false).modCore 0 fun c => { c with health := { c.health with testing := true } }
      kget (u.core 0).restore 0 = some q ∧ (u.core 0).health.testing = true)) ∧
    (let s := demoWith 2 (fun f => { f with sched := { f.sched with left := some 0 } }) (fun t => { t with det := some demoDet }) id id
     s.epochReady 0 = true ∧ (demo 2).epochReady 0 = false) := by decide +kernel

/-! ### Translation, hardware errors and tests -/

/-- Page tables at 0x3000000 that map the page at 0x200000 to 0x1000000 with permissions `perm`. -/
def demoTables (perm : Nat) : Memory :=
  let put (m : Memory) (a x : Nat) : Memory := writeAll m (span a 8) (bytesOfNat 8 x)
  put (put (put (put [] 0x3000000 0x3100001) 0x3100000 0x3200001) (0x3200000 + 8) 0x3300001) 0x3300000 (0x1000003 + perm)

def rooted (s : State) : State :=
  { s with control := { s.control with contexts := s.control.contexts.map fun p => (p.1, { p.2 with fn := 17, root := 0x3000000 }) } }

def demoWalk : Walk := { res := 0, slot := 0, ply := 0, ctx := 0, va := 0x200040, cls := .load }

def demoFault (posted : Bool) : ServiceFault :=
  { ctx := 0, va := 0x210000, kind := .np, cls := .load, fibres := [(0, 0, 0)], posted := posted }

def demoRange (frames taken : Nat) : Demand :=
  { ctx := 0, va := 0x200000, pages := 4, perm := 0x07, pool := 0x4000000, frames := frames, taken := taken }

/-- A sum whose addresses are 0, and one of two buffers, with a flag and without; the places of the buffers' bytes. -/
theorem witness_EngineCommands_sums :
    (endsB (engRuns (engDescs.getD 11 (0, [])) 0x100001F [] []) fun c pa =>
      (leAt c.desc 36 1).testBit 0 && ((engRuns (engDescs.getD 11 (0, [])) 0x100001F [] []).bufferLeaves c.ctx 0
        (leAt (readAll (engRuns (engDescs.getD 11 (0, [])) 0x100001F [] []).mem ((span 0x202000 64).map pa)) 0 8) 8).isNone) = true ∧
    (∀ k ∈ [11, 12],
      let s : State := { rooted (engRuns (engDescs.getD k (0, [])) 0x100001F [] []) with
        mem := writeAll (demoTables 0x1C) (span 0x1002000 16) (bytesOfNat 8 0x200000 ++ bytesOfNat 8 0x200100) }
      endsB s (fun c pa =>
        let f := leAt c.desc
        let addr := fun i => leAt (readAll s.mem ((span (f 16 8) 64).map pa)) (8 * i) 8
        let free := fun va n => ((span va n).map pa).all fun b => (s.regionAt b).isNone
        f 32 4 == 2 && (f 40 8 == 0) == (k == 11) && free (f 24 8) 8 && (f 40 8 == 0 || free (f 40 8) 4) &&
          (List.range 8).all fun i => if (f 36 1).testBit i
            then (s.bufferLeaves c.ctx 0 (addr i) 8).isSome && decide (addr i + 8 ≤ f 24 8) else addr i == 0) = true) ∧
    (∀ (ctx : Nat) (leaves : Nat → Option (List Leaf)), ∃ loc : Nat → Nat → Nat, ∀ i ls, leaves i = some ls → ∀ b,
      loc i b = ((ls.find? fun l => l.covers ctx b).map fun l => (l.place b).pa).getD 0) :=
  ⟨by decide +kernel, by decide +kernel, fun ctx leaves =>
    ⟨fun i b => ((((leaves i).getD []).find? fun l => l.covers ctx b).map fun l => (l.place b).pa).getD 0,
      fun i ls h b => by simp [h]⟩⟩

/-- The four entries of the walk for an address. -/
def walkEntries (s : State) (va : Nat) : List Nat :=
  let addr := fun e : Nat => e / 2 ^ 8 % 2 ^ 44 * 2 ^ 8
  let entry := fun (table lo n : Nat) => readNat s.mem (table + 8 * (va / 2 ^ lo % 2 ^ n)) 8
  let e4 := entry 0x3000000 39 17
  let e3 := entry (addr e4) 30 9
  let e2 := entry (addr e3) 21 9
  [e4, e3, e2, entry (addr e2) 16 5]

/-- Walks that end at each level, by 17 R344 to R346: no entry, a reserved bit, a leaf at level 4, pages of 1 GiB, 2 MiB and 64 KiB,
a page without the permission, a page in no kind, a table in no kind, and a level-1 entry that is no leaf. -/
theorem test_walks :
    let s (e4 e3 e2 e1 : Nat) : State :=
      let put (m : Memory) (a x : Nat) : Memory := writeAll m (span a 8) (bytesOfNat 8 x)
      { rooted (demo 2) with mem := put (put (put (put [] 0x3000000 e4) 0x3100000 e3) (0x3200000 + 8) e2) 0x3300000 e1 }
    let t4 := 0x3100001
    let t3 := 0x3200001
    let t2 := 0x3300001
    let page (size e : Nat) : Except FaultKind Leaf := .ok { ctx := 0, va := 0x200040 / size * size, size := size, entry := BitVec.ofNat 64 e }
    (∀ x ∈ [((0, 0, 0, 0), Except.error FaultKind.np), ((0x81, 0, 0, 0), .error .rsvd), ((3, 0, 0, 0), .error .rsvd),
        ((t4, 0, 0, 0), .error .np), ((t4, 0x40000007, 0, 0), page (2 ^ 30) 0x40000007), ((t4, t3, 0x200007, 0), page (2 ^ 21) 0x200007),
        ((t4, t3, 0x20000000200007, 0), .error .rsvd), ((t4, t3, t2, 0x1000007), page 65536 0x1000007),
        ((t4, t3, t2, 0x100003B), .error .perm), ((t4, t3, t2, 0x200000000007), .error .rsvd), ((t4, 0x200000000001, 0, 0), .error .rsvd),
        ((t4, t3, t2, 0x1000001), .error .rsvd)],
      let z := s x.1.1 x.1.2.1 x.1.2.2.1 x.1.2.2.2
      (z.context 0).isSome = true ∧ walkEntries z 0x200040 = [x.1.1, x.1.2.1, x.1.2.2.1, x.1.2.2.2] ∧
        z.walkFor 0 0x200040 .load = x.2) := by decide +kernel

/-- The team window of an unpaired and of a paired team, and what lies outside it; a cached page, one of channels and one of a peer,
and a page that is not cached (05 R101, R103; 19 R388): the channel-local offset 0x1000100 lies in pseudo-channel 256 at 0x100. -/
theorem test_translation :
    let at_ (s : State) (va : Nat) : Option (Except Stop Place) := s.view.map fun v => s.xlat v .load va
    let here (pa : Nat) : Option (Except Stop Place) := some (.ok { pa := pa, peer := none })
    let paged (e : BitVec 64) : State := demoWith 2 id id id fun c => { c with tlb := [{ demoLeaf with entry := e }] }
    let paired : State := demoWith 2 id (fun t => { t with hdr := { t.hdr with flags := 0x0B } }) id id
    at_ (demo 2) 0x1000 = here (2 ^ 44 + 0x1000) ∧ at_ (demo 2) 0x100000 = some (.error (.fault 0x100000 .load .hole)) ∧
    at_ paired 0x100000 = here (2 ^ 44 + 2 ^ 20) ∧ at_ (demo 2) 0x200100 = here 0x1000100 ∧
    at_ (demo 2) 0x300000 = some (.error (.miss 0x300000 .load)) ∧
    at_ (paged 0x100003F) 0x200100 = here (256 * 1024 + 0x100) ∧
    at_ (paged 0x00000050_0003_004F) 0x200100 = some (.ok { pa := 0x30100, peer := some 0x50 }) ∧
    ((paged 0x100003F).view.any fun v => v.fills == [] && v.core.tlb.length == 1 && v.who.res ≤ 1 && v.team.ctx == 0) = true := by
  decide +kernel

theorem witness_FaultEvents_translation :
    (∀ perm ∈ [0x1C, 0], let s : State := { rooted (demoWith 2 id id id fun c => { c with walks := [(0, demoWalk)] }) with mem := demoTables perm }
      kget (s.core 0).walks 0 = some demoWalk ∧ (s.team 0 0).any (fun t => t.ctx == 0) = true ∧
      (s.fibre 0 0 0).any (fun f => (f.ply 0).live && f.status == .ready) = true ∧
      (match s.walkFor 0 0x200040 .load with
       | .ok _ => perm == 0x1C
       | .error k => perm == 0 && k.resolvable) = true) ∧
    (let s (d : List Demand) : State := { rooted (demoControl fun k => { k with faults := [(0, demoFault false)], demands := d }) with mem := demoTables 0x1C }
     (∀ d ∈ [[], [demoRange 2 2], [demoRange 2 0]], kget (s d).control.faults 0 = some (demoFault false) ∧
       (s d).featureOn 17 4 = true ∧ ((s d).context 0).map (·.fn) = some 17 ∧ (s d).demandFor (demoFault false) = d.head?) ∧
     ((s [demoRange 2 0]).entryPlace 0 0x210000 1).isSome = true) ∧
    (let inv (st : InvState) (left : Nat) : Invalidation :=
       { ctx := 0, va := 0x200000, size := 65536, dies := [(0, st)], left := left, fn := 0, resp := 0, cmd := 0 }
     let s (st : InvState) (left : Nat) : State := { demoOps [demoStore] with control := { (demo 2).control with invs := [(0, inv st left)] } }
     ∀ st ∈ [InvState.sent, .dropped [], .dropped [(0, 0)], .acked], ∀ left ∈ [1, 2],
       kget (s st left).control.invs 0 = some (inv st left) ∧ kget (inv st left).dies 0 = some st ∧
       ((s st left).op 0 0).any (fun o => !o.done) = true) := by decide +kernel

/-- A home's discard period at its end and one cycle before; a write of RUN and one without; a pair that a test waits for, with
teams and without, and a pair under test. -/
theorem witness_FaultEvents_tests :
    (∀ now ∈ [99, 100], let s : State := { demo 2 with clock := now, homes := [(0, { Home.reset with discardUntil := some 100 })] }
      (s.agent 0).discardUntil = some 100) ∧
    kindOf 0x1000000 ≠ 1 ∧ (demo 2).copies = [] ∧ demoSaved.betweenQuanta = true ∧
    ((1 : BitVec 32).getLsbD 0 = true ∧ ((demo 2).core 0).health.busy = false ∧ (2 : BitVec 32).getLsbD 0 = false) ∧
    (∀ team ∈ [true, false], ∀ testing ∈ [true, false],
      let s := demoWith 2 id id (fun r => if team then r else Residency.empty) fun c => { c with health := { c.health with busy := true, testing := testing } }
      (s.core 0).health.busy = true ∧ (s.core 0).health.testing = testing ∧ s.coreNopre 0 = false ∧ s.coreNopre 1 = false ∧
        s.coreEmpty 0 = !team ∧ s.coreEmpty 1 = true ∧ (s.core 0).turns = [] ∧ (s.core 1).turns = [] ∧ s.home 0 0 = 0 ∧
        ((s.res 0 0).team.any fun t => t.save.isNone) = team) := by decide +kernel

/-- A pair of which a test waits with a team aside, and one whose test ends with a team saved. -/
theorem witness_FaultEvents_aside :
    ∀ testing ∈ [true, false],
      let s0 := demoWith 2 id id (fun _ => Residency.empty) fun c => { c with
        health := { c.health with busy := true, testing := testing }, turns := if testing then [] else [demoSaved] }
      let s : State := { s0 with control := { s0.control with underTest := [(0, demoSaved)] } }
      (s.core 0).health.busy = true ∧ (s.core 0).health.testing = testing ∧ s.coreNopre 0 = false ∧ s.coreNopre 1 = false ∧
        s.coreEmpty 0 = true ∧ s.coreEmpty 1 = true ∧ (∀ x ∈ (s.core 0).turns, x.betweenQuanta = true) ∧
        (s.core 0).turns.isEmpty = testing ∧ s.control.underTest = [(0, demoSaved)] := by decide +kernel

/-! ### The far fabric -/

def demoPacket (peer : Option Nat) : Packet :=
  { tag := 9, sys := false, kind := .op, code := 0, target := 0x1000200, landing := 0, size := 4, data := [1, 2, 3, 4], poison := []
    request := 0, ctx := 0, peer := peer, remote := none, srcDie := 0, fromDev := none, toDev := none }

/-- A packet at its sender, its copy at a place, an acknowledgement and two legs, at a time. -/
def demoFabric (now age : Nat) (peer : Option Nat) (place : CopyPlace) (home : Home) : State :=
  { demo 2 with
    clock := now
    homes := [(0, { home with down := false, farReady := true })]
    fabric := { Fabric.reset with
      sent := [(9, { pkt := demoPacket peer, first := 0, last := 0, interval := 3000 })]
      copies := [(0, { pkt := demoPacket peer, via := none, age := age, place := place, since := 0 })]
      acks := [(0, { tag := 9 }), (1, { tag := 10 })]
      legs := [(3, { core := 0, first := 0, sys := false, ctx := 0, landing := 0, reported := false }),
               (4, { core := 0, first := 0, sys := false, ctx := 0, landing := 0, reported := true })]
      nextCopy := 1
      nextAck := 2 } }

/-- The interval of 3,000 cycles and the bound of 50,000 at their ends, of a core that may send and of one that may not; a copy of 196 ages at routers, at a home and on its way to
the ports, expired and not; at a home that has filtered its tag, and that has not, or a request at a home that is down; a leg at its bound. -/
theorem witness_FabricEvents_packets :
    (∀ now ∈ [2999, 3000, 49999, 50000], (kget (demoFabric now 196 none (.router 0) Home.reset).fabric.sent 9).any
      (fun x => x.last + x.interval == 3000 && x.first + boundOf x.pkt.sys == 50000 && x.pkt.tag == 9 && x.pkt.peer.isNone) = true) ∧
    (∀ now ∈ [100, 60000], ∀ p ∈ [(none, CopyPlace.router 1, 0), (some 5, .router 0, 8), (some 5, .router 8, 8), (none, .home 0, 0)],
      ((demoFabric now 196 p.1 p.2.1 Home.reset).copy 0).any
        (fun c => c.place == p.2.1 && c.die == p.2.2 && c.pkt.leaves == p.1.isSome && c.expired now == decide (now = 60000)) = true) ∧
    leadsTo 1 0 0 = true ∧ leadsTo 0 8 8 = true ∧ leadsTo 2 1 0 = true ∧ leadsTo 0 2 1 = false ∧
    (∀ f ∈ [[], [({ tag := 9, sys := false, first := 0 } : FilterTag)]],
      let s := demoFabric 100 196 none (.home 0) { Home.reset with filter := f }
      let a := s.agent (s.homeOf 0x1000200)
      s.homeOf 0x1000200 = 0 ∧ a.down = false ∧ a.discardUntil = none ∧ a.filter = f ∧ a.room false 100 = true ∧ a.farReady = true ∧
      ∀ x ∈ f, x.kept 100 = true) ∧
    (∀ ready ∈ [true, false],
      let s := (demoFabric 3000 196 none (.router 0) Home.reset).modCore 0 fun c => { c with farReady := ready }
      (kget s.fabric.sent 9).any (fun x => x.last + x.interval == 3000) = true ∧ s.maySend 9 = ready) ∧
    (∀ f ∈ [[], [({ tag := 9, sys := false, first := 0 } : FilterTag)]],
      let s0 := demoFabric 100 196 none (.home 0) Home.reset
      let s : State := { s0 with homes := [(0, { Home.reset with filter := f, down := true })],
                                 fabric := { s0.fabric with copies := s0.fabric.copies.map fun c => (c.1, { c.2 with pkt := { c.2.pkt with kind := .request } }) } }
      let a := s.agent (s.homeOf 0x1000200)
      s.homeOf 0x1000200 = 0 ∧ (s.copy 0).any (fun c => c.pkt.kind == .request && !c.expired s.clock) = true ∧ a.down = true ∧
        a.room false 100 = true ∧ (a.filter.any fun g => g.tag == 9 && g.kept 100) = !f.isEmpty) ∧
    (∀ k ∈ [3, 4], let s := demoFabric 300000 196 none (.router 0) Home.reset
      (kget s.fabric.legs k).any (fun l => l.reported == decide (k = 4) && decide (l.first + 2 * boundOf l.sys + 2 * lifeOf l.sys ≤ s.clock)) = true) ∧
    (let s := demoFabric 100 196 none (.router 0) Home.reset
     kget s.fabric.acks 0 = some { tag := 9 } ∧ (kget s.fabric.sent 9).isSome = true ∧ kget s.fabric.acks 1 = some { tag := 10 }) := by
  decide +kernel

/-- A packet at home 0, with regions there, memory and poisoned atoms. -/
def homeState (pkt : Packet) (regions : List Region) (mem : Memory) (poison : List Nat) : State :=
  { demo 2 with
    clock := 100
    mem := mem
    poison := poison
    homes := [(0, { Home.reset with regions := regions, down := false, farReady := true })]
    fabric := { Fabric.reset with
      copies := [(0, { pkt := pkt, via := none, age := 196, place := .home 0, since := 0 })]
      legs := [(3, { core := 0, first := 0, sys := false, ctx := 0, landing := 0, reported := false })]
      nextCopy := 1 } }

/-- A packet that its home performs, and more. -/
def performsB (s : State) (ok : Packet → Bool) : Bool :=
  (s.copy 0).any fun c =>
    let a := s.agent (s.homeOf c.pkt.target)
    c.place == .home 0 && !c.expired s.clock && s.homeOf c.pkt.target == 0 && !a.down && a.discardUntil.isNone && a.filter == [] &&
      a.room c.pkt.sys s.clock && c.pkt.fromDev.isNone && a.farReady && ok c.pkt

/-- What a home performs: an ADD of 4 and a SWAP of 8 bytes, to a poisoned atom, and to a region; an arrival at a region's count
word and beside one; an addend at both ends of a wide region and at its header; a write-once packet at both ends of a narrow region,
of which one granule is taken, and at its header; a reply to a request, with its leg; a request. -/
theorem witness_FabricEvents_homes :
    let pkt (kind : PktKind) (code target n : Nat) : Packet :=
      { demoPacket none with tag := 9, kind := kind, code := code, target := target, data := List.replicate n 1, request := 3 }
    let wide : Region := demoRegion .opened
    let narrow : Region := { demoRegion .opened with wide := false, written := [(64, 77)] }
    let inside (s : State) (pa n : Nat) : Bool := (s.regionAt pa).any fun x => x.2.state == .opened && decide (64 ≤ x.2.index pa) &&
      decide (x.2.index pa + n ≤ x.2.size)
    (∀ x ∈ [((0 : Nat), (4 : Nat)), (4, 8)],
      performsB (homeState (pkt .op x.1 0x1000200 x.2) [] [] []) (fun p => p.kind == .op && decide (p.code % 16 ≤ 9)) = true ∧
      (let s := homeState (pkt .op x.1 0x1000200 x.2) [] [] []
       s.poisoned (span 0x1000200 x.2) = false ∧ s.regionTouched (span 0x1000200 x.2) = none) ∧
      (homeState (pkt .op x.1 0x1000200 x.2) [] [] [0x1000200 / 32]).poisoned (span 0x1000200 x.2) = true ∧
      ((homeState (pkt .op x.1 0x1000440 x.2) [wide] [] []).regionTouched (span 0x1000440 x.2)).isSome = true) ∧
    (∀ target ∈ [0x1000400, 0x1000404, 0x1000200], let s := homeState (pkt .op 12 target 4) [wide] [] []
      performsB s (fun p => p.kind == .op && p.code % 16 == 12) = true ∧ s.poisoned (span target 4) = false ∧
        (s.regionAt target).map (fun x => (x.2.state == .opened, decide (x.2.base = target))) =
          if target = 0x1000200 then none else some (true, decide (target = 0x1000400))) ∧
    (∀ target ∈ [0x1000440, 0x10007F0, 0x1000400], let s := homeState (pkt .op 13 target 8) [wide] [] []
      performsB s (fun p => p.kind == .op && p.code % 16 == 13) = true ∧ s.poisoned (span target 16) = false ∧
        inside s target 16 = decide (target ≠ 0x1000400) ∧ (s.regionAt target).any (fun x => x.2.wide) = true) ∧
    (∀ kind ∈ [PktKind.op, .reply], ∀ target ∈ [0x1000440, 0x10007F8, 0x1000400],
      let s := homeState (pkt kind 11 target 8) [narrow] [] []
      performsB s (fun p => p.kind == kind && p.code % 16 == 11 && p.data.length == 8) = true ∧ s.poisoned (span target 8) = false ∧
        inside s target 8 = decide (target ≠ 0x1000400) ∧
        (s.regionAt target).any (fun x => !x.2.wide && ((s.agent x.1).regions.all fun q => q == x.2 || q.base != x.2.base) &&
          (target == 0x1000400 || (span target 8).all fun b => !(span x.2.base 16).contains b) &&
          x.2.index target != x.2.index (target + 4)) = true) ∧
    (let s := homeState (pkt .reply 0 0x1000440 8) [narrow] [] []
     performsB s (fun p => p.kind == .reply && isReplyTag p.tag && (kget s.fabric.legs p.request).isSome) = true) ∧
    performsB (homeState (pkt .request 0 0x1000200 0) [] [] []) (fun p => p.kind == .request) = true := by decide +kernel

/-- `s` with row 5 of the peer table, wherever firmware has put it. -/
def peered (s : State) (row : List Byte) : State :=
  { s with mem := writeAll s.mem (peerRow 5) row, fabric := { s.fabric with peerRows := [5] } }

theorem peer_peered (s : State) {row : List Byte} (h : row.length = 64) : (peered s row).peer 5 = (readPeer row).filter (·.valid) := by
  have := readAll_writeAll s.mem (peerRow 5) row (span_nodup _ _) (by simp [peerRow, h])
  simp only [State.peer, peered, this]

theorem inbound_of {s : State} {sender : Nat} {e : Peer} (h : s.fabric.peerRows = [5]) (he : s.peer 5 = some e)
    (ok : (e.inbound && !e.loc && e.addr == sender) = true) : s.inboundFrom sender = true := by
  simp [State.inboundFrom, h, he, ok]

/-- A LOCAL entry for device 3, which presentation mode 1 has not, and an INBOUND entry of the peer 0x77. -/
def localRow : List Byte := [5, 3] ++ List.replicate 62 0
def inboundRow : List Byte := [3, 0, 0, 0, 0, 0, 0, 0, 0x77] ++ List.replicate 55 0

/-- A packet through a page of a peer whose entry leads nowhere. -/
theorem witness_FabricEvents_lost :
    let s := peered (demoFabric 3000 196 (some 5) (.router 0) Home.reset) localRow
    (kget s.fabric.sent 9).any (fun x => x.pkt.peer == some 5 && x.pkt.tag == 9 && x.last + x.interval == 3000) = true ∧
      s.peerTarget 0 5 0x1000200 = .invalid 1 := by
  refine ⟨by decide +kernel, ?_⟩
  rw [State.peerTarget, peer_peered _ (by decide)]
  decide +kernel

/-- A datagram of the sender 0x77 to this module. -/
def demoIngress (kind age : Nat) : List Byte :=
  [1, BitVec.ofNat 8 kind, 0, 4] ++ bytesOfNat 2 age ++ bytesOfNat 2 0 ++ bytesOfNat 8 9 ++ bytesOfNat 8 0x1000200 ++ bytesOfNat 8 0 ++ [1, 2, 3, 4]

/-- An OP that no code has, of an operation that no POST has, or a tag of no agent makes a payload no packet (00 R7; 05 R107; 06
R146): in turn OP 16, 14, 10 and 7, and AGENT 688. -/
theorem test_ingress_reserved :
    (∀ op ∈ [16, 14, 10, 7], parseIngress ((demoIngress 0 100).set 2 (BitVec.ofNat 8 op)) = none) ∧
    parseIngress (((demoIngress 0 100).set 15 (BitVec.ofNat 8 (688 / 4))).set 14 (BitVec.ofNat 8 (688 % 4 * 64))) = none := by
  decide +kernel

def demoDatagram (load : List Byte) : List Byte := udpBytes 0x77 Config.moduleAddress 0x1234 load

/-- Operations and acknowledgements whose datagrams arrive whole, with an age and without, from a sender that may send and one
that may not, to an address that is exported and one that is not, with no key of the filter and with one, answered or not, at a
port that may send and one that may not; a payload that is no packet; a port that is down. -/
theorem witness_FabricEvents_ports :
    (∀ kind ∈ [0, 1], ∀ age ∈ [0, 100], udpPayload 0x77 Config.moduleAddress (demoDatagram (demoIngress kind age)) = some (demoIngress kind age) ∧
      (parseIngress (demoIngress kind age)).any (fun y => y.kind == kind && y.age == age && y.tag == 9 && y.target == 0x1000200) = true) ∧
    ((udpPayload 0x77 Config.moduleAddress (demoDatagram [])).bind parseIngress = none) ∧
    (let port (s : State) (ready up : Bool) (keys : List PortKey) (out : Bool) : State :=
       { s with fabric := { s.fabric with
           exports := if out then [{ dev := 0, todev := none, base := 0x1000000, size := 65536 }] else []
           ports := [(0, { Port.reset with enable := true, up := up, lastFar := 0, farReady := ready })]
           portKeys := keys } }
     (∀ keys ∈ [[], [({ peer := 0x77, tag := 9, relay := 1, first := 0, acked := false } : PortKey)],
         [{ peer := 0x77, tag := 9, relay := 1, first := 0, acked := true }]],
       ∀ ready ∈ [true, false], ∀ out ∈ [true, false],
       let s := peered (port (demo 2) ready true keys out) inboundRow
       let kept := s.fabric.portKeys.filter fun k => k.kept s.clock
       (s.port 0).usable = true ∧ (s.port 0).farReady = ready ∧ kept = keys ∧ s.exported 0x1000200 = out ∧
         (kept.find? fun k => k.peer == 0x77 && k.tag == 9) = keys.head? ∧ kept.length < 1048576) ∧
     (peered (port (demo 2) true true [] true) inboundRow).inboundFrom 0x77 = true ∧
     (port (demo 2) true true [] true).inboundFrom 0x77 = false ∧ ((port (demo 2) true false [] true).port 0).usable = false) ∧
    5 ∈ ({ Fabric.reset with peerWait := [5] } : Fabric).peerWait := by
  refine ⟨fun kind hk age ha => ⟨udpPayload_udpBytes _ _ _ (by simp [demoIngress, bytesOfNat]), ?_⟩, ?_, ⟨by decide +kernel, ?_, by decide +kernel⟩, by decide⟩
  · revert kind age; decide +kernel
  · rw [demoDatagram, udpPayload_udpBytes _ _ _ (by simp)]; decide +kernel
  · exact inbound_of rfl (peer_peered _ (by decide)) (by decide +kernel)

/-- Ten milliseconds after the last copy, and one cycle before, of a core, a home, a port and a management core; a filter's tags; a region that closes and one that is open. -/
theorem witness_FabricEvents_times :
    (∀ now ∈ [24999999, 25000000], let s : State := { demoWith 2 id id id fun c => { c with farReady := false, lastFar := 0 } with
        clock := now, homes := [(3, { Home.reset with farReady := false, lastFar := 0 })]
        control := { (demo 2).control with managers := [(15, { seq := 4, lastFar := 0, farReady := false })] }
        fabric := { Fabric.reset with ports := [(0, { Port.reset with farReady := false, lastFar := 0 })] } }
      (s.core 0).farReady = false ∧ (s.core 0).lastFar = 0 ∧ (s.agent 3).farReady = false ∧ (s.agent 3).lastFar = 0 ∧
        (s.port 0).farReady = false ∧ (s.port 0).lastFar = 0 ∧ (s.manager 15).farReady = false ∧ (s.manager 15).lastFar = 0) ∧
    (let r (base : Nat) (st : RegionState) : Region := { demoRegion st with base := base, size := 65536 }
     let s : State := { demo 2 with
       clock := 20000000
       homes := [(0, { Home.reset with regions := [r 0 (.closing 0), r 65536 .opened], filter := [{ tag := 9, sys := false, first := 0 }] })] }
     (∀ f ∈ (s.agent 0).filter, f.tag = 9 → f.first + 2 * lifeOf f.sys ≤ s.clock) ∧
     (∃ x ∈ (s.agent 0).regions, x.base = 0 ∧ x.state = .closing 0) ∧ (∀ x ∈ (s.agent 0).regions, x.base = 65536 → x.state = .opened)) := by
  decide +kernel

/-! ### Registers, resets and power -/

/-- DUAL of a core that holds no team and of one that does, SWREQ of a dual core, QUANT in range and out of it; queues and their
slots, written and not; rings; PLIMIT; a die and a home in reset that may be released, and a die that may not; boot stages, without
an image in either slot at the first (an image that is taken rests on the opaque key of Config, and is shown for none). -/
theorem witness_RegisterEvents :
    (let bare : State := { demo 2 with cores := [] }
     bare.occ 0 = 0 ∧ (bare.core 0).turns = [] ∧ (1 : BitVec 32).getLsbD 2 = false ∧
      (demo 2).occ 0 ≠ 0 ∧ (1 : BitVec 32).getLsbD 0 ≠ ((demo 2).core 0).dual ∧
      (∀ q ∈ [2500000, 1000], (BitVec.ofNat 32 q).toNat % 2 ^ 25 = q) ∧
      (let c := (demoWith 2 id id id fun c => { c with dual := true }).core 0
       (5 : BitVec 32).getLsbD 2 = true ∧ (5 : BitVec 32).getLsbD 0 = c.dual ∧ c.dual = true ∧ c.draining = false)) ∧
    (let s := demoControl fun k => { k with queues := [(0, demoQueue true)] }
     (s.queue 0).owner = some (17, 0) ∧ (kget (s.queue 0).granules 3).isSome = true ∧ kget (s.queue 0).granules (64 * 7 + 3) = none ∧
      ((s.queue 0).arvcnt - (s.queue 0).consumed).toNat + 1 ≤ 4096) ∧
    ((demo 2).control.boot.stage = 4 ∧ (BitVec.ofNat 64 (2 ^ 6)).toNat % 2 ^ 32 = 2 ^ (0 + 6) ∧ ((demo 2).fn 0).ringBase.toNat % 32 = 0 ∧
      (2000 : BitVec 64).toNat % 2 ^ 13 = 2000) ∧
    (let held := demoWith 2 id id id fun c => { c with held := true }
     held.mem.wf = true ∧ 0 ∉ held.control.boot.offlineDies ∧ (held.core (80 * 0)).held = true ∧ 3 ≤ held.control.boot.stage ∧
      ((demoControl fun k => { k with boot := { k.boot with stage := 2 } }).control.boot.stage < 3)) ∧
    (let s : State := { demo 2 with homes := [(3, { Home.reset with down := true })] }
     (s.agent 3).down = true ∧ 3 ∉ s.control.boot.offlineStacks ∧ 2 ≤ s.control.boot.stage) ∧
    (∀ stage ∈ [0, 1, 2, 3], ∀ recov ∈ [true, false], let s := demoControl fun k => { k with boot := { k.boot with stage := stage, recov := recov } }
      s.control.boot.stage = stage ∧ s.control.boot.recov = recov ∧ kget s.control.boot.images 0 = none ∧ kget s.control.boot.images 1 = none) := by
  decide +kernel

/-! ### Commands -/

/-- `demo` with page tables, a fault that has been posted, a graph and a launch, and one command of firmware's. -/
def demoCommand (c : Command) (fn : Nat) : State :=
  { rooted (demoControl fun k => { k with
      cmd := [{ fn := fn, resp := 0x100, cmd := c }]
      faults := [(0, { demoFault true with va := 0x200000 })]
      graphs := [{ ctx := 0, id := 1, versions := [(1, [])], latest := 1 }]
      launches := [(5, demoLaunch)] }) with mem := demoTables 0x1C }

def demoContext (ctx : Nat) : ContextCmd := { fn := 0, ctx := ctx, mode := 1, device := 0, privileged := true, root := 0x5000000 }

/-- A node that runs with 16 lanes and one fibre from 0x200000, with no predecessor. -/
def demoImage : List Byte :=
  bytesOfNat 8 0x200000 ++ bytesOfNat 16 0x0110 ++ bytesOfNat 4 1 ++ bytesOfNat 4 1 ++ bytesOfNat 4 1 ++ List.replicate 28 0 ++
    List.replicate 8 255 ++ List.replicate 184 0

/-- Whether MAP of an entry over the page at 0x200000 is allowed, and takes something from the entry there. -/
def mapB (e : BitVec 64) (loses : Bool) : Bool :=
  let s := demoCommand (.map 0 0x200000 1 e) 17
  s.control.cmd.all s.mayRun && s.ownsContext 17 0 && ((s.context 0).any fun c => s.leafAllowed c 1 e) &&
    (s.entryPlace 0 0x200000 1).any fun x => BitVec.ofNat 64 (readNat x.1.mem x.2 8) == 0x100001F && losesRights 0x100001F e == loses

def demoFree : State := demoControl fun k => { k with cmd := [{ fn := 17, resp := 0x100, cmd := .destroyContext 0 }] }

theorem witness_Commands_contexts :
    let ask (c : Command) (fn : Nat) (ok : State → Bool) : Bool :=
      let s := demoCommand c fn
      s.control.cmd.all (fun p => s.mayRun p == (fn == 17)) && ok s
    ask (.createContext (demoContext 1)) 17 (fun s => s.mayCreate 17 (demoContext 1)) = true ∧
    ask (.createContext (demoContext 0)) 17 (fun s => !s.mayCreate 17 (demoContext 0)) = true ∧
    ask (.createContext (demoContext 1)) 3 (fun _ => true) = true ∧ ask (.assignQueue 0 17 0) 3 (fun _ => true) = true ∧
    ask (.destroyContext 0) 17 (fun s => s.ownsContext 17 0 && s.contextBusy 0) = true ∧
    (demoFree.control.cmd.all demoFree.mayRun && demoFree.ownsContext 17 0 && !demoFree.contextBusy 0) = true ∧
    mapB 0x100001F false = true ∧ mapB 0x1000003 true = true ∧
    ask (.unmap 0 0x200000) 17 (fun s => (s.findLeaf 0 0x200000).any (·.1 == 1)) = true ∧
    ask (.unmap 0 0x210000) 17 (fun s => (s.findLeaf 0 0x210000).isNone) = true ∧
    ask (.demand 0 0x200000 4 7 0x4000000 2) 17 (fun s => s.demandOk 17 0 0x200000 4 7 0x4000000 2) = true ∧
    ask (.demand 0 0x200001 4 7 0x4000000 2) 17 (fun s => !s.demandOk 17 0 0x200001 4 7 0x4000000 2) = true ∧
    ask (.faultRetry 0 0x200000) 17 (fun s => s.faultsOn 0 0x200000 != [] &&
      (s.faultsOn 0 0x200000).all fun x => match s.walkFor x.2.ctx x.2.va x.2.cls with | .ok _ => true | .error _ => false) = true ∧
    ask (.faultAbort 0 0x200000) 17 (fun s => s.faultsOn 0 0x200000 != []) = true ∧
    ask (.faultAbort 0 0x210000) 17 (fun s => s.faultsOn 0 0x210000 == []) = true := by decide +kernel

/-- An image of one node and an empty one; a peer entry and bytes that are none; a launch that is cancelled and one that is not
there; an image longer than 2^26 bytes, and one of 32 bytes, which is refused with cause 4.  What `imageFault` answers for an
image that it takes rests on the opaque key of Config, and is shown for none. -/
theorem witness_Commands_rest :
    let ask (c : Command) (fn : Nat) (ok : State → Bool) : Bool :=
      let s := demoCommand c fn
      s.control.cmd.all (fun p => s.mayRun p == (fn == 17)) && ok s
    ask (.createGraph 0 2 demoImage) 17 (fun s => (s.graph 0 2).isNone && s.imageOk 0 demoImage) = true ∧
    ask (.createGraph 0 1 demoImage) 17 (fun s => (s.graph 0 1).isSome) = true ∧
    ask (.createGraph 0 2 []) 17 (fun s => !s.imageOk 0 []) = true ∧
    ask (.editGraph 0 1 demoImage) 17 (fun s => (s.graph 0 1).isSome && s.imageOk 0 demoImage) = true ∧
    ask (.writePeer 5 (1 :: List.replicate 63 0)) 17 (fun s => (readPeer (1 :: List.replicate 63 0)).isSome && s.featureOn 17 2) = true ∧
    ask (.writePeer 5 []) 17 (fun _ => (readPeer []).isNone) = true ∧
    (let s := demoCommand (.assignQueue 3 16 0) 17
     let t : State := { s with control := { s.control with contexts := s.control.contexts.map fun p => (p.1, { p.2 with fn := 16 }) } }
     t.control.cmd.all (fun p => t.mayRun p) = true ∧ (t.context 0).any (fun c => c.fn == 16 && c.device == 3 / queuesPerDevice c.mode) = true) ∧
    ask (.resync 0x1000) 17 (fun _ => true) = true ∧
    ask (.cancelLaunch 0 0 1) 17 (fun s => (s.control.launches.filter fun l => l.2.queue == 0 && l.2.slot == 0 && s.ownsContext 17 l.2.ctx) != [] &&
      s.control.instances == [] && s.control.launches.all fun l => l.2.node.isNone) = true ∧
    ask (.cancelLaunch 0 7 1) 17 (fun s => (s.control.launches.filter fun l => l.2.queue == 0 && l.2.slot == 7 && s.ownsContext 17 l.2.ctx) == []) = true ∧
    (let s := demoCommand (.firmwareDownload 0 32 0) 0
     s.control.cmd.all (fun p => s.mayRun p) = true ∧ imageFault 0 (readAll s.hostMem (span 0 32)) = some 4) ∧
    (∀ q ∈ [SpdmRequest.getVersion, .getCapabilities, .negotiateAlgorithms ⟨true, false⟩, .getDigests, .getCertificate 0 0 16,
        .challenge 1 5, .getMeasurements 4 5, .getMeasurements 5 5, .other 9],
      (demoControl fun k => { k with spdm := { k.spdm with request := some q } }).control.spdm.request = some q) := by decide +kernel

/-! ### The arithmetic that the instructions share -/

theorem decode_half3 : decodeF .f32 0x3FC00000 = .fin false 0xC00000 (-23) := by decide
theorem decode_zero (n : Bool) : decodeF .f32 (if n then 0x80000000 else 0) = .fin n 0 (-149) := by cases n <;> decide

/-- 1.5, −0 and −1.5, as f32, an infinity of each sign and a NaN. -/
theorem witness_Rounding :
    let a := decodeF .f32 0x3FC00000
    let z := decodeF .f32 0x80000000
    let n := decodeF .f32 0xBFC00000
    a.isFin = true ∧ z.isFin = true ∧ n.isFin = true ∧ a.neg = false ∧ z.neg = true ∧ a.rat = 3 / 2 ∧ z.rat = 0 ∧ n.rat < 0 ∧
      a.isNan = false ∧ decodeF .f32 0x7F800000 = .inf false ∧ decodeF .f32 0xFF800000 = .inf true ∧
      (decodeF .f32 0x7F800001).isNan = true := by
  have hz : decodeF .f32 0x80000000 = .fin true 0 (-149) := decode_zero true
  have hn : decodeF .f32 0xBFC00000 = .fin true 0xC00000 (-23) := by decide
  simp only [decode_half3, hz, hn]
  refine ⟨rfl, rfl, rfl, rfl, rfl, ?_, ?_, ?_, rfl, by decide, by decide, by decide⟩ <;> norm_num [FVal.rat]

/-- Half of an odd number is no integer. -/
theorem half_ne {n : Int} (h : n % 2 = 1) (k : Int) : (n : ℚ) / 2 ≠ k := by
  intro e
  have : (n : ℚ) = ((2 * k : Int) : ℚ) := by push_cast; linarith
  have := Int.cast_injective this
  omega

/-- As f32: a NaN, an infinity, 0, −1.5, 1 (an integer and a power of 2), 1.5 (an integer and a half, and no power of 2), 1024.5,
−2000.5, and 1.25, twice which is no integer. -/
theorem witness_Transcendentals :
    Fmt.f32 ≠ .f64 ∧ (decodeF .f32 0x7FC00000).isNan = true ∧ decodeF .f32 0x7F800000 = .inf false ∧
    ([0, 0xBFC00000, 0x3F800000, 0x3FC00000, 0x44801000, 0xC4FA1000, 0x3FA00000].all fun x : DWord => (decodeF .f32 x).isFin) = true ∧
    (decodeF .f32 0).rat = 0 ∧ (decodeF .f32 0xBFC00000).rat < 0 ∧
    (decodeF .f32 0x3F800000).rat = (1 : Int) ∧ (decodeF .f32 0x3F800000).rat = 2 ^ (0 : Int) ∧
    ((decodeF .f32 0x3FC00000).rat = (1 : Int) + 1 / 2 ∧ (∀ k : Int, (decodeF .f32 0x3FC00000).rat ≠ k) ∧
      ∀ k : Int, (decodeF .f32 0x3FC00000).rat ≠ 2 ^ k) ∧
    (1024 ≤ (decodeF .f32 0x44801000).rat ∧ ∀ k : Int, (decodeF .f32 0x44801000).rat ≠ k) ∧
    ((decodeF .f32 0xC4FA1000).rat ≤ -2000 ∧ ∀ k : Int, (decodeF .f32 0xC4FA1000).rat ≠ k) ∧
    ∀ k : Int, 2 * (decodeF .f32 0x3FA00000).rat ≠ k := by
  have h0 : decodeF .f32 0 = .fin false 0 (-149) := decode_zero false
  have h1 : decodeF .f32 0xBFC00000 = .fin true 0xC00000 (-23) := by decide
  have h2 : decodeF .f32 0x3F800000 = .fin false 0x800000 (-23) := by decide
  have h3 : (decodeF .f32 0x3FC00000).rat = 3 / 2 := by rw [decode_half3]; norm_num [FVal.rat]
  have h4 : (decodeF .f32 0x44801000).rat = 2049 / 2 := by
    rw [show decodeF .f32 0x44801000 = .fin false 0x801000 (-13) by decide]; norm_num [FVal.rat]
  have h5 : (decodeF .f32 0xC4FA1000).rat = -4001 / 2 := by
    rw [show decodeF .f32 0xC4FA1000 = .fin true 0xFA1000 (-13) by decide]; norm_num [FVal.rat]
  have h6 : 2 * (decodeF .f32 0x3FA00000).rat = 5 / 2 := by
    rw [show decodeF .f32 0x3FA00000 = .fin false 0xA00000 (-23) by decide]; norm_num [FVal.rat]
  have half (n : Int) (h : n % 2 = 1) (k : Int) := half_ne h k
  rw [h0, h1, h2, h3, h4, h5, h6]
  refine ⟨by decide, by decide, by decide, by decide, by norm_num [FVal.rat], by norm_num [FVal.rat], by norm_num [FVal.rat],
    by norm_num [FVal.rat], ⟨by norm_num, by simpa using half 3 (by decide), fun k hk => ?_⟩,
    ⟨by norm_num, by simpa using half 2049 (by decide)⟩, ⟨by norm_num, by simpa using half (-4001) (by decide)⟩,
    by simpa using half 5 (by decide)⟩
  obtain h | h := lt_or_ge k 1
  · have : (2 : ℚ) ^ k ≤ 2 ^ (0 : Int) := zpow_le_zpow_right₀ (by norm_num) (by omega)
    rw [← hk, zpow_zero] at this; linarith
  · have : (2 : ℚ) ^ (1 : Int) ≤ 2 ^ k := zpow_le_zpow_right₀ (by norm_num) h
    rw [← hk, zpow_one] at this; linarith

/-- NaNs quiet and signalling, infinities, zeros of both signs, and numbers; the lanes of a tree. -/
theorem witness_SpecialOperands :
    let d := fun x : Nat => decodeF .f32 (BitVec.ofNat 64 x)
    (d 0x7FC00000).isNan = true ∧ (d 0x7F800001).snan = true ∧ d 0x7F800000 = .inf false ∧ d 0xFF800000 = .inf true ∧
    (d 0).isFin = true ∧ (d 0).rat = 0 ∧ (d 0x80000000).isFin = true ∧ (d 0x80000000).rat = 0 ∧ (d 0).neg ≠ (d 0x80000000).neg ∧
    (d 0x3FC00000).isFin = true ∧ (d 0x3FC00000).rat ≠ 0 ∧ (d 0x3FC00000).isNan = false ∧
    (d 0).lt (d 0x3FC00000) = true ∧ 0 < 1 ∧ (2 * 1 + 1) * 2 ^ 2 ≤ 64 := by
  have h0 : decodeF .f32 0 = .fin false 0 (-149) := decode_zero false
  have h1 : decodeF .f32 0x80000000 = .fin true 0 (-149) := decode_zero true
  have h2 := decode_half3
  refine ⟨by decide, by decide, by decide, by decide, by decide, ?_, by decide, ?_, by decide, by decide, ?_, by decide, by decide,
    by decide, by decide⟩
  · change (decodeF .f32 0).rat = 0; rw [h0]; norm_num [FVal.rat]
  · change (decodeF .f32 0x80000000).rat = 0; rw [h1]; norm_num [FVal.rat]
  · change (decodeF .f32 0x3FC00000).rat ≠ 0; rw [h2]; norm_num [FVal.rat]

/-- Every finite f16 is a multiple of 2⁻²⁴. -/
theorem f16_multiple (z : DWord) : ∃ k : Nat, |(decodeF .f16 z).rat| = k * (2 : ℚ) ^ (-24 : Int) := by
  unfold decodeF
  dsimp only
  have sgn : ∀ b : Bool, |if b = true then (-1 : ℚ) else 1| = 1 := by intro b; cases b <;> simp
  split
  · split <;> exact ⟨0, by simp [FVal.rat]⟩
  · split
    · exact ⟨_, by simp only [FVal.rat, abs_mul, sgn, one_mul, Nat.abs_cast, abs_zpow, abs_two]; rfl⟩
    · rename_i h0
      obtain ⟨e, he⟩ := Nat.exists_eq_succ_of_ne_zero h0
      refine ⟨(z.toNat % 2 ^ Fmt.f16.frac + 2 ^ Fmt.f16.frac) * 2 ^ e, ?_⟩
      rw [he]
      simp only [FVal.rat, abs_mul, sgn, one_mul, Nat.abs_cast, abs_zpow, abs_two]
      rw [show Fmt.f16.qmin + ((e.succ : Nat) - 1 : Int) = (e : Int) + (-24 : Int) by
          rw [show Fmt.f16.qmin = -24 by decide]; omega,
        zpow_add₀ (by norm_num), zpow_natCast]
      push_cast
      ring

/-- From i32 and f32 to f16: a number below the smallest one, a number between two neighbours, one above the greatest; an infinity
and a NaN; to an integer and to P, small and not, out of range and not; exponents of a wide cell. -/
theorem witness_ConversionLanes :
    fmtOfType 8 = some .f16 ∧ fmtOfType 10 = some .f32 ∧
    (let a : FVal := decodeF .f32 0x33C00000
     let v : ℚ := (2 : ℚ) ^ (-24 : Int)
     let w : ℚ := 2 * (2 : ℚ) ^ (-24 : Int)
     let value := fun v : ℚ => ∃ z : DWord, (decodeF .f16 z).isFin = true ∧ |(decodeF .f16 z).rat| = v
     a.isFin = true ∧ value v ∧ value w ∧ v < |a.rat| ∧ |a.rat| < w ∧ ∀ q, value q → q ≤ v ∨ w ≤ q) ∧
    (0 < |(decodeF .f32 0x33000000).rat| ∧ |(decodeF .f32 0x33000000).rat| < (2 : ℚ) ^ (-24 : Int)) ∧
    (decodeF .f32 0x7F800000 = .inf false ∧ (decodeF .f32 0x7FC00000).isNan = true ∧ (decodeF .f32 0x47800000).rat = 65536) := by
  have ha : decodeF .f32 0x33C00000 = .fin false 0xC00000 (-47) := by decide
  have hs : decodeF .f32 0x33000000 = .fin false 0x800000 (-48) := by decide
  have hb : decodeF .f32 0x47800000 = .fin false 0x800000 (-7) := by decide
  have h1 : decodeF .f16 1 = .fin false 1 (-24) := by decide
  have h2 : decodeF .f16 2 = .fin false 2 (-24) := by decide
  simp only [ha, hs, hb]
  refine ⟨rfl, rfl, ⟨rfl, ⟨1, by rw [h1]; rfl, by rw [h1]; norm_num [FVal.rat]⟩, ⟨2, by rw [h2]; rfl, by rw [h2]; norm_num [FVal.rat]⟩,
    by norm_num [FVal.rat], by norm_num [FVal.rat], ?_⟩, by norm_num [FVal.rat], by decide, by decide, by norm_num [FVal.rat]⟩
  rintro q ⟨z, -, rfl⟩
  obtain ⟨k, hk⟩ := f16_multiple z
  rw [hk]
  have p : (0 : ℚ) < (2 : ℚ) ^ (-24 : Int) := by positivity
  rcases Nat.lt_or_ge k 2 with h | h
  · left
    have : (k : ℚ) ≤ 1 := by exact_mod_cast Nat.le_of_lt_succ h
    nlinarith
  · right
    have : (2 : ℚ) ≤ k := by exact_mod_cast h
    nlinarith

/-- Words of 32 bits; pairs of numbers, and with an infinity; trees of one leaf, of two, and of none; a SEXP pair whose maxima
differ by 2, and one of infinities. -/
theorem witness_MemoryArithmetic :
    ((5 : DWord).toNat < 2 ^ 32) ∧
    (5 < 2 ^ 128 ∧ (decodeF .f32 0x7FC00000).isNan = true ∧ decodeF .f32 0x7F800000 = .inf false ∧ decodeF .f32 0xFF800000 = .inf true ∧
      (decodeF .f32 0x3FC00000).isFin = true) ∧
    (let half := fun (x : BankReg) (i : Nat) => decodeF .f16 (BitVec.ofNat 64 (x.bits.toNat / 2 ^ (16 * i) % 2 ^ 16))
     (half ⟨0x3C003C00, false⟩ 0).isFin = true ∧ (half ⟨0x3C003C00, false⟩ 1).isFin = true ∧ (half ⟨0x7C00, false⟩ 0).isFin = false) ∧
    (let x : BankReg := ⟨0x3F80000040400000, false⟩
     let z : BankReg := ⟨0x3F8000003F800000, true⟩
     let leaf := fun i : Nat => if i = 0 then some x else if i = 1 then some z else none
     (∀ op ∈ [0, 1, 2], bankTree op leaf 0 0 = some x ∧ bankTree op leaf 0 (0 + 2 ^ 0) = some z ∧ bankTree op leaf 0 (1 + 2 ^ 0) = none ∧
       bankTree op leaf 1 2 = none) ∧
     (let val := fun (x : BankReg) (i : Nat) => decodeF .f32 (BitVec.ofNat 64 (x.bits.toNat / 2 ^ (32 * i) % 2 ^ 32))
      val x 0 = .fin false 0xC00000 (-22) ∧ val z 0 = .fin false 0x800000 (-23) ∧ (val x 1).isFin = true ∧ (val z 1).isFin = true ∧
      ([val x 0, val x 1, val z 0, val z 1].any FVal.isNan) = false ∧ val ⟨0xFF800000, false⟩ 0 = .inf true ∧
      (val ⟨0x7FC00000, false⟩ 0).isNan = true)) := by decide +kernel

/-- A form of each kind, of a cell array, with one part and with two; weights of three planes, all 0. -/
theorem witness_MatrixArithmetic :
    (mmaForm 8 fmtReset).isSome = true ∧ (mmaForm 11 fmtReset).isSome = true ∧ (List.replicate 1024 (0 : Word)).length = 1024 ∧
    ([[], []] : List (List Byte)).length ∈ [1, 2, 4] ∧
    (∀ t, t < 3 → (0 : BitVec 8).getLsbD (7 - t) = ((([] : List Byte).getD (8 * t + 5 / 8) 0).getLsbD (5 % 8))) :=
  ⟨rfl, by decide, List.length_replicate, by decide, by decide⟩

/-! ### The invariants -/

theorem witness_MemoryFormKept : demoCode.Inv ∧ (match step demoCode with | .next _ => true | _ => false) = true :=
  ⟨⟨by decide +kernel, by decide +kernel⟩, by decide +kernel⟩

theorem witness_StackFormKept : demoCode.StackForm ∧ (match step demoCode with | .next _ => true | _ => false) = true := by
  refine ⟨?_, by decide +kernel⟩
  unfold State.StackForm Ply.StackForm
  decide +kernel

theorem witness_TableFormsKept : demoCode.TableForm ∧ (match step demoCode with | .next _ => true | _ => false) = true := by
  refine ⟨?_, by decide +kernel⟩
  unfold State.TableForm
  decide +kernel

end Sys2Proof.Tests
end

section
/-! SUPPORT. Where an access of lanes traps: the checks of an instruction's fields, then those of its lanes, and the statement
about the memory instructions (03 R65; 05 R104, R105, R122; 06 R151; 09 R219). -/

namespace Sys2Proof.Machine

open Sys2Proof

/-! ### The checks of the fields -/

/-- An encoding that names nothing is ILL before anything else is checked (06 R151). -/
theorem check_illEncoding (v : View) (fm : Form) (st shape : Except Stop Unit) : v.check fm false st shape = .error illEncoding := rfl

/-- Where all but the live bits pass, the live bits decide. -/
theorem check_eq_liveOk {v : View} {fm : Form} {shape : Except Stop Unit} (h : v.ReadyButLive fm) (hs : shape = .ok ()) :
    v.check fm true okay shape = v.liveOk fm := by
  subst hs
  unfold View.check
  simp only [need, h.encoding, h.state, h.settled, h.idle, h.free]
  rfl

/-- A dead source, or a dead D that is read, raises DEADREG (03 R65). -/
theorem liveOk_of_dead {v : View} {fm : Form}
    (h : (∃ u ∈ fm.uses, v.liveAll ((v.srcOf u).regs u.n) = false) ∨
      ∃ u, fm.d = some u ∧ u.reads = true ∧ v.liveAll ((v.dest u.field).regs u.n) = false) :
    ∃ t : Trap, t.kind = .deadreg ∧ v.liveOk fm = .error (.trap t) := by
  unfold View.liveOk
  split
  next u _ => exact ⟨_, rfl, rfl⟩
  next hn =>
    rcases h with ⟨u, hu, hl⟩ | ⟨u, hd, hr, hl⟩
    · simpa [hl] using List.find?_eq_none.mp hn u hu
    · simp only [hd, hr, hl]
      exact ⟨_, rfl, rfl⟩

/-- The registers that last uses make dead are those that `killed` lists (03 R64). -/
theorem regAfter_eq_used (v : View) (fm : Form) (id : RegId) : v.regAfter fm id = v.used fm id := by
  have h : (v.killed fm).contains id = v.marked fm id := by
    rw [Bool.eq_iff_iff]
    simp [View.killed, View.marked, and_assoc]
  simp only [View.regAfter, View.used, h]

/-- A destination whose registers take a result of a shape raises no SHAPE at issue (03 R405). -/
theorem arrivalOk_of {v : View} {fm : Form} {d : BitVec 7} {n : Nat} {sh : Shape}
    (h : ∀ r ∈ (v.dest d).regs n, (v.used fm r).arrivalOk sh v.active v.fib.lanes = true) :
    v.arrivalOk fm d n sh = .ok () := by
  unfold View.arrivalOk need
  rw [if_pos]
  simpa [regAfter_eq_used] using h

/-! ### The checks of the lanes -/

theorem needLanes_pass {k : TrapKind} {ls : List LanePlace} {ok : LanePlace → Bool} (h : ∀ q ∈ ls, ok q = true) :
    needLanes k ls ok = .ok () := by
  have : ls.filter (fun x => !ok x) = [] := by simpa using h
  simp [needLanes, this]

theorem needLanes_pass_of {k : TrapKind} {ls : List LanePlace} {ok : LanePlace → Bool} {bad : LanePlace → Prop}
    (hok : ∀ q, bad q ↔ ok q = false) (h : ∀ q ∈ ls, ¬bad q) : needLanes k ls ok = .ok () :=
  needLanes_pass fun q hq => by simpa [hok] using h q hq

@[simp] theorem needLanes_true (k : TrapKind) (ls : List LanePlace) : needLanes k ls (fun _ => true) = .ok () :=
  needLanes_pass fun _ _ => rfl

/-- The lanes that a trap names are those that cause it. -/
theorem getLsbD_laneMask (bad : List LanePlace) (m : Mask) {l : Nat} (hl : l < 64) :
    (bad.foldl (fun m x => m ||| (1#64 <<< x.lane)) m).getLsbD l = true ↔ m.getLsbD l = true ∨ ∃ q ∈ bad, q.lane = l := by
  induction bad generalizing m with
  | nil => simp
  | cons q bad ih =>
    have h1 : (1#64 <<< q.lane).getLsbD l = true ↔ q.lane = l := by
      simp only [BitVec.getLsbD_shiftLeft, BitVec.getLsbD_one, hl]
      simp; omega
    rw [List.foldl_cons, ih, BitVec.getLsbD_or, Bool.or_eq_true, h1]
    simp [or_assoc]

/-- Lanes in ascending order, with addresses that fit a frame. -/
def LanesInOrder (ls : List LanePlace) : Prop := ls.Pairwise (fun x y => x.lane ≤ y.lane) ∧ ∀ q ∈ ls, q.va < 2 ^ 64

/-- A failed check of lanes traps on them, and names the address of the lowest (09 R219, 17 R358). -/
theorem trapsLanes_of_needLanes {v : View} {s : State} {i : Instr} {k : TrapKind} {ls : List LanePlace} {ok : LanePlace → Bool}
    {bad : LanePlace → Prop} (hls : LanesInOrder ls) (hok : ∀ q, bad q ↔ ok q = false) (hbad : ∃ q ∈ ls, bad q)
    (hi : ∀ t, needLanes k ls ok = .error (.trap t) → exec i s = .next (s.takeTrap v t)) : v.TrapsLanes s i k ls bad := by
  have hmem : ∀ q, q ∈ ls.filter (fun x => !ok x) ↔ q ∈ ls ∧ bad q := by simp [hok]
  have hord := hls.1.filter fun x => !ok x
  rcases hf : ls.filter (fun x => !ok x) with _ | ⟨x, xs⟩
  · obtain ⟨q, hq⟩ := hbad
    have := (hmem q).mpr hq
    simp [hf] at this
  · rw [hf] at hord
    simp only [hf] at hmem
    obtain ⟨hx, hxbad⟩ := (hmem x).mp (by simp)
    have hlow : ∀ q ∈ ls, bad q → x.lane ≤ q.lane := by
      intro q hq hqb
      rcases List.mem_cons.mp ((hmem q).mpr ⟨hq, hqb⟩) with rfl | hq'
      · exact le_rfl
      · exact (List.pairwise_cons.mp hord).1 q hq'
    have hva : (BitVec.ofNat 64 x.va).toNat = x.va := by
      simpa using Nat.mod_eq_of_lt (hls.2 x hx)
    refine ⟨_, x, rfl, hx, hxbad, hlow, hva, fun l hl => ?_, hi _ (by simp only [needLanes, hf]; rfl)⟩
    rw [getLsbD_laneMask _ _ hl]
    simp only [hmem]
    simp [and_assoc, and_left_comm, and_comm]

/-- What translation gives a lane is the lane, its address, and some places. -/
theorem xlatLanes_lanes {s : State} {v : View} {cls : AccClass} {n : Nat} {lanes : List (Nat × Nat)} {ls : List LanePlace}
    (h : s.xlatLanes v cls n lanes = .ok ls) : ls.map (fun q => (q.lane, q.va)) = lanes := by
  unfold State.xlatLanes at h
  induction lanes generalizing ls with
  | nil => cases h; rfl
  | cons x lanes ih =>
    rw [List.mapM_cons] at h
    rcases hx : s.xlatBytes v cls x.2 n with e | ps
    · rw [hx] at h; cases h
    · rw [hx] at h
      rcases hr : lanes.mapM (fun x => do
          let ps ← s.xlatBytes v cls x.2 n
          Except.ok ({ lane := x.1, va := x.2, places := ps } : LanePlace)) with e | qs
      · simp only [hr] at h; cases h
      · simp only [hr] at h
        cases h
        simp [ih hr]

/-- Active lanes come in ascending order; so they do when a uniform load keeps the lowest alone. -/
theorem activeLanes_pairwise (v : View) : v.activeLanes.Pairwise (· ≤ ·) :=
  (List.pairwise_le_range).filter _

theorem lanesInOrder_of_xlat {s : State} {v : View} {cls : AccClass} {n : Nat} {idx : List Nat} {addr : Nat → Nat} {ls : List LanePlace}
    (hidx : idx.Sublist v.activeLanes) (haddr : ∀ l, addr l < 2 ^ 56) (h : s.xlatLanes v cls n (idx.map fun l => (l, addr l)) = .ok ls) :
    LanesInOrder ls := by
  have hm := xlatLanes_lanes h
  constructor
  · have hp : (ls.map fun q => (q.lane, q.va)).Pairwise (fun x y => x.1 ≤ y.1) := by
      rw [hm, List.pairwise_map]
      exact (activeLanes_pairwise v).sublist hidx
    simpa [List.pairwise_map] using hp
  · intro q hq
    have : (q.lane, q.va) ∈ idx.map fun l => (l, addr l) := hm ▸ List.mem_map_of_mem hq
    obtain ⟨l, -, hl⟩ := List.mem_map.mp this
    obtain ⟨-, hva⟩ := Prod.mk.inj hl
    have := haddr l
    omega

theorem address_lt (v : View) (x : Opnd) (off : Int) (l : Nat) : v.address x off l < 2 ^ 56 := by
  unfold View.address effAddr
  omega

theorem alignTo_lt {a m : Nat} (n : Nat) (h : a < m) : alignTo n a < m := lt_of_le_of_lt (Nat.div_mul_le_self a n) h

/-! ### An instruction and its checks -/

theorem bind_of_error {α β : Type} {x : Except Stop α} {e : Stop} (h : x = .error e) (f : α → Except Stop β) :
    (x >>= f) = .error e := by
  rw [h]; rfl

theorem bind_of_ok {α β : Type} {x : Except Stop α} {a : α} (h : x = .ok a) (f : α → Except Stop β) : (x >>= f) = f a := by
  rw [h]; rfl

/-- How a memory instruction goes through its checks (06 R151): a trap of its fields is taken; where they pass and a lane is
active, so is a trap of its lanes. -/
structure View.Guarded {α : Type} (v : View) (s : State) (i : Instr) (fm : Form) (enc : Bool) (shape : Except Stop Unit)
    (access : Except Stop α) : Prop where
  fields : ∀ t, v.check fm enc okay shape = .error (.trap t) → exec i s = .next (s.takeTrap v t)
  lanes : v.check fm enc okay shape = .ok () → v.active ≠ 0 → ∀ t, access = .error (.trap t) → exec i s = .next (s.takeTrap v t)

/-- The shape of a body whose instruction is guarded. -/
theorem guarded_of {α : Type} {v : View} {s : State} {i : Instr} {fm : Form} {enc : Bool} {shape : Except Stop Unit}
    {access : Except Stop α} {y : Bool} {body : View → Except Stop State} (h : s.view = some v) (hi : exec i s = issue y s body)
    {idle : Except Stop State} {rest : α → Except Stop State}
    (hb : body v = do
      v.check fm enc okay shape
      if v.active = 0 then idle else access >>= rest) : v.Guarded s i fm enc shape access := by
  constructor
  · intro t ht
    rw [hi]
    refine issue_stop (e := .trap t) h ?_
    rw [hb, ht]
    rfl
  · intro hc ha t ht
    rw [hi]
    refine issue_stop (e := .trap t) h ?_
    rw [hb, hc, ht]
    exact if_neg ha

/-- With every other check of its fields passed, an instruction raises DEADREG for a dead source, and for a dead D that it reads. -/
def View.TrapsDead (v : View) (s : State) (i : Instr) (fm : Form) : Prop :=
  v.ReadyButLive fm →
    ((∃ u ∈ fm.uses, v.liveAll ((v.srcOf u).regs u.n) = false) → v.Traps s i .deadreg) ∧
    (∀ u, fm.d = some u → u.reads = true → v.liveAll ((v.dest u.field).regs u.n) = false → v.Traps s i .deadreg)

section
variable {α : Type} {v : View} {s : State} {i : Instr} {fm : Form} {enc : Bool} {shape : Except Stop Unit} {access : Except Stop α}

theorem View.Guarded.ill (hg : v.Guarded s i fm enc shape access) (he : enc = false) : v.Traps s i .ill := by
  subst he
  exact ⟨_, rfl, hg.fields _ (check_illEncoding v fm okay shape)⟩

/-- DEADREG for a dead source, and for a dead D that is read (03 R65). -/
theorem View.Guarded.deadreg (hg : v.Guarded s i fm enc shape access) (he : enc = true) (hs : shape = .ok ()) : v.TrapsDead s i fm := by
  intro h
  subst he
  have key : _ → v.Traps s i .deadreg := fun hd => by
    obtain ⟨t, hk, ht⟩ := liveOk_of_dead hd
    exact ⟨t, hk, hg.fields t (by rw [check_eq_liveOk h hs, ht])⟩
  exact ⟨fun hu => key (.inl hu), fun u hd hr hl => key (.inr ⟨u, hd, hr, hl⟩)⟩

/-- A ready instruction goes on to its lanes. -/
theorem View.Guarded.reaches (hg : v.Guarded s i fm enc shape access) (he : enc = true) (hs : shape = .ok ()) (h : v.Ready fm)
    (ha : v.active ≠ 0) : ∀ t, access = .error (.trap t) → exec i s = .next (s.takeTrap v t) :=
  hg.lanes (by subst he; exact check_of h rfl hs) ha

end

/-! ### Near accesses -/

/-- The checks of a near access after those of its fields, in their order: translation of every lane, FAR, SCOPE by `ok`, RLOCK
(09 R219; log 32). -/
def State.nearAccess (s : State) (v : View) (cls : AccClass) (write : Bool) (n : Nat) (lanes : List (Nat × Nat))
    (ok : LanePlace → Bool) : Except Stop (List LanePlace) := do
  let ls ← s.xlatLanes v cls n lanes
  v.needNear ls
  needLanes .scope ls ok
  s.needUnlocked v write n ls
  return ls

/-- A lane whose access is far (01 R11). -/
def LanePlace.IsFar (v : View) (q : LanePlace) : Prop := ∃ p ∈ q.places, p.peer ≠ none ∨ dieOf p.pa ≠ v.who.core / 80

/-- A lane whose access meets the spill area or a lock (02 R34, 05 R122). -/
def LanePlace.IsLocked (s : State) (v : View) (write : Bool) (n : Nat) (q : LanePlace) : Prop :=
  s.inSpill v.who.core v.who.res (q.places.map (·.pa)) = true ∨ lockStops (s.locksOf v.who.core v.who.res) write q.va n = true

theorem isFar_iff (v : View) (q : LanePlace) : q.IsFar v ↔ (q.places.all fun p => !p.far v.who.core) = false := by
  simp [LanePlace.IsFar, Place.far, imp_iff_not_or]

theorem isLocked_iff (s : State) (v : View) (write : Bool) (n : Nat) (q : LanePlace) : q.IsLocked s v write n ↔
    (!s.inSpill v.who.core v.who.res (q.places.map (·.pa)) && !lockStops (s.locksOf v.who.core v.who.res) write q.va n) = false := by
  simp [LanePlace.IsLocked, imp_iff_not_or]

theorem needNear_pass {v : View} {ls : List LanePlace} (h : ∀ q ∈ ls, ¬q.IsFar v) : v.needNear ls = .ok () :=
  needLanes_pass_of (isFar_iff v) h

/-- A ready near access traps, of its translated lanes, for FAR, for SCOPE as `out` says, and for RLOCK, in that order (09 R219). -/
def View.TrapsNear (v : View) (s : State) (i : Instr) (fm : Form) (cls : AccClass) (write : Bool) (n : Nat) (lanes : List (Nat × Nat))
    (out : LanePlace → Prop) : Prop :=
  v.Ready fm → ∀ ls, v.active ≠ 0 → s.xlatLanes v cls n lanes = .ok ls →
    ((∃ q ∈ ls, q.IsFar v) → v.TrapsLanes s i .far ls (LanePlace.IsFar v)) ∧
    ((∀ q ∈ ls, ¬q.IsFar v) → (∃ q ∈ ls, out q) → v.TrapsLanes s i .scope ls out) ∧
    ((∀ q ∈ ls, ¬q.IsFar v ∧ ¬out q) → (∃ q ∈ ls, q.IsLocked s v write n) →
      v.TrapsLanes s i .rlock ls (LanePlace.IsLocked s v write n))

theorem View.Guarded.near {v : View} {s : State} {i : Instr} {fm : Form} {enc : Bool} {shape : Except Stop Unit} {cls : AccClass}
    {write : Bool} {n : Nat} {idx : List Nat} {addr : Nat → Nat} {ok : LanePlace → Bool} {out : LanePlace → Prop}
    (hg : v.Guarded s i fm enc shape (s.nearAccess v cls write n (idx.map fun l => (l, addr l)) ok)) (he : enc = true)
    (hs : shape = .ok ()) (hidx : idx.Sublist v.activeLanes) (haddr : ∀ l, addr l < 2 ^ 56) (hout : ∀ q, out q ↔ ok q = false) :
    v.TrapsNear s i fm cls write n (idx.map fun l => (l, addr l)) out := by
  intro h ls ha hx
  have hls := lanesInOrder_of_xlat hidx haddr hx
  have hi := hg.reaches he hs h ha
  refine ⟨fun hf => ?_, fun hf ho => ?_, fun hf hl => ?_⟩
  · exact trapsLanes_of_needLanes hls (isFar_iff v) hf fun t ht => hi t ((bind_of_ok hx _).trans (bind_of_error ht _))
  · exact trapsLanes_of_needLanes hls hout ho fun t ht =>
      hi t ((bind_of_ok hx _).trans ((bind_of_ok (needNear_pass hf) _).trans (bind_of_error ht _)))
  · have hnear := needNear_pass fun q hq => (hf q hq).1
    have hscope := needLanes_pass_of (k := .scope) hout fun q hq => (hf q hq).2
    exact trapsLanes_of_needLanes hls (isLocked_iff s v write n) hl fun t ht =>
      hi t ((bind_of_ok hx _).trans ((bind_of_ok hnear _).trans ((bind_of_ok hscope _).trans (bind_of_error ht _))))

/-! ### The memory instructions -/

/-- The D field of a load or store of `n` registers. -/
def accessForm (uses : List Use) (d : BitVec 7) (n : Nat) (fixed reads : Bool) : Form :=
  { uses := uses, d := some { field := d, n := n, fixed := fixed, reads := reads, discard := !reads } }

/-- The lanes that a load accesses: the lowest active one where every address operand is uniform (09 R222). -/
def View.loadLanes (v : View) (uniform : Bool) : List Nat := if uniform then v.activeLanes.take 1 else v.activeLanes

theorem loadLanes_sublist (v : View) (uniform : Bool) : (v.loadLanes uniform).Sublist v.activeLanes := by
  cases uniform
  · exact List.Sublist.refl _
  · exact List.take_sublist _ _

section
variable {v : View} {s : State} {i : Instr} {y enc : Bool} {code : Nat} {uses : List Use} {xs : List Opnd} {addr : Nat → Nat}
  {d : BitVec 7} {bytes n : Nat} {fixed : Bool} {body : View → Except Stop State}

/-- LD and LDX (09 R222, R224). -/
theorem loadWith_guarded (h : s.view = some v) (hi : exec i s = issue y s body)
    (hb : body v = loadWith v s enc uses xs addr d bytes fixed) (hn : loadRegs bytes = n) :
    let fm := accessForm uses d n fixed false
    let uniform := xs.all fun q => q.shape == .u
    v.Guarded s i fm enc (v.arrivalOk fm d n (if uniform then .u else .g))
      (s.nearAccess v .load false bytes ((v.loadLanes uniform).map fun l => (l, addr l)) fun _ => true) := by
  subst hn
  apply guarded_of h hi
  rw [hb]
  simp only [State.nearAccess, needLanes_true, bind_assoc, pure_bind]
  rfl

theorem loadWith_traps (h : s.view = some v) (hi : exec i s = issue y s body)
    (hb : body v = loadWith v s enc uses xs addr d bytes fixed) (he : enc = true) (hn : loadRegs bytes = n) (haddr : ∀ l, addr l < 2 ^ 56) :
    let fm := accessForm uses d n fixed false
    let uniform := xs.all fun q => q.shape == .u
    (∀ r ∈ (v.dest d).regs n, (v.used fm r).arrivalOk (if uniform then .u else .g) v.active v.fib.lanes = true) →
      v.TrapsDead s i fm ∧
      v.TrapsNear s i fm .load false bytes ((v.loadLanes uniform).map fun l => (l, addr l)) fun _ => False := by
  intro fm uniform harr
  have hg := loadWith_guarded h hi hb hn
  exact ⟨hg.deadreg he (arrivalOk_of harr), hg.near he (arrivalOk_of harr) (loadLanes_sublist v uniform) haddr (by simp)⟩

/-- ST and STX (09 R223, R224). -/
theorem storeWith_guarded (h : s.view = some v) (hi : exec i s = issue y s body)
    (hb : body v = storeWith v s enc code uses xs addr d bytes fixed) (hn : loadRegs bytes = n) :
    v.Guarded s i (accessForm uses d n fixed true) enc okay
      (s.nearAccess v .store true bytes (v.activeLanes.map fun l => (l, addr l)) fun _ => true) := by
  subst hn
  apply guarded_of h hi
  rw [hb]
  simp only [State.nearAccess, needLanes_true, bind_assoc, pure_bind]
  rfl

theorem storeWith_traps (h : s.view = some v) (hi : exec i s = issue y s body)
    (hb : body v = storeWith v s enc code uses xs addr d bytes fixed) (he : enc = true) (hn : loadRegs bytes = n)
    (haddr : ∀ l, addr l < 2 ^ 56) :
    let fm := accessForm uses d n fixed true
    v.TrapsDead s i fm ∧ v.TrapsNear s i fm .store true bytes (v.activeLanes.map fun l => (l, addr l)) fun _ => False := by
  have hg := storeWith_guarded h hi hb hn
  exact ⟨hg.deadreg he rfl, hg.near he rfl (List.Sublist.refl _) haddr (by simp)⟩

end

section
variable {v : View} {s : State} (h : s.view = some v) (y : Bool) (d : BitVec 7) (o : BitVec 4) (z : BitVec 3) (a b : BitVec 9)
include h

/-- ATOM (09 R228). -/
theorem atom_guarded {w : Bool} (hw : (atomWide v.mode && !decide (o.toNat = 9 ∨ o.toNat = 12 ∨ o.toNat = 13)) = w) :
    let ua := v.addrUse a .a
    let n := if w then 8 else 4
    v.Guarded s (.atom y o z a b) { uses := [ua, atomUse b w (decide (o.toNat = 9 ∨ o.toNat = 12 ∨ o.toNat = 13))], d := none }
      (decide (z.toNat ≤ 4) && !(o.toNat == 10 || decide (14 ≤ o.toNat))) okay
      (s.nearAccess v .atomic true n (v.activeLanes.map fun l => (l, alignTo n (v.address (v.read ua none) 0 l))) fun q =>
        decide (z.toNat ≤ 2) && decide (o.toNat ≤ 9) && q.places.all (s.scopeHolds v z.toNat)) := by
  subst hw
  apply guarded_of h (body := _) rfl
  simp only [State.nearAccess, bind_assoc, pure_bind]
  rfl

/-- CAS (09 R229). -/
theorem cas_guarded {w : Bool} (hw : atomWide v.mode = w) :
    let ua := v.addrUse a .a
    let n := if w then 8 else 4
    let k := if w then 2 else 1
    let fm : Form := { uses := [ua, atomUse b w false], d := some { field := d, n := k, fixed := false, reads := true, discard := false } }
    v.Guarded s (.cas y d a b) fm true (v.arrivalOk fm d k .g)
      (s.nearAccess v .atomic true n (v.activeLanes.map fun l => (l, alignTo n (v.address (v.read ua none) 0 l))) fun q =>
        q.places.all fun p => decide (kindOf p.pa ≤ 1)) := by
  subst hw
  apply guarded_of h (body := _) rfl
  simp only [State.nearAccess, bind_assoc, pure_bind]
  rfl

/-- A near POST (09 R230, R232). -/
theorem post_near_guarded {w : Bool} (hw : (atomWide v.mode && !decide (o.toNat = 9 ∨ o.toNat = 12 ∨ o.toNat = 13)) = w)
    (hz : ¬3 ≤ z.toNat) :
    let ua := v.addrUse a .a
    let n := if w then 8 else 4
    v.Guarded s (.post y o z a b) { uses := [ua, atomUse b w (decide (o.toNat = 9 ∨ o.toNat = 12 ∨ o.toNat = 13))], d := none }
      (decide (z.toNat ≤ 4) && !(o.toNat == 7 || o.toNat == 10 || decide (14 ≤ o.toNat))) okay
      (s.nearAccess v .store true (postBytes o.toNat n)
        (v.activeLanes.map fun l => (l, alignTo (postAlign o.toNat n) (v.address (v.read ua none) 0 l))) fun q =>
          postAllowed o.toNat z.toNat && q.places.all (s.postHolds v o.toNat z.toNat)) := by
  subst hw
  apply guarded_of h (body := _) rfl
  simp only [State.nearAccess, bind_assoc, pure_bind, hz, decide_false]
  rfl

/-- The checks of a far POST's lanes: SCOPE alone (09 R231). -/
def State.farAccess (s : State) (v : View) (n : Nat) (lanes : List (Nat × Nat)) (ok : LanePlace → Bool) :
    Except Stop (List LanePlace) := do
  let ls ← s.xlatLanes v .store n lanes
  needLanes .scope ls ok
  return ls

/-- A far POST (09 R230, R231). -/
theorem post_far_guarded {w : Bool} (hw : (atomWide v.mode && !decide (o.toNat = 9 ∨ o.toNat = 12 ∨ o.toNat = 13)) = w)
    (hz : 3 ≤ z.toNat) :
    let ua := v.addrUse a .a
    let n := if w then 8 else 4
    v.Guarded s (.post y o z a b) { uses := [ua, atomUse b w (decide (o.toNat = 9 ∨ o.toNat = 12 ∨ o.toNat = 13))], d := none }
      (decide (z.toNat ≤ 4) && !(o.toNat == 7 || o.toNat == 10 || decide (14 ≤ o.toNat))) okay
      (s.farAccess v (postBytes o.toNat n)
        (v.activeLanes.map fun l => (l, alignTo (postAlign o.toNat n) (v.address (v.read ua none) 0 l))) fun q =>
          postAllowed o.toNat z.toNat && q.places.all (s.postHolds v o.toNat z.toNat)) := by
  subst hw
  apply guarded_of h (body := _) rfl
  simp only [State.farAccess, bind_assoc, pure_bind, hz, decide_true]
  rfl

/-- ILL and DEADREG of a POST do not depend on its scope. -/
theorem post_ill (he : (decide (z.toNat ≤ 4) && !(o.toNat == 7 || o.toNat == 10 || decide (14 ≤ o.toNat))) = false) :
    v.Traps s (.post y o z a b) .ill := by
  by_cases hz : 3 ≤ z.toNat
  · exact (post_far_guarded h y o z a b rfl hz).ill he
  · exact (post_near_guarded h y o z a b rfl hz).ill he

theorem post_dead {w : Bool} (hw : (atomWide v.mode && !decide (o.toNat = 9 ∨ o.toNat = 12 ∨ o.toNat = 13)) = w)
    (he : (decide (z.toNat ≤ 4) && !(o.toNat == 7 || o.toNat == 10 || decide (14 ≤ o.toNat))) = true) :
    v.TrapsDead s (.post y o z a b)
      { uses := [v.addrUse a .a, atomUse b w (decide (o.toNat = 9 ∨ o.toNat = 12 ∨ o.toNat = 13))], d := none } := by
  by_cases hz : 3 ≤ z.toNat
  · exact (post_far_guarded h y o z a b hw hz).deadreg he rfl
  · exact (post_near_guarded h y o z a b hw hz).deadreg he rfl

/-- The lanes of a FETCH: FAR of the landing addresses, SCOPE of the sources, SCOPE of the landing addresses (09 R233; log 107). -/
def State.fetchAccess (s : State) (v : View) (n : Nat) (from_ to_ : List (Nat × Nat)) : Except Stop (List LanePlace × List LanePlace) := do
  let src ← s.xlatLanes v .load n from_
  let land ← s.xlatLanes v .store n to_
  v.needNear land
  needLanes .scope src fun q => q.places.all fun p =>
    p.peer.isSome || (kindOf p.pa == 0 && (s.contextDies v.team.ctx).contains (dieOf p.pa))
  needLanes .scope land fun q => q.places.all fun p => kindOf p.pa == 0
  return (src, land)

theorem fetch_guarded :
    let ua := v.addrUse a .a
    let ub := v.addrUse b .b
    let n := 4 * 2 ^ z.toNat
    v.Guarded s (.fetch y z a b) { uses := [ua, ub], d := none } (decide (z.toNat ≤ 4)) okay
      (s.fetchAccess v n (v.activeLanes.map fun l => (l, alignTo n (v.address (v.read ua none) 0 l)))
        (v.activeLanes.map fun l => (l, alignTo n (v.address (v.read ub none) 0 l)))) := by
  apply guarded_of (rest := Function.uncurry _) h (body := _) rfl
  simp only [State.fetchAccess, bind_assoc, pure_bind, Function.uncurry_apply_pair]
  rfl

end

/-- A FETCH's sources (09 R233). -/
theorem fetchSource_iff (dies : List Nat) (q : LanePlace) :
    (∃ p ∈ q.places, p.peer = none ∧ (kindOf p.pa ≠ 0 ∨ dieOf p.pa ∉ dies)) ↔
      (q.places.all fun p => p.peer.isSome || (kindOf p.pa == 0 && dies.contains (dieOf p.pa))) = false := by
  simp [imp_iff_not_or]

/-- SCOPE of a far POST (09 R231). -/
theorem View.Guarded.far {v : View} {s : State} {i : Instr} {fm : Form} {enc : Bool} {n : Nat} {idx : List Nat} {addr : Nat → Nat}
    {ok : LanePlace → Bool} {out : LanePlace → Prop} {ls : List LanePlace}
    (hg : v.Guarded s i fm enc okay (s.farAccess v n (idx.map fun l => (l, addr l)) ok)) (he : enc = true) (h : v.Ready fm)
    (ha : v.active ≠ 0) (hidx : idx.Sublist v.activeLanes) (haddr : ∀ l, addr l < 2 ^ 56)
    (hx : s.xlatLanes v .store n (idx.map fun l => (l, addr l)) = .ok ls) (hout : ∀ q, out q ↔ ok q = false) (ho : ∃ q ∈ ls, out q) :
    v.TrapsLanes s i .scope ls out :=
  trapsLanes_of_needLanes (lanesInOrder_of_xlat hidx haddr hx) hout ho fun t ht =>
    hg.reaches he rfl h ha t ((bind_of_ok hx _).trans (bind_of_error ht _))

/-- FAR of the landing addresses, then SCOPE of the sources, then of the landing addresses (09 R233; log 107). -/
theorem View.Guarded.fetch {v : View} {s : State} {i : Instr} {fm : Form} {enc : Bool} {n : Nat} {idx : List Nat} {from_ to_ : Nat → Nat}
    {src land : List LanePlace}
    (hg : v.Guarded s i fm enc okay (s.fetchAccess v n (idx.map fun l => (l, from_ l)) (idx.map fun l => (l, to_ l)))) (he : enc = true)
    (h : v.Ready fm) (ha : v.active ≠ 0) (hidx : idx.Sublist v.activeLanes) (hfrom : ∀ l, from_ l < 2 ^ 56) (hto : ∀ l, to_ l < 2 ^ 56)
    (hsrc : s.xlatLanes v .load n (idx.map fun l => (l, from_ l)) = .ok src)
    (hland : s.xlatLanes v .store n (idx.map fun l => (l, to_ l)) = .ok land) :
    let outS := fun q : LanePlace =>
      ∃ p ∈ q.places, p.peer = none ∧ (kindOf p.pa ≠ 0 ∨ dieOf p.pa ∉ s.contextDies v.team.ctx)
    let outL := fun q : LanePlace => ∃ p ∈ q.places, kindOf p.pa ≠ 0
    ((∃ q ∈ land, q.IsFar v) → v.TrapsLanes s i .far land (LanePlace.IsFar v)) ∧
    ((∀ q ∈ land, ¬q.IsFar v) → (∃ q ∈ src, outS q) → v.TrapsLanes s i .scope src outS) ∧
    ((∀ q ∈ land, ¬q.IsFar v) → (∀ q ∈ src, ¬outS q) → (∃ q ∈ land, outL q) → v.TrapsLanes s i .scope land outL) := by
  intro outS outL
  have hls := lanesInOrder_of_xlat hidx hto hland
  have hreach : ∀ t, _ → exec i s = .next (s.takeTrap v t) := fun t ht =>
    hg.reaches he rfl h ha t ((bind_of_ok hsrc _).trans ((bind_of_ok hland _).trans ht))
  have houtS : ∀ q, outS q ↔ _ := fetchSource_iff (s.contextDies v.team.ctx)
  refine ⟨fun hf => ?_, fun hf ho => ?_, fun hf hs ho => ?_⟩
  · exact trapsLanes_of_needLanes hls (isFar_iff v) hf fun t ht => hreach t (bind_of_error ht _)
  · exact trapsLanes_of_needLanes (lanesInOrder_of_xlat hidx hfrom hsrc) houtS ho fun t ht =>
      hreach t ((bind_of_ok (needNear_pass hf) _).trans (bind_of_error ht _))
  · have hscope := needLanes_pass_of (k := .scope) houtS hs
    exact trapsLanes_of_needLanes hls (by simp [outL]) ho fun t ht =>
      hreach t ((bind_of_ok (needNear_pass hf) _).trans ((bind_of_ok hscope _).trans (bind_of_error ht _)))

/-! ### The statement -/

/-- The operands of 64 bits (09 R226). -/
theorem atomWide_eq (m : Word) : atomWide m = decide (modeType m ∈ [3, 7, 11]) := by
  simp only [atomWide, List.mem_cons, List.not_mem_nil, or_false, Bool.decide_or, Bool.or_assoc]
  rfl

/-- The bytes of an LDX or STX (09 R224). -/
theorem indexBytes_eq (m : Word) : indexBytes m =
    if modeType m = 0 ∨ modeType m = 4 then 1 else if modeType m ∈ [1, 5, 8, 9] then 2
    else if modeType m ∈ [3, 7, 11] then 8 else 4 := by
  unfold indexBytes
  split <;> simp_all

/-- The registers of an access by its bytes (06 R140). -/
theorem loadRegs_eq {n : Nat} (h : n ∈ [1, 2, 4, 8, 16]) : loadRegs n = if n ≤ 4 then 1 else if n = 8 then 2 else 4 := by
  revert n; decide

theorem indexBytes_mem (m : Word) : indexBytes m ∈ [1, 2, 4, 8, 16] := by
  rw [indexBytes_eq]; split_ifs <;> simp

theorem accessSize_mem {z : BitVec 3} (h : z.toNat ≤ 4) : 2 ^ z.toNat ∈ [1, 2, 4, 8, 16] := by
  revert z; decide

/-- A place that no scope's set holds (05 R104), and the operations of an ATOM (09 R228). -/
theorem atomScope_iff (s : State) (v : View) (o z : Nat) (q : LanePlace) :
    (2 < z ∨ 9 < o ∨ ∃ p ∈ q.places, s.scopeHolds v z p = false) ↔
      (decide (z ≤ 2) && decide (o ≤ 9) && q.places.all (s.scopeHolds v z)) = false := by
  simp only [Bool.and_eq_false_iff, decide_eq_false_iff_not, List.all_eq_false, Nat.not_le, or_assoc, Bool.not_eq_true]

/-- A near POST's scope (05 R104, R105). -/
theorem nearPostScope_iff (s : State) (v : View) {o z : Nat} (hz : z ≤ 2) (q : LanePlace) :
    (if 11 ≤ o then z ≠ 2 ∨ ∃ p ∈ q.places, kindOf p.pa ≠ 0 else ∃ p ∈ q.places, s.scopeHolds v z p = false) ↔
      (postAllowed o z && q.places.all (s.postHolds v o z)) = false := by
  have h3 : ¬3 ≤ z := by omega
  have h4 : ¬z = 4 := by omega
  have h3' : ¬z = 3 := by omega
  unfold postAllowed State.postHolds
  by_cases ho : 11 ≤ o
  · have h2 : 2 ≤ z ↔ ¬z ≠ 2 := by omega
    simp only [ho, h4, h3', h2, if_true, if_false, Bool.and_eq_false_iff, decide_eq_false_iff_not, not_not, List.all_eq_false,
      beq_iff_eq]
  · simp [ho, h3, h4, h3']

/-- The operations that no far POST has (05 R105). -/
theorem farPostOp_iff {o z : Nat} (h3 : 3 ≤ z) (ho10 : o ≠ 10) : postAllowed o z = false ↔ o ≤ 9 ∧ o ∉ [0, 2, 3, 5] := by
  by_cases ho : 11 ≤ o
  · simp [postAllowed, ho, show 2 ≤ z by omega]; omega
  · simp [postAllowed, ho, h3]; omega

/-- A place outside the set of a far POST: another device's at DEVICE scope, or no stack memory of its own (05 R104). -/
def Place.OutOfPost (dies : List Nat) (z : BitVec 3) (p : Place) : Prop :=
  (z = 3 ∧ p.peer ≠ none) ∨ (p.peer = none ∧ (kindOf p.pa ≠ 0 ∨ dieOf p.pa ∉ dies))

/-- The places of a far POST; DEVICE scope has no place on a device of one die (01 R15). -/
theorem farPostPlaces_iff (s : State) (v : View) (o : Nat) {z : BitVec 3} (hz : z = 3 ∨ z = 4) (ps : List Place) :
    let dies := s.contextDies v.team.ctx
    (ps.all (s.postHolds v o z.toNat)) = false ↔ (z = 3 ∧ dies.length = 1 ∧ ps ≠ []) ∨ ∃ p ∈ ps, p.OutOfPost dies z := by
  intro dies
  rcases hz with rfl | rfl
  · by_cases hd : dies.length = 1
    · cases ps <;> simp [State.postHolds, hd, dies]
    · have hp : ∀ p, s.postHolds v o 3 p = false ↔ p.OutOfPost dies 3 := fun p => by
        cases hpeer : p.peer <;> simp [State.postHolds, Place.OutOfPost, dies, hd, hpeer, imp_iff_not_or]
      simp [hd, hp]
  · have hp : ∀ p, s.postHolds v o 4 p = false ↔ p.OutOfPost dies 4 := fun p => by
      cases hpeer : p.peer <;> simp [State.postHolds, Place.OutOfPost, dies, hpeer, imp_iff_not_or]
    simp [hp]

/-- A far POST's scope: its operation, then its places (05 R104, R105). -/
theorem farPostScope_iff (s : State) (v : View) {o : Nat} {z : BitVec 3} (h3 : 3 ≤ z.toNat) (h4 : z.toNat ≤ 4) (ho10 : o ≠ 10)
    (q : LanePlace) :
    let dies := s.contextDies v.team.ctx
    ((o ≤ 9 ∧ o ∉ [0, 2, 3, 5]) ∨ (z = 3 ∧ dies.length = 1 ∧ q.places ≠ []) ∨ ∃ p ∈ q.places, p.OutOfPost dies z) ↔
      (postAllowed o z.toNat && q.places.all (s.postHolds v o z.toNat)) = false := by
  have hz : z = 3 ∨ z = 4 := by
    rcases show z.toNat = 3 ∨ z.toNat = 4 by omega with h | h
    · exact .inl (BitVec.eq_of_toNat_eq h)
    · exact .inr (BitVec.eq_of_toNat_eq h)
  rw [Bool.and_eq_false_iff]
  exact (or_congr (farPostOp_iff h3 ho10) (farPostPlaces_iff s v o hz q.places)).symm

/-- Settles O37: each instruction's form, lanes and scope meet the shared order of checks. -/
theorem memoryTraps : Obligations.MemoryTraps := by
  intro y d o z off a b s v h ua x wide single sized bytes regs dst ub idx index far locked off_ arrives dead near load store
  have hz : z.toNat ≤ 4 → loadRegs (2 ^ z.toNat) = regs (2 ^ z.toNat) := fun h => loadRegs_eq (accessSize_mem h)
  have hsized : indexBytes v.mode = sized := indexBytes_eq v.mode
  have hx : loadRegs (indexBytes v.mode) = regs (indexBytes v.mode) := loadRegs_eq (indexBytes_mem v.mode)
  have hw : atomWide v.mode = wide := atomWide_eq v.mode
  have hws : (atomWide v.mode && !decide (o.toNat = 9 ∨ o.toNat = 12 ∨ o.toNat = 13)) = (wide && !single) := by rw [hw]
  have hle : ∀ (n : Nat) (u : Use) (l : Nat), alignTo n (v.address (v.read u none) 0 l) < 2 ^ 56 :=
    fun n u l => alignTo_lt n (address_lt v (v.read u none) 0 l)
  have hall : v.activeLanes.Sublist v.activeLanes := List.Sublist.refl _
  refine ⟨fun hz5 => ?_, fun ho => ?_, fun ho => post_ill h y o z a b (by simp [ho]), fun hz4 => ⟨?_, ?_⟩, ?_, ?_, ?_, ?_, ?_, ?_⟩
  · have he : decide (z.toNat ≤ 4) = false := by simpa using hz5
    exact ⟨(loadWith_guarded (body := _) h rfl rfl rfl).ill he, (storeWith_guarded (body := _) h rfl rfl rfl).ill he,
      (fetch_guarded h y z a b).ill he, (atom_guarded h y o z a b rfl).ill (by simp [he]), post_ill h y o z a b (by simp [he])⟩
  · have he : (o.toNat == 10 || decide (14 ≤ o.toNat)) = true := by simpa using ho
    exact ⟨(atom_guarded h y o z a b rfl).ill (by simp [he]), post_ill h y o z a b (by simp [he, Bool.or_assoc])⟩
  · exact loadWith_traps (i := .ld y d a z off) (body := _) h rfl rfl (by simpa using hz4) (hz hz4) fun l => address_lt ..
  · exact storeWith_traps (i := .st y d a z off) (body := _) h rfl rfl (by simpa using hz4) (hz hz4) fun l => address_lt ..
  · rw [← hsized]
    exact loadWith_traps (i := .ldx y d a b) (body := _) h rfl rfl rfl hx fun l => address_lt ..
  · rw [← hsized]
    exact storeWith_traps (i := .stx y d a b) (body := _) h rfl rfl rfl hx fun l => address_lt ..
  · intro w n fm hz4 ho10 ho13
    have hg := atom_guarded h y o z a b hws
    have he : (decide (z.toNat ≤ 4) && !(o.toNat == 10 || decide (14 ≤ o.toNat))) = true := by simp; omega
    exact ⟨hg.deadreg he rfl, hg.near he rfl hall (hle n ua) (atomScope_iff s v o.toNat z.toNat)⟩
  · intro n k fm harr
    have hg := cas_guarded h y d a b hw
    exact ⟨hg.deadreg rfl (arrivalOk_of harr), hg.near rfl (arrivalOk_of harr) hall (hle n ua) (by simp)⟩
  · intro w n align size fm lanes hz4 ho7 ho10 ho13
    have he : (decide (z.toNat ≤ 4) && !(o.toNat == 7 || o.toNat == 10 || decide (14 ≤ o.toNat))) = true := by simp; omega
    refine ⟨post_dead h y o z a b hws he, fun hz2 => ?_, fun hz3 hr ls ha hls hout => ?_⟩
    · exact (post_near_guarded h y o z a b hws (by omega)).near he rfl hall (hle align ua) (nearPostScope_iff s v hz2)
    · exact (post_far_guarded h y o z a b hws hz3).far he hr ha hall (hle align ua) hls (farPostScope_iff s v hz3 hz4 ho10) hout
  · intro n ub fm dies outS outL hz4
    have hg := fetch_guarded h y z a b
    have he : decide (z.toNat ≤ 4) = true := by simpa using hz4
    exact ⟨hg.deadreg he rfl, fun hr src land ha hsrc hland => hg.fetch he hr ha hall (hle n ua) (hle n ub) hsrc hland⟩

end Sys2Proof.Machine
end

section
/-! SUPPORT. What writes of registers and queues, resets, boot stages and power samples do (15 R316, R325; 16 R326, R327;
19 R392, R396; 20 R400, R401, R404). -/

namespace Sys2Proof.Machine

open Sys2Proof

/-- What every step of a fold keeps, the fold keeps. -/
theorem foldl_keeps {α β γ : Type} {f : β → α → β} (p : β → γ) (h : ∀ b x, p (f b x) = p b) (xs : List α) (b : β) :
    p (xs.foldl f b) = p b := by
  induction xs generalizing b with
  | nil => rfl
  | cons x xs ih => rw [List.foldl_cons, ih, h]

theorem foldr_keeps {α β γ : Type} {f : α → β → β} (p : β → γ) (h : ∀ x b, p (f x b) = p b) (xs : List α) (b : β) :
    p (xs.foldr f b) = p b := by
  rw [List.foldr_eq_foldl_reverse]
  exact foldl_keeps p (fun b x => h x b) _ _

/-- An event that is due gives its state. -/
theorem exec_event_next {i : Instr} {s t u : State} (hi : exec i s = event s (some t)) (h : t = u) : exec i s = .next u := by
  rw [hi, h]; rfl

theorem exec_event_due {i : Instr} {s u : State} {e : Option State} (hi : exec i s = event s e) (h : e = some u) : exec i s = .next u :=
  exec_event_next (h ▸ hi) rfl

/-- An event that is not due leaves the state as it is (log 82). -/
theorem exec_event_notDue {i : Instr} {s : State} {e : Option State} (hi : exec i s = event s e) (h : e = none) : exec i s = .next s := by
  rw [hi, h]; rfl

/-! ### Register writes -/

/-- The bits that a write of `n` bytes from byte 0 on covers. -/
theorem mask_regWriteOf (n x : Nat) {i : Nat} (hi : i < 64) : (RegWrite.of 0 n x).mask.getLsbD i = decide (i < 8 * n) := by
  simp only [RegWrite.of, Nat.mul_zero, pow_zero, Nat.mul_one, BitVec.getLsbD_ofNat, hi, Nat.testBit_two_pow_sub_one]
  simp

theorem value_regWriteOf (n x : Nat) {i : Nat} (hi : i < 64) : (RegWrite.of 0 n x).value.getLsbD i = x.testBit i := by
  simp only [RegWrite.of, Nat.mul_zero, pow_zero, Nat.mul_one, BitVec.getLsbD_ofNat, hi]
  simp

/-- Such a write replaces the bits that it covers, whatever stood there. -/
theorem field_regWriteOf (n x : Nat) (old : DWord) {k : Nat} (hn : 8 * n ≤ 64) (hk : k ≤ 8 * n) :
    (RegWrite.of 0 n x).field old 0 k = x % 2 ^ k := by
  apply Nat.eq_of_testBit_eq
  intro i
  rw [RegWrite.field, Nat.testBit_mod_two_pow, Nat.testBit_mod_two_pow, BitVec.ushiftRight_zero, BitVec.testBit_toNat,
    BitVec.getLsbD_or, BitVec.getLsbD_and, BitVec.getLsbD_and, BitVec.getLsbD_not]
  by_cases hi : i < k
  · have h1 : i < 8 * n := by omega
    have h2 : i < 64 := by omega
    simp [mask_regWriteOf n x h2, value_regWriteOf n x h2, hi, h1]
  · simp [hi]

theorem field_regWrite32 (x : BitVec 32) (old : DWord) {k : Nat} (hk : k ≤ 32) :
    (RegWrite.of 0 4 x.toNat).field old 0 k = x.toNat % 2 ^ k :=
  field_regWriteOf 4 x.toNat old (by norm_num) hk

theorem field_regWrite64 (x : BitVec 64) (old : DWord) {k : Nat} (hk : k ≤ 64) :
    (RegWrite.of 0 8 x.toNat).field old 0 k = x.toNat % 2 ^ k :=
  field_regWriteOf 8 x.toNat old le_rfl hk

/-- A field of one bit, read as a bit. -/
theorem bit_regWrite32 (x : BitVec 32) (old : DWord) : ((RegWrite.of 0 4 x.toNat).field old 0 1 == 1) = x.getLsbD 0 := by
  rw [field_regWrite32 x old (by norm_num), BitVec.getLsbD, Nat.testBit_zero]
  rfl

theorem one_regWrite32 (x : BitVec 32) {i : Nat} (hi : i < 32) : (RegWrite.of 0 4 x.toNat).one i = x.getLsbD i := by
  have h64 : i < 64 := by omega
  have h4 : i < 8 * 4 := by omega
  simp only [RegWrite.one, mask_regWriteOf 4 _ h64, value_regWriteOf 4 _ h64, h4, BitVec.testBit_toNat]
  rfl

/-! ### A core's registers -/

@[simp] theorem core_modCore_same (s : State) (n : Nat) (f : Core → Core) : (s.modCore n f).core n = f (s.core n) :=
  core_setCore_same s n _

theorem core_modCore_ne (s : State) {n m : Nat} (f : Core → Core) (h : m ≠ n) : (s.modCore n f).core m = s.core m :=
  core_setCore_ne s _ h

/-- A change of DUAL on a core that hosts a team is refused as a whole (15 R325). -/
theorem writeResidency_refused {s : State} {n : Nat} {x : BitVec 32} (h : s.occ n ≠ 0 ∨ (s.core n).turns ≠ [])
    (hx : x.getLsbD 0 ≠ (s.core n).dual) : s.writeResidency n (RegWrite.of 0 4 x.toNat) = s.registerError n 0 := by
  unfold State.writeResidency
  simp only [bit_regWrite32]
  rw [if_pos]
  simp only [Bool.and_eq_true, Bool.or_eq_true, bne_iff_ne]
  exact ⟨hx, h⟩

/-- DUAL takes its bit where it does not change, or the core hosts no team; bit 2 asks for a switch (15 R316, R325). -/
theorem writeResidency_takes {s : State} {n : Nat} {x : BitVec 32}
    (h : x.getLsbD 0 = (s.core n).dual ∨ (s.occ n = 0 ∧ (s.core n).turns = [])) :
    s.writeResidency n (RegWrite.of 0 4 x.toNat) = s.modCore n fun c =>
      let c1 := if x.getLsbD 0 = c.dual then c
        else { (if x.getLsbD 0 then c else c.merge) with dual := x.getLsbD 0, issuing := 0, draining := false }
      if x.getLsbD 2 then c1.requestSwitch else c1 := by
  unfold State.writeResidency
  simp only [bit_regWrite32, one_regWrite32 x (show 2 < 32 by norm_num)]
  apply if_neg
  simp only [Bool.and_eq_true, Bool.or_eq_true, bne_iff_ne]
  rintro ⟨hne, ho⟩
  rcases h with h | ⟨h0, ht⟩
  · exact hne h
  · exact ho.elim (· h0) (· ht)

/-- DUAL of a core without a team. -/
theorem dualWrite_takes {s : State} {n : Nat} {x : BitVec 32} (h0 : s.occ n = 0) (ht : (s.core n).turns = [])
    (h2 : x.getLsbD 2 = false) :
    ∃ t, exec (.dualWrite n x) s = .next t ∧ (t.core n).dual = x.getLsbD 0 ∧ t.mem = s.mem := by
  refine ⟨_, exec_event_next rfl (writeResidency_takes (.inr ⟨h0, ht⟩)), ?_, rfl⟩
  rw [core_modCore_same, h2]
  split
  next hd => exact hd.symm
  next => rfl

/-- SWREQ of a core in dual residency. -/
theorem swreq_takes {s : State} {n : Nat} {x : BitVec 32} (h2 : x.getLsbD 2 = true) (h0 : x.getLsbD 0 = (s.core n).dual)
    (hd : (s.core n).dual = true) (hr : (s.core n).draining = false) :
    ∃ t, exec (.swreq n x) s = .next t ∧ t.core n = { s.core n with draining := true } := by
  refine ⟨_, exec_event_next rfl (writeResidency_takes (.inl h0)), ?_⟩
  rw [core_modCore_same]
  simp [h2, h0, Core.requestSwitch, hd, hr]

/-- QUANT in its range and out of it. -/
theorem writeQuant_eq (s : State) (n : Nat) (x : BitVec 32) :
    let q := x.toNat % 2 ^ 25
    s.writeQuant n (RegWrite.of 0 4 x.toNat) =
      if 250000 ≤ q ∧ q ≤ 25000000 then s.modCore n fun c => { c with quant := q } else s.registerError n 8 := by
  unfold State.writeQuant
  simp only [field_regWrite32 x _ (show 25 ≤ 32 by norm_num)]

/-! ### Queues -/

@[simp] theorem queue_setQueue_same (s : State) (q : Nat) (x : Queue) : (s.setQueue q x).queue q = x := by
  simp [State.queue, State.setQueue]

/-- ARVADD of an assigned queue, in its range and out of it (16 R326). -/
theorem writeArvadd_eq {s : State} {q : Nat} (x : BitVec 32) (h : (s.queue q).owner.isSome = true) :
    let n : Word := (x.extractLsb' 0 13).setWidth 32
    s.writeArvadd q x =
      if 1 ≤ n.toNat ∧ n.toNat ≤ 4096 ∧ ((s.queue q).arvcnt - (s.queue q).consumed).toNat + n.toNat ≤ 4096 then
        s.setQueue q { s.queue q with arvcnt := (s.queue q).arvcnt + n }
      else s.registerError controlSource 8 := by
  intro n
  have hn : n = 0 ↔ ¬1 ≤ n.toNat := by
    rw [← BitVec.toNat_inj]; simp
  have howner : (s.queue q).owner.isNone = false := Option.isNone_eq_false_iff.mpr h
  have hcond : (n = 0 ∨ n.toNat > 4096 ∨ ((s.queue q).arvcnt - (s.queue q).consumed).toNat + n.toNat > 4096) ↔
      ¬(1 ≤ n.toNat ∧ n.toNat ≤ 4096 ∧ ((s.queue q).arvcnt - (s.queue q).consumed).toNat + n.toNat ≤ 4096) := by
    rw [hn]; omega
  unfold State.writeArvadd
  simp only [howner]
  rw [if_neg (by simp), ← ite_not]
  exact if_congr ((not_congr hcond).trans not_not) rfl rfl

theorem arvadd_takes {i : Instr} {s : State} {q : Nat} {x : BitVec 32} (h : (s.queue q).owner.isSome = true)
    (hi : exec i s = event s (some (s.writeArvadd q x))) :
    let n : Word := (x.extractLsb' 0 13).setWidth 32
    if 1 ≤ n.toNat ∧ n.toNat ≤ 4096 ∧ ((s.queue q).arvcnt - (s.queue q).consumed).toNat + n.toNat ≤ 4096 then
      ∃ t, exec i s = .next t ∧ t.queue q = { s.queue q with arvcnt := (s.queue q).arvcnt + n }
    else ∃ t, exec i s = .next t ∧ t.control.queues = s.control.queues := by
  intro n
  have hw := writeArvadd_eq x h
  split
  next hn => exact ⟨_, exec_event_next hi (hw.trans (if_pos hn)), queue_setQueue_same s q _⟩
  next hn => exact ⟨_, exec_event_next hi (hw.trans (if_neg hn)), rfl⟩

/-- MIRROR of an assigned queue (16 R326). -/
theorem writeMirror_takes {s : State} {q : Nat} {y : BitVec 64} (h : (s.queue q).owner.isSome = true) (hy : y.toNat % 8 = 0) :
    s.writeMirror q y = s.setQueue q { s.queue q with mirror := y } := by
  have howner : ¬(s.queue q).owner.isNone = true := by rw [Option.isNone_eq_false_iff.mpr h]; exact Bool.false_ne_true
  have haligned : ¬y.extractLsb' 0 3 ≠ 0 := by
    rw [not_not, ← BitVec.toNat_inj]
    simpa using hy
  exact (if_neg howner).trans (if_neg haligned)

/-- Four bytes at a granule's place are a write of that granule alone (16 R327). -/
theorem writeSlot_granule (s : State) (q slot ctx : Nat) {g : Nat} {bytes : List Byte} (hg : g < 64) (hb : bytes.length = 4) :
    s.writeSlot q slot ctx (4 * g) bytes = s.writeGranule q slot ctx (4 * g) bytes g := by
  have hgs : (List.range 64).filter (fun k => decide (4 * g < 4 * k + 4) && decide (4 * k < 4 * g + bytes.length)) = [g] := by
    have : ∀ k, (decide (4 * g < 4 * k + 4) && decide (4 * k < 4 * g + bytes.length)) = (k == g) := fun k => by
      rw [hb, Bool.eq_iff_iff]; simp; omega
    simp only [this]
    rw [List.filter_beq, List.count_eq_one_of_mem List.nodup_range (List.mem_range.mpr hg)]
    rfl
  unfold State.writeSlot
  simp only [hgs]
  rfl

/-- Reading a string of four bytes from its start. -/
theorem leAt_four {bytes : List Byte} (hb : bytes.length = 4) : leAt bytes 0 4 = leNat bytes := by
  have : sliceBytes bytes 0 4 = bytes := by
    apply List.ext_getElem
    · simp [sliceBytes, hb]
    · intro i h1 h2
      simp [sliceBytes, List.getElem?_eq_getElem h2]
  rw [leAt, this]

/-- A whole granule is stored once, and discarded after (16 R327). -/
theorem writeGranule_whole (s : State) (q slot ctx g : Nat) {bytes : List Byte} (hb : bytes.length = 4) :
    s.writeGranule q slot ctx (4 * g) bytes g =
      if (kget (s.queue q).granules (64 * slot + g)).isSome then s.post .queueConflict controlSource ctx [q, slot, g]
      else s.setQueue q { s.queue q with
        granules := kset (s.queue q).granules (64 * slot + g) (BitVec.ofNat 32 (leNat bytes)) } := by
  unfold State.writeGranule
  rw [Nat.sub_self, leAt_four hb, hb]
  simp only [le_refl, decide_true, Bool.and_self, Bool.not_true, Bool.false_or]

/-- QUEUE_SLOT_WRITE of one granule (16 R327). -/
theorem exec_queueSlotWrite {s : State} {q slot g fn ctx : Nat} {bytes : List Byte} (ho : (s.queue q).owner = some (fn, ctx))
    (hs : slot < 4096) (hg : g < 64) (hb : bytes.length = 4) :
    exec (.queueSlotWrite q slot (4 * g) bytes) s = event s (some (s.writeGranule q slot ctx (4 * g) bytes g)) := by
  show execQueueSlotWrite q slot (4 * g) bytes s = _
  unfold execQueueSlotWrite
  rw [ho, ← writeSlot_granule s q slot ctx hg hb]
  simp only [if_pos (show slot < 4096 ∧ 4 * g + bytes.length ≤ 256 by omega)]

/-! ### Functions and the power limit -/

@[simp] theorem fn_setFn_same (s : State) (f : Nat) (x : HostFn) : (s.setFn f x).fn f = x := by
  simp [State.fn, State.setFn]

/-- A ring's base and entries without a reserved value (19 R396). -/
theorem configureRing_takes {s : State} {f : Nat} {base : Addr} {entries off : Nat} (hb : base.toNat % 32 = 0)
    (he : off = 0x208 → ∃ k, k ≤ 10 ∧ entries = 2 ^ (k + 6)) :
    s.configureRing f base entries off =
      s.setFn f { s.fn f with ringBase := base, ringEntries := entries, cons := 0, prod := 0, ring := [] } := by
  apply if_neg
  rintro (h | ⟨ho, h⟩)
  · apply h
    rw [← BitVec.toNat_inj]
    simpa using hb
  · obtain ⟨k, hk, hke⟩ := he ho
    have : (List.range 11).any (fun k => entries == 2 ^ (k + 6)) = true :=
      List.any_eq_true.mpr ⟨k, List.mem_range.mpr (by omega), by simpa using hke⟩
    simp [this] at h

/-- PLIMIT in its range (20 R404). -/
theorem writePlimit_takes {s : State} {y : BitVec 64} (h : 1000 ≤ y.toNat % 2 ^ 13 ∧ y.toNat % 2 ^ 13 ≤ 4400) :
    s.writeKind3 8 0x10 (RegWrite.of 0 8 y.toNat) =
      { s with control := { s.control with power := { s.control.power with plimit := y.toNat % 2 ^ 13 } } } := by
  have hf : ∀ old, (RegWrite.of 0 8 y.toNat).field old 0 13 = y.toNat % 2 ^ 13 := fun old => field_regWrite64 y old (by norm_num)
  show s.writeControlReg 0x10 _ = _
  unfold State.writeControlReg
  simp only [hf, h, and_self, if_true]

/-! ### Cores of a die -/

theorem mem_dieCores (d n : Nat) : n ∈ dieCores d ↔ n / 80 = d := by
  simp only [dieCores, List.mem_map, List.mem_range]
  exact ⟨fun ⟨i, h, e⟩ => by omega, fun h => ⟨n % 80, by omega, by omega⟩⟩

theorem dieCores_nodup (d : Nat) : (dieCores d).Nodup := List.nodup_range.map fun _ _ h => by simpa using h

/-- A change of some cores, each by the clock and what it was. -/
def State.modCores (s : State) (ns : List Nat) (g : Nat → Core → Core) : State :=
  ns.foldl (fun s n => s.modCore n (g s.clock)) s

/-- It changes the cores alone. -/
theorem modCores_rest (s : State) (ns : List Nat) (g : Nat → Core → Core) :
    s.modCores ns g = { s with cores := (s.modCores ns g).cores } := by
  unfold State.modCores
  induction ns generalizing s with
  | nil => rfl
  | cons n ns ih => rw [List.foldl_cons, ih]; rfl

theorem core_modCores (s : State) {ns : List Nat} (g : Nat → Core → Core) (h : ns.Nodup) (m : Nat) :
    (s.modCores ns g).core m = if m ∈ ns then g s.clock (s.core m) else s.core m := by
  unfold State.modCores
  induction ns generalizing s with
  | nil => simp
  | cons n ns ih =>
    obtain ⟨hn, hns⟩ := List.nodup_cons.mp h
    rw [List.foldl_cons, ih _ hns]
    by_cases hm : m = n
    · subst hm; simp [hn]
    · simp only [core_modCore_ne s _ hm, List.mem_cons, hm, false_or]
      rfl

/-- The cores of a die start (01 R20, 08 R206). -/
theorem releaseDie_eq (s : State) (d : Nat) :
    s.releaseDie d = s.modCores (dieCores d) fun now c => { c with held := false, resetAt := now } := rfl

theorem core_releaseDie (s : State) (d n : Nat) :
    (s.releaseDie d).core n = if n / 80 = d then { s.core n with held := false, resetAt := s.clock } else s.core n := by
  rw [releaseDie_eq, core_modCores s _ (dieCores_nodup d)]
  simp only [mem_dieCores]

/-! ### Compute dies -/

/-- The teams of a core re-enter placement, which touches no memory. -/
@[simp] theorem mem_releaseTeams (s : State) (n : Nat) : (s.releaseTeams n).mem = s.mem := by
  unfold State.releaseTeams
  rw [mem_modCore]
  have h1 : ((s.core n).teams.foldl State.restartTeam s).mem = s.mem := foldl_keeps State.mem (f := State.restartTeam) (fun _ _ => rfl) _ _
  have h2 := foldl_keeps State.mem (f := fun (s : State) (x : Nat × RestoreReq) => if x.2.base.isNone then s.requeue x.2.saved true else s)
    (fun s x => by split <;> rfl) (s.core n).restore ((s.core n).teams.foldl State.restartTeam s)
  have h3 : ∀ t : State, (t.endTest (n / 2)).mem = t.mem := fun t => by
    unfold State.endTest
    exact foldr_keeps State.mem (f := fun (x : Nat × Saved) s => s.requeue x.2 true) (fun _ _ => rfl) _ _
  split
  · rw [h3, h2, h1]
  · rw [h2, h1]

theorem kget_filter {α : Type} (m : KMap α) (p : Nat → Bool) (x : Nat) :
    kget (m.filter fun c => p c.1) x = if p x then kget m x else none := by
  induction m with
  | nil => simp [kget]
  | cons c m ih =>
    obtain ⟨k, a⟩ := c
    by_cases hx : x = k
    · subst hx
      by_cases hp : p x = true <;> simp_all [kget]
    · by_cases hp : p k = true <;> simp [kget, hp, hx, ih]

/-- Bytes that are cleared read as cleared, and the others as they were (log 2). -/
theorem readByte_filter (m : Memory) (p : Nat → Bool) (a : Nat) :
    readByte (m.filter fun c => p c.1) a = if p a then readByte m a else Config.clearedByte := by
  unfold readByte kgetD
  rw [kget_filter]
  split <;> rfl

/-- A compute die's reset, cores last (01 R20, 20 R400). -/
theorem exec_computeDieReset {die : Nat} (s : State) (h : die < 8) :
    exec (.computeDieReset die) s = .next
      ((((dieCores die).foldl State.releaseTeams s).dropDie die).clearScratch die |>.modCores (dieCores die) fun now c => c.restarted now) :=
  exec_event_due rfl (if_pos h)

theorem computeDieReset_clears {die : Nat} (s : State) (h : die < 8) :
    ∃ t, exec (.computeDieReset die) s = .next t ∧
      (∀ n, n / 80 = die → (t.core n).held = true ∧ (t.core n).r0 = Residency.empty ∧ (t.core n).r1 = Residency.empty ∧
        (t.core n).ops = [] ∧ (t.core n).farReady = false) ∧ (∀ m ∈ t.met, m.core / 80 ≠ die) ∧
      ∀ a, readByte t.mem a = if dieOf a = die ∧ kindOf a = 1 then Config.clearedByte else readByte s.mem a := by
  refine ⟨_, exec_computeDieReset s h, fun n hn => ?_, fun m hm => ?_, fun a => ?_⟩
  · rw [core_modCores _ _ (dieCores_nodup die), if_pos ((mem_dieCores die n).mpr hn)]
    exact ⟨rfl, rfl, rfl, rfl, rfl⟩
  · rw [modCores_rest] at hm
    have hout : (!(dieCores die).contains m.core) = true := (List.mem_filter.mp hm).2
    intro hd
    simp [(mem_dieCores die m.core).mpr hd] at hout
  · rw [modCores_rest]
    have hmem : ((dieCores die).foldl State.releaseTeams s).mem = s.mem := foldl_keeps State.mem mem_releaseTeams _ _
    show readByte (((dieCores die).foldl State.releaseTeams s).mem.filter fun c => !(dieOf c.1 == die && kindOf c.1 == 1)) a = _
    rw [hmem, readByte_filter s.mem fun a => !(dieOf a == die && kindOf a == 1)]
    by_cases hd : dieOf a = die <;> by_cases hk : kindOf a = 1 <;> simp [hd, hk]

/-- Taking reservations changes the control die alone (16 R338). -/
theorem reserveCores_rest (s : State) (device : Nat) (cores : List Nat) :
    (s.reserveCores device cores).mem = s.mem ∧ (s.reserveCores device cores).cores = s.cores := by
  have h : ∀ (s : State) (n : Nat), (s.reserveFreed device n).mem = s.mem ∧ (s.reserveFreed device n).cores = s.cores := fun s n => by
    unfold State.reserveFreed
    dsimp only
    split <;> exact ⟨rfl, rfl⟩
  exact ⟨foldl_keeps State.mem (fun s n => (h s n).1) _ _, foldl_keeps State.cores (fun s n => (h s n).2) _ _⟩

/-- A die that failed its bring-up, or before its stage, stays in reset (20 R401). -/
theorem computeDieRelease_notDue {die : Nat} {s : State} (h : die ∈ s.control.boot.offlineDies ∨ s.control.boot.stage < 3) :
    exec (.computeDieResetRelease die) s = .next s := by
  refine exec_event_notDue rfl (if_neg ?_)
  rintro ⟨-, hon, hstage, -⟩
  rcases h with hout | hlow
  · exact hon hout
  · omega

theorem computeDieRelease_starts {die : Nat} {s : State} (h : die < 8) (hon : die ∉ s.control.boot.offlineDies)
    (hstage : 3 ≤ s.control.boot.stage) (hheld : (s.core (80 * die)).held = true) :
    ∃ t, exec (.computeDieResetRelease die) s = .next t ∧ t.mem = s.mem ∧
      ∀ n, n / 80 = die → t.core n = { s.core n with held := false, resetAt := s.clock } := by
  obtain ⟨hmem, hcores⟩ := reserveCores_rest (s.releaseDie die) (s.dieDevice die) (dieCores die)
  refine ⟨_, exec_event_due rfl (if_pos ⟨h, hon, hstage, hheld⟩), ?_, fun n hn => ?_⟩
  · rw [hmem, releaseDie_eq, modCores_rest]
  · have hcore := core_releaseDie s die n
    rw [if_pos hn] at hcore
    rw [← hcore]
    unfold State.core
    rw [hcores]

/-! ### Base dies -/

@[simp] theorem agent_modAgent_same (s : State) (st : Nat) (f : Home → Home) : (s.modAgent st f).agent st = f (s.agent st) := by
  simp [State.agent, State.modAgent]

theorem agent_modAgent_ne (s : State) {st k : Nat} (f : Home → Home) (h : k ≠ st) : (s.modAgent st f).agent k = s.agent k := by
  simp [State.agent, State.modAgent, kgetD_kset_ne _ _ _ h]

/-- A home agent's reset, which its stack's contents survive (17 R364, 20 R400). -/
theorem restartHome_held (s : State) (st : Nat) : (s.restartHome st true).mem = s.mem ∧
    (s.restartHome st true).agent st = { Home.reset with
      down := true, lastFar := (s.agent st).lastFar, farReady := false, linkSeq := (s.agent st).linkSeq } ∧
    ∀ y ∈ (s.restartHome st true).fabric.sent, tagAgent y.1 = 672 + st → tagSlot y.1 = linkSlot := by
  refine ⟨?_, agent_modAgent_same _ st _, fun y hy hst => ?_⟩
  · exact foldl_keeps State.mem (f := fun (s : State) (r : Region) => s.post .regionLost (stackSource st) r.owner [r.base, r.size])
      (fun _ _ => rfl) (s.agent st).regions s
  · by_contra hslot
    have hkept := (List.mem_filter.mp hy).2
    simp [hst, hslot] at hkept

/-! ### Boot stages -/

/-- The image of a slot, where the boot ROM accepts it (20 R402). -/
def Boot.candidate (b : Boot) (k : Nat) : Option (Nat × List Byte) :=
  (kget b.images k).bind fun bs => if (imageFault b.minimum bs).isNone then some (k, bs) else none

theorem accept_eq (b : Boot) : b.accept = (b.candidate 0).or (b.candidate 1) := by
  show ([0, 1].findSome? b.candidate) = _
  simp only [List.findSome?_cons, List.findSome?_nil]
  cases b.candidate 0 <;> cases b.candidate 1 <;> rfl

theorem candidate_of {b : Boot} {k : Nat} {bs : List Byte} (hk : kget b.images k = some bs) (hf : imageFault b.minimum bs = none) :
    b.candidate k = some (k, bs) := by
  simp [Boot.candidate, hk, hf]

theorem candidate_none {b : Boot} {k : Nat} (h : ∀ bs, kget b.images k = some bs → imageFault b.minimum bs ≠ none) :
    b.candidate k = none := by
  rw [Boot.candidate, Option.bind_eq_none_iff]
  intro bs hbs
  exact if_neg (by simpa using h bs hbs)

theorem load_of_accept {b : Boot} {k : Nat} {bs : List Byte} (hr : b.recov = false) (h : b.accept = some (k, bs)) :
    b.load = { b with stage := 1, slot := k, svn := BitVec.ofNat 16 (leAt bs 4 2), running := bs } := by
  unfold Boot.load
  rw [h, ← hr]
  rfl

/-- STAGE 0: the image of slot 0, else that of slot 1, else recovery (20 R402). -/
theorem bootStage0 {xs ys : List Nat} {s : State} (hr : s.control.boot.recov = false) (h0 : s.control.boot.stage = 0) :
    let b := s.control.boot
    let fails := fun (k : Nat) => ∀ bs, kget b.images k = some bs → imageFault b.minimum bs ≠ none
    let boots := fun (c : Boot) => ∃ t, exec (.bootStageAdvance xs ys) s = .next t ∧ t.control.boot = c
    let runs := fun (k : Nat) => ∀ bs, kget b.images k = some bs → imageFault b.minimum bs = none → boots
      { b with stage := 1, slot := k, svn := BitVec.ofNat 16 (leAt bs 4 2), running := bs }
    runs 0 ∧ (fails 0 → runs 1) ∧ (fails 0 → fails 1 → boots { b with recov := true }) := by
  intro b fails boots runs
  have hboots : ∀ c, b.load = c → boots c := fun c hc =>
    ⟨_, exec_event_due rfl ((if_neg (by rw [hr]; exact Bool.false_ne_true)).trans (if_pos h0)), hc⟩
  refine ⟨fun bs hk hf => hboots _ (load_of_accept hr ?_), fun h bs hk hf => hboots _ (load_of_accept hr ?_),
    fun h h' => hboots _ ?_⟩
  · rw [accept_eq, candidate_of hk hf, Option.some_or]
  · rw [accept_eq, candidate_none h, candidate_of hk hf, Option.none_or]
  · unfold Boot.load
    rw [accept_eq, candidate_none h, candidate_none h', Option.none_or]

/-- A change of some home agents, each by its number and what it was. -/
def State.modAgents (s : State) (ks : List Nat) (g : Nat → Home → Home) : State := ks.foldl (fun s k => s.modAgent k (g k)) s

@[simp] theorem control_modAgents (s : State) (ks : List Nat) (g : Nat → Home → Home) : (s.modAgents ks g).control = s.control :=
  foldl_keeps State.control (f := fun (s : State) k => s.modAgent k (g k)) (fun _ _ => rfl) ks s

theorem agent_modAgents (s : State) {ks : List Nat} (g : Nat → Home → Home) (h : ks.Nodup) (m : Nat) :
    (s.modAgents ks g).agent m = if m ∈ ks then g m (s.agent m) else s.agent m := by
  unfold State.modAgents
  induction ks generalizing s with
  | nil => simp
  | cons k ks ih =>
    obtain ⟨hk, hks⟩ := List.nodup_cons.mp h
    rw [List.foldl_cons, ih _ hks]
    by_cases hm : m = k
    · subst hm; simp [hk]
    · simp [agent_modAgent_ne s _ hm, hm]

/-- STAGE 2: the base dies but those that failed (20 R401). -/
theorem bootStage1 {xs ys : List Nat} {s : State} (hr : s.control.boot.recov = false) (h1 : s.control.boot.stage = 1) :
    ∃ t, exec (.bootStageAdvance xs ys) s = .next t ∧ t.control.boot.stage = 2 ∧
      ∀ k, k < 16 → (k ∈ t.control.boot.offlineStacks ↔ k ∈ xs) ∧ ((t.agent k).down = true ↔ k ∈ xs) := by
  let out := (List.range 16).filter fun k => xs.contains k
  let s1 := s.setBoot { s.control.boot with stage := 2, offlineStacks := out }
  have hout : ∀ k, k < 16 → (k ∈ out ↔ k ∈ xs) := fun k hk => by simp [out, hk]
  refine ⟨s1.modAgents (List.range 16) fun k h => { h with down := out.contains k }, ?_, by rw [control_modAgents]; rfl,
    fun k hk => ⟨by rw [control_modAgents]; exact hout k hk, ?_⟩⟩
  · exact exec_event_due rfl ((if_neg (by rw [hr]; exact Bool.false_ne_true)).trans ((if_neg (by omega)).trans (if_pos h1)))
  · rw [agent_modAgents s1 _ List.nodup_range k, if_pos (List.mem_range.mpr hk)]
    exact List.contains_iff_mem.trans (hout k hk)

theorem core_releaseDies (s : State) {ds : List Nat} (h : ds.Nodup) (n : Nat) :
    (ds.foldl State.releaseDie s).core n =
      if n / 80 ∈ ds then { s.core n with held := false, resetAt := s.clock } else s.core n := by
  induction ds generalizing s with
  | nil => simp
  | cons d ds ih =>
    obtain ⟨hd, hds⟩ := List.nodup_cons.mp h
    have hclock : (s.releaseDie d).clock = s.clock := by rw [releaseDie_eq, modCores_rest]
    rw [List.foldl_cons, ih _ hds, hclock, core_releaseDie]
    by_cases hn : n / 80 = d
    · subst hn; simp [hd]
    · simp [hn]

/-- STAGE 3: the compute dies but those that failed (20 R401). -/
theorem bootStage2 {xs ys : List Nat} {s : State} (hr : s.control.boot.recov = false) (h2 : s.control.boot.stage = 2) :
    ∃ t, exec (.bootStageAdvance xs ys) s = .next t ∧ t.control.boot.stage = 3 ∧
      ∀ k, k < 8 → (k ∈ t.control.boot.offlineDies ↔ k ∈ ys) ∧ (k ∈ ys → ∀ n, n / 80 = k → t.core n = s.core n) ∧
        (k ∉ ys → ∀ n, n / 80 = k → t.core n = { s.core n with held := false, resetAt := s.clock }) := by
  let out := (List.range 8).filter fun k => ys.contains k
  let s1 := s.setBoot { s.control.boot with stage := 3, offlineDies := out }
  let up := (List.range 8).filter fun d => !out.contains d
  have hcontrol : (up.foldl State.releaseDie s1).control = s1.control :=
    foldl_keeps State.control (fun s d => by rw [releaseDie_eq, modCores_rest]) _ _
  have hout : ∀ k, k < 8 → (k ∈ out ↔ k ∈ ys) := fun k hk => by simp [out, hk]
  have hup : ∀ k, k < 8 → (k ∈ up ↔ k ∉ ys) := fun k hk => by simp [up, hk, hout k hk]
  have hcore := core_releaseDies s1 (ds := up) (List.nodup_range.filter _)
  refine ⟨up.foldl State.releaseDie s1, exec_event_due rfl ?_, by rw [hcontrol]; rfl,
    fun k hk => ⟨by rw [hcontrol]; exact hout k hk, fun hy n hn => ?_, fun hy n hn => ?_⟩⟩
  · exact (if_neg (by rw [hr]; exact Bool.false_ne_true)).trans
      ((if_neg (by omega)).trans ((if_neg (by omega)).trans (if_pos h2)))
  · rw [hcore n, hn, if_neg ((hup k hk).not.mpr (not_not.mpr hy))]
    rfl
  · rw [hcore n, hn, if_pos ((hup k hk).mpr hy)]
    rfl

/-- STAGE 4: a higher SVN raises the fused minimum (20 R402). -/
theorem bootStage3 {xs ys : List Nat} {s : State} (hr : s.control.boot.recov = false) (h3 : s.control.boot.stage = 3) :
    let b := s.control.boot
    ∃ t, exec (.bootStageAdvance xs ys) s = .next t ∧ t.control.boot.stage = 4 ∧
      t.control.boot.minimum = if b.minimum.toNat < b.svn.toNat then b.svn else b.minimum :=
  ⟨_, exec_event_due rfl ((if_neg (by rw [hr]; exact Bool.false_ne_true)).trans
    ((if_neg (by omega)).trans ((if_neg (by omega)).trans ((if_neg (by omega)).trans (if_pos h3))))), rfl, rfl⟩

/-! ### The statement -/

/-- Settles O50: each event has the effect that the lemma about its operation gives, where it is due. -/
theorem registerEvents : Obligations.RegisterEvents := by
  refine ⟨fun n x s => ?core, fun q x y s howner => ?queue, fun q slot g fn ctx bytes s howner hslot hg hb => ?slots,
    fun f x y s => ?functions, fun cause die s => ?module, fun die s hdie => ?compute, fun st s hst => ?base,
    fun xs ys s => ⟨fun hr => exec_event_notDue rfl (if_pos hr),
      fun hr => ⟨bootStage0 hr, bootStage1 hr, bootStage2 hr, bootStage3 hr⟩⟩,
    fun watts hot s hhot => ?trip, fun watts hot s hhot => ?sample⟩
  case core =>
    exact ⟨dualWrite_takes, fun h hx => ⟨_, exec_event_next rfl (writeResidency_refused h hx), rfl⟩, swreq_takes,
      fun hq => ⟨_, exec_event_next rfl ((writeQuant_eq s n x).trans (if_pos hq)), core_modCore_same s n _⟩,
      fun hq => ⟨_, exec_event_next rfl ((writeQuant_eq s n x).trans (if_neg hq)), rfl⟩⟩
  case queue =>
    have hx : (x.setWidth 64).setWidth 32 = x := by simp
    have henable : s.writeEnable q x = s.setQueue q { s.queue q with enable := x.getLsbD 0 } := if_pos howner
    exact ⟨⟨_, exec_event_next rfl henable, queue_setQueue_same s q _⟩, arvadd_takes howner rfl,
      arvadd_takes howner (congrArg (fun z => event s (some (s.writeArvadd q z))) hx),
      fun hy => ⟨_, exec_event_next rfl (writeMirror_takes howner hy), queue_setQueue_same s q _⟩⟩
  case slots =>
    have hi := exec_queueSlotWrite howner hslot hg hb
    have hw := writeGranule_whole s q slot ctx g hb
    exact ⟨fun hnone => ⟨_, exec_event_next hi (hw.trans (if_neg (by simp [hnone]))), queue_setQueue_same s q _⟩,
      fun hsome => ⟨_, exec_event_next hi (hw.trans (if_pos hsome)), rfl⟩⟩
  case functions =>
    refine ⟨fun hx hs => ?_, fun h => ?_, fun hy => ?_, fun k hk hy hb => ?_, fun hlo hhi => ?_⟩
    · exact ⟨_, exec_event_next rfl (if_pos ⟨hx, hs⟩), fn_setFn_same s f _⟩
    · refine exec_event_next rfl (if_neg ?_)
      rintro ⟨hx, hs⟩
      rcases h with h | h
      · exact absurd (hx.symm.trans h) (by decide)
      · exact h hs
    · exact ⟨_, exec_event_next rfl (configureRing_takes hy fun h => absurd h (by decide)), fn_setFn_same s f _⟩
    · have hy' : (y.setWidth 32).toNat = 2 ^ (k + 6) := by rw [BitVec.toNat_setWidth]; exact hy
      refine ⟨_, exec_event_next rfl (configureRing_takes hb fun _ => ⟨k, hk, hy'⟩), ?_⟩
      rw [fn_setFn_same, hy']
    · exact ⟨_, exec_event_next rfl (writePlimit_takes ⟨hlo, hhi⟩), rfl, rfl⟩
  case module =>
    exact ⟨⟨s.moduleReset cause, rfl, rfl, rfl, rfl, rfl, rfl, rfl, rfl, rfl, rfl, rfl, rfl⟩,
      ⟨s.moduleReset .thermal, rfl, rfl, rfl, rfl, rfl, rfl, rfl, rfl, rfl, rfl, rfl, rfl⟩⟩
  case compute => exact ⟨fun _ => computeDieReset_clears s hdie, computeDieRelease_notDue, computeDieRelease_starts hdie⟩
  case base =>
    obtain ⟨hmem, hagent, hsent⟩ := restartHome_held s st
    exact ⟨⟨_, exec_event_due rfl (if_pos hst), hmem, hagent, hsent⟩,
      fun hdown hon hstage => ⟨_, exec_event_due rfl (if_pos ⟨hdown, hst, hon, hstage⟩), agent_modAgent_same s st _⟩⟩
  case trip => exact ⟨_, exec_event_due rfl (if_pos hhot), rfl, rfl, rfl, rfl⟩
  case sample => exact ⟨_, exec_event_due rfl (if_neg (by omega)), rfl, rfl, rfl, rfl, rfl, decide_eq_true_iff⟩

end Sys2Proof.Machine
end

section
/-! SUPPORT. What a field names and an operand reads, and what a register does with a result (03 R57 to R63, R68 to R70). -/

namespace Sys2Proof.Machine

open Sys2Proof

/-! ### What a source field names -/

/-- The parts of a source field as the numbers that 03 R58 gives (level, index). -/
theorem sourceField_parts (f : BitVec 9) :
    (f.extractLsb' 0 6).toNat = f.toNat % 64 ∧ (f.extractLsb' 6 2).toNat = f.toNat / 64 % 4 := by
  constructor <;> simp [BitVec.extractLsb'_toNat, Nat.shiftRight_eq_div_pow]

section
variable {f : BitVec 9}

theorem srcOf_main (h : f.toNat / 64 % 4 = 0) : srcOf f = some (.v (f.toNat % 64)) := by
  obtain ⟨hi, hl⟩ := sourceField_parts f
  simp only [srcOf, hi, hl, h]

theorem srcOf_operandFile (h : f.toNat / 64 % 4 = 1) :
    srcOf f = if f.toNat % 64 < 16 then some (.o (f.toNat % 64)) else none := by
  obtain ⟨hi, hl⟩ := sourceField_parts f
  simp only [srcOf, hi, hl, h]

theorem srcOf_marked (h : 2 ≤ f.toNat / 64 % 4) (hk : f.getLsbD 8 = true) : srcOf f = none := by
  obtain ⟨-, hl⟩ := sourceField_parts f
  have : f.toNat / 64 % 4 = 2 ∨ f.toNat / 64 % 4 = 3 := by omega
  rcases this with h | h <;> simp only [srcOf, hl, h, hk, if_true]

theorem srcOf_value (h : f.toNat / 64 % 4 = 2) (hk : ¬f.getLsbD 8 = true) :
    srcOf f = if f.toNat % 64 < 32 then
        some (.const (if f.toNat % 64 < 16 then ((f.toNat % 64 : Nat) : Int) else ((f.toNat % 64 : Nat) : Int) - 32))
      else if f.toNat % 64 < 50 then some (.sv (f.toNat % 64)) else none := by
  obtain ⟨hi, hl⟩ := sourceField_parts f
  simp only [srcOf, hi, hl, h, if_neg hk]
  by_cases h16 : f.toNat % 64 < 16
  · rw [if_pos h16, if_pos (by omega), if_pos h16]
  · rw [if_neg h16]; simp only [if_neg h16]

theorem srcOf_latch (h : f.toNat / 64 % 4 = 3) (hk : ¬f.getLsbD 8 = true) :
    srcOf f = if f.toNat % 64 = 0 then some .la else if f.toNat % 64 = 1 then some .lm else none := by
  obtain ⟨hi, hl⟩ := sourceField_parts f
  simp only [srcOf, hi, hl, h, if_neg hk]

end

/-- A use of a field without a source has no legal encoding (03 R58, R60). -/
theorem useEncOk_of_srcOf_none {u : Use} (h : srcOf u.field = none) : u.encOk = false := by
  unfold Use.encOk
  rw [h]

/-- An integer instruction one of whose source fields names nothing is ILL (06 R151). -/
theorem intRR_illEncoding {v : View} {s : State} {d : BitVec 7} {a b : BitVec 9} (aff : Aff → Aff → Aff)
    (f : Word → Int → Int → Int) (h : srcOf a = none ∨ srcOf b = none) : intRR v s d a b aff f = .error illEncoding := by
  have henc : ({ uses := [intUse v.mode a .a, intUse v.mode b .b], d := some (dUse d (intRegs v.mode) false) } : Form).encOk = false := by
    rcases h with h | h
    · have := useEncOk_of_srcOf_none (u := intUse v.mode a .a) h
      simp [Form.encOk, this]
    · have := useEncOk_of_srcOf_none (u := intUse v.mode b .b) h
      simp [Form.encOk, this]
  unfold intRR pipe View.check
  simp only [henc]
  rfl

/-! ### What an operand reads -/

/-- The lanes of a register in which a read finds poison: all of them for a U register (17 R362). -/
theorem poisonMask_eq (r : Reg) (w : Nat) :
    r.poisonMask w = match r.val with | .u _ => if r.poison = 0 then (0 : Mask) else fullMask w | _ => r.poison := rfl

theorem lane_ofReg (r : Reg) (w l : Nat) : ((Opnd.ofReg r w).lane l).toNat = (r.val.lane l).toNat := by
  simp only [Opnd.ofReg, BitVec.toNat_setWidth]
  have := (r.val.lane l).isLt
  omega

/-- A pair holds its even register in the low half (03 R57). -/
theorem lane_pair (p q : Reg) (w l : Nat) :
    ((Opnd.pair (Opnd.ofReg p w) (Opnd.ofReg q w)).lane l).toNat = (p.val.lane l).toNat + (q.val.lane l).toNat * 2 ^ 32 := by
  have hp := (p.val.lane l).isLt
  have hq := (q.val.lane l).isLt
  simp only [Opnd.pair, BitVec.toNat_append, BitVec.toNat_setWidth, lane_ofReg]
  rw [Nat.mod_eq_of_lt hp, Nat.mod_eq_of_lt hq, ← Nat.shiftLeft_add_eq_or_of_lt hp, Nat.shiftLeft_eq, Nat.add_comm]

theorem shape_pair_uniform (x z : Opnd) : (Opnd.pair x z).shape = .u ↔ x.shape = .u ∧ z.shape = .u := by
  simp only [Opnd.pair]
  by_cases h : x.shape = .u ∧ z.shape = .u
  · rw [if_pos h]; exact iff_of_true rfl h
  · rw [if_neg h]
    by_cases hg : x.shape = .g ∨ z.shape = .g <;> simp [h, hg]

section
variable {v : View} {u : Use} {flt : Option Fmt}

theorem read_one_main {i : Nat} (h : v.srcOf u = .v i) (hn : u.n = 1) :
    v.read u flt = Opnd.ofReg (v.reg (.v i)) v.width := by
  simp [View.read, h, hn]

theorem read_pair_main {i : Nat} (h : v.srcOf u = .v i) (hn : u.n = 2) :
    v.read u flt = Opnd.pair (Opnd.ofReg (v.reg (.v i)) v.width) (Opnd.ofReg (v.reg (.v (i + 1))) v.width) := by
  simp [View.read, h, hn]

theorem read_one_operandFile {i : Nat} (h : v.srcOf u = .o i) (hn : u.n = 1) :
    v.read u flt = Opnd.ofReg (v.reg (.o i)) v.width := by
  simp [View.read, h, hn]

theorem read_pair_operandFile {i : Nat} (h : v.srcOf u = .o i) (hn : u.n = 2) :
    v.read u flt = Opnd.pair (Opnd.ofReg (v.reg (.o i)) v.width) (Opnd.ofReg (v.reg (.o (i + 1))) v.width) := by
  simp [View.read, h, hn]

theorem read_systemValue {i : Nat} (h : v.srcOf u = .sv i) (hi : i ≠ 32) :
    v.read u flt = Opnd.uni (BitVec.ofNat 64 (v.sysVal i % 2 ^ 32)) := by
  simp [View.read, h, hi]

/-- An inline constant under an integer TYPE is its bits modulo the operand's width (03 R59). -/
theorem lane_read_const {c : Int} (h : v.srcOf u = .const c) (hn : u.n = 1 ∨ u.n = 2) (l : Nat) :
    ((v.read u none).lane l).toNat = (c % 2 ^ (32 * u.n)).toNat := by
  rcases hn with hn | hn
  · simp only [View.read, h, hn, Opnd.uni]
    rw [if_neg (by omega), BitVec.toNat_setWidth, BitVec.toNat_ofInt]
    omega
  · simp only [View.read, h, hn, Opnd.uni, if_true, BitVec.toNat_ofInt]
    rfl

end

/-- The system values by their numbers (03 R60). -/
theorem sysVal_table (v : View) : ∀ q ∈ [(33, v.fib.num), (34, v.team.num), (35, v.team.num % v.team.hdr.tx),
      (36, v.team.num / v.team.hdr.tx % v.team.hdr.ty), (37, v.team.num / (v.team.hdr.tx * v.team.hdr.ty)), (38, v.team.hdr.width),
      (40, v.who.core / 80), (41, v.who.ply), (42, v.fib.spec.ctr.ld), (43, v.fib.spec.ctr.st), (44, v.fib.spec.ctr.far),
      (45, v.fib.spec.ctr.eng), (46, v.fib.spec.ctr.bank), (47, v.fib.spec.ctr.sel), (48, v.team.hdr.param.toNat),
      (49, v.team.hdr.param.toNat / 2 ^ 32 % 2 ^ 24)],
    q.1 ≠ 32 ∧ v.sysVal q.1 % 2 ^ 32 = q.2 % 2 ^ 32 := by
  simp [View.sysVal]

/-- The low 32 bits of a lane of a latch (03 R63). -/
theorem setWidth_low (x : DWord) : (x.setWidth 32 : Word).setWidth 64 = BitVec.ofNat 64 (x.toNat % 2 ^ 32) := by
  apply BitVec.eq_of_toNat_eq
  rw [BitVec.toNat_setWidth, BitVec.toNat_setWidth, BitVec.toNat_ofNat]

/-- The integer that a finite value is, where its exponent is not positive: sign, magnitude, scale. -/
def FVal.isInt (x : FVal) (c : Int) : Bool :=
  match x with
  | .fin n m e => n == decide (c < 0) && decide (e ≤ 0) && m == c.natAbs * 2 ^ (-e).toNat
  | _ => false

theorem FVal.rat_of_isInt {x : FVal} {c : Int} (h : x.isInt c = true) :
    x.isFin = true ∧ x.rat = c ∧ x.neg = decide (c < 0) := by
  rcases x with _ | _ | ⟨n, m, e⟩
  · cases h
  · cases h
  · simp only [FVal.isInt, Bool.and_eq_true, beq_iff_eq, decide_eq_true_eq] at h
    obtain ⟨⟨hn, he⟩, hm⟩ := h
    refine ⟨rfl, ?_, hn⟩
    obtain ⟨k, rfl⟩ : ∃ k : Nat, e = -(k : Int) := ⟨(-e).toNat, by omega⟩
    have hk : (-(-(k : Int))).toNat = k := by omega
    have habs : ((c.natAbs : Nat) : ℚ) = |(c : ℚ)| := by rw [Nat.cast_natAbs, Int.cast_abs]
    have hmag : (m : ℚ) * 2 ^ (-(k : Int)) = |(c : ℚ)| := by
      rw [hm, hk, zpow_neg, zpow_natCast, Nat.cast_mul, habs, Nat.cast_pow, Nat.cast_ofNat]
      field_simp
    simp only [FVal.rat, hmag, hn, decide_eq_true_eq]
    split
    · next hc => rw [abs_of_neg (by exact_mod_cast hc)]; ring
    · next hc => rw [abs_of_nonneg (by exact_mod_cast not_lt.mp hc)]; ring

/-- Each inline constant is a value of each float format (03 R59). -/
theorem encodeF_const (f : Fmt) {c : Int} (hlo : -16 ≤ c) (hhi : c ≤ 15) :
    (decodeF f (encodeF f (intF c))).isInt c = true ∧ (encodeF f (intF c)).toNat < 2 ^ f.width := by
  have key : ∀ k : Fin 32, (decodeF f (encodeF f (intF ((k : Nat) - 16)))).isInt ((k : Nat) - 16) = true ∧
      (encodeF f (intF ((k : Nat) - 16))).toNat < 2 ^ f.width := by
    cases f <;> decide +kernel
  have := key ⟨(c + 16).toNat, by omega⟩
  have hc : (((c + 16).toNat : Nat) : Int) - 16 = c := by omega
  simpa only [hc] using this

/-! ### What a register does with a result -/

section
variable {old : Reg} {w : Nat} {act lanes : Mask} {x : Value}

/-- An A register may take base and stride where no lane outside the mask would change (03 R70). -/
theorem affineFits_iff {b st : Word} (h : old.val = .a b st) : affineFits w act lanes old x = true ↔
    old.live = false ∨ ∀ l, l < w → lanes.getLsbD l = true → act.getLsbD l = false → x.lane l = b + BitVec.ofNat 32 l * st := by
  simp only [affineFits, Bool.or_eq_true, Bool.not_eq_true', List.all_eq_true, beq_iff_eq, h, RegVal.lane, lanesOf,
    List.mem_filter, List.mem_range, BitVec.getLsbD_and, BitVec.getLsbD_not, Bool.and_eq_true, decide_eq_true_eq]
  refine or_congr_right ⟨fun hall l hl hin hout => (hall l ⟨hl, hin, ?_, hout⟩).symm,
    fun hall l ⟨hl, hin, _, hout⟩ => (hall l hl hin hout).symm⟩
  by_contra hge
  rw [BitVec.getLsbD_of_ge _ _ (by omega)] at hin
  cases hin

theorem take_affine {b st : Word} (h : old.val = .a b st) (hx : x.shape ≠ .g) : old.take w act lanes x =
    if act = 0 then .keeps
    else if affineFits w act lanes old x then
      .writes { live := true, val := .a x.base x.stride, poison := old.poison &&& ~~~act }
    else .shape := by
  unfold Reg.take
  rw [h]
  cases hs : x.shape
  · rfl
  · rfl
  · exact absurd hs hx

theorem take_general {xs : List Word} (h : old.val = .g xs) : old.take w act lanes x =
    if act = 0 then .keeps else .writes (old.writeLanes w act x.lane 0) := by
  unfold Reg.take
  rw [h]

theorem lane_writeLanes {xs : List Word} (h : old.val = .g xs) {l : Nat} (hl : l < w) (f : Nat → Word) (p : Mask) :
    (old.writeLanes w act f p).val.lane l = if act.getLsbD l then f l else xs.getD l 0 := by
  simp [Reg.writeLanes, RegVal.setLanes, RegVal.lane, h, List.getD_eq_getElem?_getD, hl]

end

/-! ### The statement -/

/-- Settles O6: each level by the lemma about its fields, each read by the lemma about its kind of source, each tag by what `take` does. -/
theorem tagRules : Obligations.TagRules := by
  refine ⟨fun f => ⟨srcOf_main, srcOf_operandFile, srcOf_marked, srcOf_value, srcOf_latch, fun h s v y d b hv => ?fields⟩,
    fun v u flt hn => ?reads, fun old w act lanes x c hold => ?uniform, fun old w act lanes x b st hold => ?affine,
    fun old w act lanes x xs hold => ?general⟩
  case fields =>
    have hstop : ∀ a c : BitVec 9, srcOf a = none ∨ srcOf c = none →
        exec (.iadd y d a c) s = .next (s.takeTrap v (Trap.plain .ill 0)) := fun a c hac =>
      show execIadd y d a c s = .next (s.onStop v y illEncoding) from issue_stop hv (intRR_illEncoding _ _ hac)
    exact ⟨hstop f b (.inl h), hstop b f (.inr h)⟩
  case reads =>
    intro x h all low bad pair one word o m latch
    have hone : ∀ r : Reg, one (Opnd.ofReg r v.width) r := fun r => ⟨lane_ofReg r _, poisonMask_eq r _, rfl⟩
    have hpair : ∀ r q : Reg, pair (Opnd.pair (Opnd.ofReg r v.width) (Opnd.ofReg q v.width)) r q := fun r q =>
      ⟨lane_pair r q _, rfl, shape_pair_uniform _ _⟩
    have hword : ∀ i, i ≠ 32 → v.srcOf u = .sv i → word (v.sysVal i % 2 ^ 32) := fun i hi hs => by
      simp only [word, show x = _ from read_systemValue hs hi]
      exact ⟨rfl, rfl, fun _ => rfl⟩
    have hlatch : ∀ (xs : List DWord) (p : Mask), x = Opnd.latch xs p (u.n == 2) → latch xs p := fun xs p hx => by
      simp only [latch, hx]
      refine ⟨rfl, rfl, fun l => ?_⟩
      by_cases h2 : u.n = 2
      · simp [Opnd.latch, h2]
      · simp only [Opnd.latch, beq_iff_eq, if_neg h2]
        exact setWidth_low _
    refine ⟨fun i hi => ⟨fun h1 => ?_, fun h2 => ?_⟩, fun i hi => ⟨fun h1 => ?_, fun h2 => ?_⟩, fun d i hi => ?_, fun d i hi => ?_,
      fun c hlo hhi hc => ?_, fun hs => ?_, ?_, fun hs hdet => ?_, fun hs => ?_, fun hs => ?_⟩
    · rw [show x = _ from read_one_main hi h1]; exact hone _
    · rw [show x = _ from read_pair_main hi h2]; exact hpair _ _
    · rw [show x = _ from read_one_operandFile hi h1]; exact hone _
    · rw [show x = _ from read_pair_operandFile hi h2]; exact hpair _ _
    · simp only [View.readD, hi]
      exact ⟨hone _, hpair _ _⟩
    · simp only [View.readD, hi]
      exact ⟨hone _, hpair _ _⟩
    · refine ⟨?_, ?_, ?_, ?_⟩
      · simp only [x, View.read, hc]; cases flt <;> rfl
      · simp only [x, View.read, hc]; cases flt <;> rfl
      · rintro rfl; exact lane_read_const hc hn
      · rintro f rfl l
        obtain ⟨hint, hw⟩ := encodeF_const f hlo hhi
        obtain ⟨hfin, hrat, hneg⟩ := FVal.rat_of_isInt hint
        simp only [x, View.read, hc, Opnd.uni]
        exact ⟨hfin, hrat, hneg, hw⟩
    · simp only [x, View.read, hs, if_true]
      refine ⟨trivial, trivial, trivial, trivial, fun l hl => ?_⟩
      rw [BitVec.toNat_ofNat]; omega
    · intro c p q hq hs
      obtain ⟨hne, hval⟩ := sysVal_table v q hq
      exact hval ▸ hword q.1 hne hs
    · have hcore := hword 39 (by decide) hs
      simp only [View.sysVal, hdet] at hcore
      rwa [Nat.mod_eq_of_lt (by omega)] at hcore
    · exact hlatch _ _ (by simp only [x, View.read, hs])
    · exact hlatch _ _ (by simp only [x, View.read, hs])
  case uniform =>
    refine ⟨fun hx => ?_, fun hx hg h0 => ?_, fun hx => ?_⟩
    · rcases hx with hx | ⟨hx, hs⟩
      · simp only [Reg.take, hold, hx]
      · simp only [Reg.take, hold, hx, if_neg hs]
    · simp only [Reg.take, hold, hx, hg, h0, beq_self_eq_true, Bool.and_self, if_true]
    · rcases hx with ⟨hx, hg⟩ | ⟨hx, hs⟩
      · simp only [Reg.take, hold, hx]
        refine if_neg ?_
        simpa [imp_iff_not_or] using hg
      · simp only [Reg.take, hold, hx, if_pos hs]
  case affine =>
    refine ⟨fun hg => ?_, fun hx h0 => ?_, fun hx h0 hfit => ?_, fun hx h0 hlive hout => ?_⟩
    · simp only [Reg.take, hold, hg]
    · rw [take_affine hold hx, if_pos h0]
    · rw [take_affine hold hx, if_neg h0, if_pos ((affineFits_iff hold).mpr hfit)]
    · rw [take_affine hold hx, if_neg h0, if_neg]
      rw [affineFits_iff hold]
      rintro (hdead | hall)
      · rw [hlive] at hdead; cases hdead
      · obtain ⟨l, hl, -, hin, hact, hne⟩ := hout
        exact hne (hall l hl hin hact)
  case general =>
    rw [take_general hold]
    refine ⟨fun h0 => if_pos h0, fun h0 => ⟨_, if_neg h0, rfl, by simp [Reg.writeLanes], rfl, fun l hl => lane_writeLanes hold hl _ _⟩⟩

end Sys2Proof.Machine
end

section
/-! SUPPORT. Branches, calls and returns: what each does to its fibre where its target is legal, and the trap where it is not
(03 R76; 08 R194 to R197). -/

namespace Sys2Proof.Machine

open Sys2Proof

/-! ### Targets -/

theorem targetOk_iff (x : Addr) : targetOk x = true ↔ Target x := by
  have hx := x.isLt
  have hlow : (x.extractLsb' 0 2 == 0) = true ↔ x.toNat % 4 = 0 := by
    rw [beq_iff_eq, ← BitVec.toNat_inj, BitVec.extractLsb'_toNat]; simp
  have hhigh : (x.extractLsb' 56 8 == 0) = true ↔ x.toNat < 2 ^ 56 := by
    rw [beq_iff_eq, ← BitVec.toNat_inj, BitVec.extractLsb'_toNat, Nat.shiftRight_eq_div_pow]
    simp; omega
  have htop : Config.windowTop = 0x200000 := rfl
  simp only [targetOk, Target, Bool.and_eq_true, hlow, hhigh, decide_eq_true_eq, htop]
  exact ⟨fun ⟨⟨h1, h2⟩, h3⟩ => ⟨h1, h3, h2⟩, fun ⟨h1, h3, h2⟩ => ⟨⟨h1, h2⟩, h3⟩⟩

theorem needTarget_of {x : Addr} (h : Target x) : needTarget x = .ok () := if_pos ((targetOk_iff x).mpr h)

theorem needTarget_refuses {x : Addr} (h : ¬Target x) : needTarget x = .error illTarget := if_neg fun hok => h ((targetOk_iff x).mp hok)

/-! ### Instructions that change their ply alone -/

/-- A change of a fibre that neither reads nor writes its main and operand files. -/
def KeepsFiles (g : Fibre → Fibre) : Prop :=
  ∀ (f : Fibre) (xs ys : List Reg), g { f with regs := { f.regs with v := xs, o := ys } } =
    { g f with regs := { (g f).regs with v := xs, o := ys } }

theorem keepsFiles_setPly (p : Nat) (q : Ply → Ply) : KeepsFiles fun f => f.setPly p (q (f.ply p)) := by
  intro f xs ys
  unfold Fibre.setPly Fibre.ply
  split <;> rfl

theorem keepsFiles_count {g : Fibre → Fibre} (hg : KeepsFiles g) (p : Nat) : KeepsFiles fun f => (g f).count p := fun f xs ys => by
  simp only [hg f xs ys]
  rfl

/-- What last uses alone change. -/
theorem lastUses_changes {s : State} {v : View} (h : s.view = some v) (fm : Form) : v.Changes s (s.lastUses v fm) fm v.fib := by
  obtain ⟨-, -, hf, -⟩ := view_spec h
  obtain ⟨honly, hfib, hregs⟩ := lastUses_writes hf fm
  refine ⟨honly, fun id hid => ?_, hfib _ hf⟩
  rw [hregs id hid, getReg_view h hid]
  rfl

/-- A further change of the fibre outside its files. -/
theorem changes_onFibre {s t : State} {v : View} {fm : Form} {f : Fibre} (h : v.Changes s t fm f) {g : Fibre → Fibre}
    (hg : KeepsFiles g) : v.Changes s (t.onFibre v g) fm (g f) := by
  obtain ⟨honly, hregs, f', hf', hsame⟩ := h
  have hgf : g f' = { g f with regs := { (g f).regs with v := f'.regs.v, o := f'.regs.o } } := by
    rw [hsame]; exact hg f _ _
  have honto : t.onFibre v g = t.putFibre v (g f') := onFibre_of _ v g hf'
  rw [honto]
  refine ⟨onlyFibre_trans honly (onlyFibre_setFibre v _ _), fun id hid => ?_, g f', fibre_setFibre_same _ _ _ _ _, ?_⟩
  · rw [getReg_setFibre_files hf' _ (by rw [hgf]) (by rw [hgf]), hregs id hid]
  · rw [hgf]

/-- The fibre of a ply that goes to an address with a LINK. -/
def View.goneTo (v : View) (pc link : Addr) : Fibre :=
  (v.fib.setPly v.who.ply { v.ply with pc := pc, link := link, stall := none }).count v.who.ply

theorem retireTo_changes {s t : State} {v : View} (h : s.view = some v) {fm : Form} (ht : v.Changes s t fm v.fib) (pc : Addr) :
    v.Changes s (t.retireTo v pc) fm (v.goneTo pc v.ply.link) := by
  obtain ⟨-, -, -, hply, -⟩ := view_spec h
  have hc := changes_onFibre ht (keepsFiles_count (keepsFiles_setPly v.who.ply fun p => { p with pc := pc, stall := none }) v.who.ply)
  rw [← hply] at hc
  exact hc

/-- The address after the word of the issuing ply, as LINK holds it (03 R76). -/
def View.back (v : View) : Addr := BitVec.ofNat 64 ((v.ply.pc + 4).toNat % 2 ^ 56)

theorem setLink_eq (s : State) (v : View) : s.setLink v = s.onPly v fun p => { p with link := v.back } := by
  have hback : v.back = ((v.ply.pc + 4).setWidth 56).setWidth 64 := by
    apply BitVec.eq_of_toNat_eq
    rw [View.back, BitVec.toNat_ofNat, BitVec.toNat_setWidth, BitVec.toNat_setWidth]
  rw [hback]
  rfl

theorem setPly_twice (f : Fibre) (p : Nat) (x y : Ply) : (f.setPly p x).setPly p y = f.setPly p y := by
  unfold Fibre.setPly
  split <;> rfl

theorem call_changes {s t : State} {v : View} (h : s.view = some v) {fm : Form} (ht : v.Changes s t fm v.fib) (pc : Addr) :
    v.Changes s ((t.setLink v).retireTo v pc) fm (v.goneTo pc v.back) := by
  obtain ⟨-, -, -, hply, -⟩ := view_spec h
  have hlink := changes_onFibre ht (keepsFiles_setPly v.who.ply fun p => { p with link := v.back })
  have hc := changes_onFibre hlink
    (keepsFiles_count (keepsFiles_setPly v.who.ply fun p => { p with pc := pc, stall := none }) v.who.ply)
  rw [setPly_twice, ply_setPly_same, ← hply] at hc
  rw [setLink_eq]
  exact hc

/-! ### Which lanes take a branch -/

/-- Whether a lane of EXEC takes a branch on a predicate or its complement (08 R195). -/
def View.laneTakes (v : View) (p : BitVec 3) (n : BitVec 1) (l : Nat) : Bool :=
  v.ply.exec.getLsbD l && ((v.fib.regs.preds.getD p.toNat 0).getLsbD l == (n == 0))

theorem getLsbD_takers (v : View) (p : BitVec 3) (n : BitVec 1) {l : Nat} (hl : l < 64) :
    (v.takers p n).getLsbD l = v.laneTakes p n l := by
  have hn : n = 0 ∨ n = 1 := by have := n.isLt; bv_omega
  simp only [View.takers, View.laneTakes, BitVec.getLsbD_and]
  congr 1
  rcases hn with rfl | rfl
  · simp
  · simp [hl]

theorem takers_ne_zero_iff (v : View) (p : BitVec 3) (n : BitVec 1) :
    v.takers p n ≠ 0 ↔ (List.range 64).any (v.laneTakes p n) = true := by
  rw [List.any_eq_true]
  refine ⟨fun hne => ?_, fun ⟨l, hl, ht⟩ hz => ?_⟩
  · by_contra hno
    refine hne (BitVec.eq_of_getLsbD_eq fun l hl => ?_)
    rw [getLsbD_takers v p n hl]
    simpa using fun ht => hno ⟨l, List.mem_range.mpr hl, ht⟩
  · rw [← getLsbD_takers v p n (List.mem_range.mp hl), hz] at ht
    simp at ht

theorem takers_eq_exec_iff (v : View) (p : BitVec 3) (n : BitVec 1) :
    v.takers p n = v.ply.exec ↔ ((List.range 64).all fun l => !v.ply.exec.getLsbD l || v.laneTakes p n l) = true := by
  have hlane : ∀ l, l < 64 → ((v.takers p n).getLsbD l = v.ply.exec.getLsbD l ↔
      (!v.ply.exec.getLsbD l || v.laneTakes p n l) = true) := fun l hl => by
    rw [getLsbD_takers v p n hl, View.laneTakes]
    cases v.ply.exec.getLsbD l <;> simp
  rw [List.all_eq_true]
  refine ⟨fun heq l hl => (hlane l (List.mem_range.mp hl)).mp (by rw [heq]), fun hall => ?_⟩
  exact BitVec.eq_of_getLsbD_eq fun l hl => (hlane l hl).mpr (hall l (List.mem_range.mpr hl))

/-! ### The operand of a computed target -/

theorem targetOperand_of {v : View} {a : BitVec 9} (hr : v.Ready { uses := [v.addrUse a .a], d := none })
    (hu : (v.read (v.addrUse a .a) none).shape = .u) (ht : Target ((v.read (v.addrUse a .a) none).lane 0))
    (hc : Clean [v.read (v.addrUse a .a) none] (fullMask v.width)) :
    targetOperand v a targetOk (fullMask v.width) =
      .ok ({ uses := [v.addrUse a .a], d := none }, (v.read (v.addrUse a .a) none).lane 0) := by
  have hshape : needU (v.read (v.addrUse a .a) none) a = .ok () := if_pos (by rw [hu]; rfl)
  exact (bind_of_ok (check_of hr rfl hshape) _).trans
    ((bind_of_ok (needTarget_of ht) _).trans (bind_of_ok (needClean_of hc) _))

theorem targetOperand_refuses {v : View} {a : BitVec 9} (m : Mask) (hr : v.Ready { uses := [v.addrUse a .a], d := none })
    (hu : (v.read (v.addrUse a .a) none).shape = .u) (ht : ¬Target ((v.read (v.addrUse a .a) none).lane 0)) :
    targetOperand v a targetOk m = .error illTarget := by
  have hshape : needU (v.read (v.addrUse a .a) none) a = .ok () := if_pos (by rw [hu]; rfl)
  exact (bind_of_ok (check_of hr rfl hshape) _).trans (bind_of_error (needTarget_refuses ht) _)

/-! ### The statement -/

/-- Settles O19: a legal target is gone to as `retireTo` and `setLink` say, and one that is not raises ILL before anything else. -/
theorem branches : Obligations.Branches := by
  intro y p n o a s v h next back x takes none' goes traps
  have hnone : v.Changes s s none' v.fib := lastUses_changes h none'
  have hgo : ∀ {i : Instr} {fm : Form} {body : View → Except Stop State} {t : State} {pc link : Addr},
      exec i s = issue y s body → body v = .ok t → v.Changes s t fm (v.goneTo pc link) → goes i fm pc link :=
    fun hi hb ht => ⟨_, hi.trans (issue_ok h hb), ht⟩
  have htrap : ∀ {i : Instr} {body : View → Except Stop State}, exec i s = issue y s body → body v = .error illTarget → traps i :=
    fun hi hb => hi.trans (issue_stop h hb)
  refine ⟨fun hx => ⟨?jmp, ?call, ?bra, ?brl⟩, fun hx => ?_, fun hl => ?ret, fun hl => ?_, ?operand⟩
  case jmp => exact hgo rfl (bind_of_ok (needTarget_of hx) _) (retireTo_changes h hnone x)
  case call => exact hgo rfl (bind_of_ok (needTarget_of hx) _) (call_changes h hnone x)
  case bra =>
    refine hgo rfl (bind_of_ok (needTarget_of hx) _) ?_
    have hpc : (if v.takers p n = 0 then next else x) = if (List.range 64).any takes then x else next := by
      rw [← ite_not]
      simp only [← ne_eq, takers_ne_zero_iff]
      rfl
    exact hpc ▸ retireTo_changes h hnone _
  case brl =>
    refine hgo rfl (bind_of_ok (needTarget_of hx) _) ?_
    have hpc : (if v.ply.exec ≠ 0 ∧ v.takers p n = v.ply.exec then x else next) =
        if v.ply.exec ≠ 0 ∧ ((List.range 64).all fun l => !v.ply.exec.getLsbD l || takes l) then x else next := by
      simp only [takers_eq_exec_iff]
      rfl
    exact hpc ▸ retireTo_changes h hnone _
  case ret => exact hgo rfl (bind_of_ok (needTarget_of hl) _) (retireTo_changes h hnone _)
  case operand =>
    intro ua z fm hr hu
    have hlast : v.Changes s (s.lastUses v fm) fm v.fib := lastUses_changes h fm
    refine ⟨fun ht hc => ?_, fun ht => ?_⟩
    · have hop := targetOperand_of hr hu ht hc
      exact ⟨hgo rfl (bind_of_ok hop _) (retireTo_changes h hlast _), hgo rfl (bind_of_ok hop _) (call_changes h hlast _)⟩
    · have hop := targetOperand_refuses (fullMask v.width) hr hu ht
      exact ⟨htrap rfl (bind_of_error hop _), htrap rfl (bind_of_error hop _)⟩
  · have hb := fun f : Unit → Except Stop State => bind_of_error (needTarget_refuses hx) f
    exact ⟨htrap rfl (hb _), htrap rfl (hb _), htrap rfl (hb _), htrap rfl (hb _), htrap rfl (hb _)⟩
  · exact htrap rfl (bind_of_error (needTarget_refuses hl) _)

end Sys2Proof.Machine
end

section
/-! SUPPORT. Near atomics: the access that ATOM, CAS and a near POST leave outstanding, and a read-modify-write that is performed
(03 R63; 05 R104, R105; 09 R226 to R230). -/

namespace Sys2Proof.Machine

open Sys2Proof

/-! ### An access becomes outstanding -/

theorem keepsFiles_counts (path : Nat) : KeepsFiles fun f => f.counts path := fun _ _ _ => rfl

theorem keepsFiles_retire (p : Nat) : KeepsFiles fun f => f.retire p := keepsFiles_count (keepsFiles_setPly p Ply.advance) p

/-- A core with one more outstanding access. -/
def Core.takesOp (c : Core) (op : Op) : Core := { c with ops := kset c.ops c.nextOp op, nextOp := c.nextOp + 1 }

theorem takesOp_setRes (c : Core) (r : Nat) (x : Residency) (op : Op) : (c.setRes r x).takesOp op = (c.takesOp op).setRes r x := by
  unfold Core.setRes
  split <;> rfl

theorem fibre_takesOp (s : State) (n r sl : Nat) (op : Op) : (s.modCore n fun c => c.takesOp op).fibre n r sl = s.fibre n r sl := by
  unfold State.fibre State.res
  rw [core_modCore_same]
  rfl

theorem getReg_takesOp (s : State) (v : View) (op : Op) (id : RegId) :
    (s.modCore v.who.core fun c => c.takesOp op).getReg v id = s.getReg v id := by
  have hres : (s.modCore v.who.core fun c => c.takesOp op).res v.who.core v.who.res = s.res v.who.core v.who.res := by
    unfold State.res
    rw [core_modCore_same]
    rfl
  unfold State.getReg
  rw [fibre_takesOp, hres]

theorem nextOp_setRes (c : Core) (r : Nat) (x : Residency) : (c.setRes r x).nextOp = c.nextOp := by
  unfold Core.setRes
  split <;> rfl

/-- A core takes an access, and the fibre goes on, after the last uses of an instruction. -/
theorem issues_of_changes {s t u : State} {v : View} {fm : Form} {op : Op} (h : s.view = some v) (ht : v.OnlyFibre s t)
    (hu : v.Changes (t.modCore v.who.core fun c => c.takesOp op) u fm ((v.fib.counts op.path).retire v.who.ply)) :
    v.Issues s u fm op := by
  obtain ⟨-, -, -, -, -, hcore, -⟩ := view_spec h
  obtain ⟨honly, hleft⟩ := hu
  have hop : (s.core v.who.core).takesOp op =
      { s.core v.who.core with ops := kset v.core.ops v.core.nextOp op, nextOp := v.core.nextOp + 1 } := by rw [hcore]; rfl
  have hres : (t.modCore v.who.core fun c => c.takesOp op).res v.who.core v.who.res = t.res v.who.core v.who.res := by
    unfold State.res
    rw [core_modCore_same]
    rfl
  have htres : t.res v.who.core v.who.res = { s.res v.who.core v.who.res with
      slots := (t.res v.who.core v.who.res).slots, windows := (t.res v.who.core v.who.res).windows } := by
    conv_lhs => rw [State.res, ht.core, res_coreSetRes_same]
  refine ⟨?_, fun n hn => ?_, ?_, fun sl hs => ?_, fun k hk => ?_, hleft⟩
  · exact honly.rest.trans (congrArg (fun x : State => { x with cores := u.cores }) ht.rest)
  · rw [honly.others n hn, core_modCore_ne _ _ hn, ht.others n hn]
  · rw [honly.core, core_modCore_same, hres, ht.core, takesOp_setRes, coreSetRes_twice, hop, htres]
  · rw [honly.slots sl hs, fibre_takesOp, ht.slots sl hs]
  · rw [honly.windows k hk, hres, ht.windows k hk]

/-- An access that an instruction leaves outstanding, with its last uses and its retirement (05 R121). -/
theorem addOp_issues {s : State} {v : View} (h : s.view = some v) (fm : Form) (path : Nat) (lm : Bool) (pages : List Nat) (body : OpBody) :
    v.Issues s (((s.lastUses v fm).addOp v path lm pages body).retire v) fm (v.newOp path lm pages body) := by
  obtain ⟨-, -, -, -, -, hcore, -⟩ := view_spec h
  obtain ⟨honly, hregs, hfib⟩ := lastUses_changes h fm
  have hnext : ((s.lastUses v fm).core v.who.core).nextOp = v.core.nextOp := by rw [honly.core, nextOp_setRes, hcore]
  let s2 := (s.lastUses v fm).modCore v.who.core fun c => c.takesOp (v.newOp path lm pages body)
  have hadd : ((s.lastUses v fm).addOp v path lm pages body).retire v =
      (s2.onFibre v fun f => f.counts path).onFibre v fun f => f.retire v.who.ply := by
    unfold State.addOp
    rw [hnext]
    rfl
  have hs2 : v.Changes s2 s2 fm v.fib :=
    ⟨onlyFibre_refl v s2, fun id hid => (getReg_takesOp _ v _ id).trans (hregs id hid), by rw [fibre_takesOp]; exact hfib⟩
  rw [hadd]
  exact issues_of_changes h honly (changes_onFibre (changes_onFibre hs2 (keepsFiles_counts path)) (keepsFiles_retire v.who.ply))

/-! ### The near atomics at issue -/

/-- Places that a near access may use pass FAR and RLOCK (05 R122, 09 R219). -/
theorem nearAccess_of {s : State} {v : View} {cls : AccClass} {write : Bool} {n : Nat} {lanes : List (Nat × Nat)} {ok : LanePlace → Bool}
    {ls : List LanePlace} (hx : s.xlatLanes v cls n lanes = .ok ls) (hr : v.Reaches s write n ls) (hok : ∀ q ∈ ls, ok q = true) :
    s.nearAccess v cls write n lanes ok = .ok ls := by
  have hnear : v.needNear ls = .ok () := needNear_pass fun q hq => by
    rintro ⟨p, hp, hfar⟩
    obtain ⟨hpeer, hdie⟩ := (hr q hq).1 p hp
    exact hfar.elim (· hpeer) (· hdie)
  have hlock : s.needUnlocked v write n ls = .ok () := needLanes_pass_of (isLocked_iff s v write n) fun q hq => by
    obtain ⟨-, hspill, hfree⟩ := hr q hq
    simp [LanePlace.IsLocked, hspill, hfree]
  exact (bind_of_ok hx _).trans ((bind_of_ok hnear _).trans ((bind_of_ok (needLanes_pass hok) _).trans (bind_of_ok hlock _)))

theorem checkRecords_plain {v : View} (h : v.team.det = none) (s : State) (code : Nat) (recs : List (Nat × Nat × Nat × List Byte)) :
    s.checkRecords v code recs = s := by
  unfold State.checkRecords
  rw [h]

theorem issueWrite_plain {v : View} (h : v.team.det = none) (s : State) (lm : Bool) (n : Nat) (kind : WriteKind) (dest : Dest)
    (ls : List LanePlace) (data : Nat → List Byte) (buffer : LanePlace → Bool) :
    s.issueWrite v lm n kind dest ls data buffer = s.addOp v 1 lm (pagesOf n ls) (.write kind (laneAccs ls data) dest) := by
  have hdet : v.isDet = false := by simp [View.isDet, h]
  unfold State.issueWrite
  simp only [hdet]
  rfl

/-- What a near write leaves when its fields are ready: nothing where no lane is active; else, where its lanes pass their checks, an
outstanding access (05 R121, 09 R228 to R230). -/
def View.WritesNear (v : View) (s : State) (i : Instr) (fm : Form) (xs : List Opnd) (cls : AccClass) (n : Nat) (lanes : List (Nat × Nat))
    (ok : LanePlace → Bool) (lm : Bool) (kind : List LanePlace → WriteKind) (data : Nat → List Byte) (dest : Dest) : Prop :=
  (v.active = 0 → ∃ t, exec i s = .next t ∧ v.Changes s t fm (v.fib.retire v.who.ply)) ∧
  ∀ ls, v.active ≠ 0 → s.xlatLanes v cls n lanes = .ok ls → v.Reaches s true n ls → (∀ q ∈ ls, ok q = true) → Clean xs v.active →
    v.fib.spec.ctr.st < 65535 →
    ∃ t, exec i s = .next t ∧ v.Issues s t fm (v.newOp 1 lm (pagesOf n ls) (.write (kind ls) (accs ls data) dest))

theorem writesNear_of {s : State} {v : View} {i : Instr} {y enc : Bool} {fm : Form} {shape : Except Stop Unit} {xs : List Opnd}
    {cls : AccClass} {n : Nat} {lanes : List (Nat × Nat)} {ok : LanePlace → Bool} {lm : Bool} {kind : List LanePlace → WriteKind}
    {data : Nat → List Byte} {dest : Dest} {body : View → Except Stop State} (h : s.view = some v) (hi : exec i s = issue y s body)
    (hb : body v = do
      v.check fm enc okay shape
      if v.active = 0 then .ok ((s.lastUses v fm).retire v)
      else do
        let ls ← s.nearAccess v cls true n lanes ok
        needClean xs v.active
        v.pathRoom 1
        .ok (((s.lastUses v fm).addOp v 1 lm (pagesOf n ls) (.write (kind ls) (laneAccs ls data) dest)).retire v))
    (hr : v.Ready fm) (he : enc = true) (hs : shape = .ok ()) : v.WritesNear s i fm xs cls n lanes ok lm kind data dest := by
  subst he
  have hcheck := check_of hr rfl hs
  refine ⟨fun h0 => ⟨_, hi.trans (issue_ok h ?_), changes_onFibre (lastUses_changes h fm) (keepsFiles_retire _)⟩,
    fun ls h0 hx hreach hok hclean hroom => ⟨_, hi.trans (issue_ok h ?_), addOp_issues h fm 1 lm _ _⟩⟩
  · exact hb.trans ((bind_of_ok hcheck _).trans (if_pos h0))
  · have hpath : v.pathRoom 1 = .ok () := if_pos (decide_eq_true hroom)
    refine hb.trans ((bind_of_ok hcheck _).trans ((if_neg h0).trans ?_))
    exact (bind_of_ok (nearAccess_of hx hreach hok) _).trans ((bind_of_ok (needClean_of hclean) _).trans (bind_of_ok hpath _))

/-- Of the operations up to 9 FADD alone has an operand whose width the word fixes (09 R226). -/
theorem atomFixed_eq {code : Nat} (h : code ≤ 9) : decide (code = 9 ∨ code = 12 ∨ code = 13) = decide (code = 9) := by
  simp only [decide_eq_decide]
  omega

section
variable {v : View} {s : State} (h : s.view = some v) (hdet : v.team.det = none) (y : Bool) (d : BitVec 7) (o : BitVec 4) (z : BitVec 3)
  (a b : BitVec 9)
include h hdet

theorem atom_writesNear {w : Bool} (hw : (atomWide v.mode && !decide (o.toNat = 9)) = w) (hz : z.toNat ≤ 2) (ho : o.toNat ≤ 9) :
    let ua := v.addrUse a .a
    let n := if w then 8 else 4
    let c := v.read (atomUse b w (decide (o.toNat = 9))) (if o.toNat = 9 then some .f32 else none)
    v.Ready { uses := [ua, atomUse b w (decide (o.toNat = 9))], d := none } →
    v.WritesNear s (.atom y o z a b) { uses := [ua, atomUse b w (decide (o.toNat = 9))], d := none } [v.read ua none, c] .atomic n
      (v.activeLanes.map fun l => (l, alignTo n (v.address (v.read ua none) 0 l)))
      (fun q => decide (z.toNat ≤ 2) && decide (o.toNat ≤ 9) && q.places.all (s.scopeHolds v z.toNat)) true
      (fun _ => .rmw { code := o.toNat, wide := w, unsigned := atomUnsigned v.mode, cas := false } []) (operandBytes c w) .discard := by
  intro ua n c hr
  have hdet' : v.isDet = false := by simp [View.isDet, hdet]
  have he : (decide (z.toNat ≤ 4) && !(o.toNat == 10 || decide (14 ≤ o.toNat))) = true := by simp; omega
  refine writesNear_of (body := _) h rfl ?_ hr he rfl
  subst hw
  simp only [State.nearAccess, bind_assoc, pure_bind, atomFixed_eq ho, hdet', checkRecords_plain hdet, issueWrite_plain hdet]
  rfl

theorem cas_writesNear {w : Bool} (hw : atomWide v.mode = w) :
    let ua := v.addrUse a .a
    let n := if w then 8 else 4
    let k := if w then 2 else 1
    let c := v.readD d k
    let x := v.read (atomUse b w false) none
    let fm : Form := { uses := [ua, atomUse b w false], d := some { field := d, n := k, fixed := false, reads := true, discard := false } }
    v.Ready fm → v.arrivalOk fm d k .g = .ok () →
    v.WritesNear s (.cas y d a b) fm [v.read ua none, x, c] .atomic n
      (v.activeLanes.map fun l => (l, alignTo n (v.address (v.read ua none) 0 l))) (fun q => q.places.all fun p => decide (kindOf p.pa ≤ 1)) true
      (fun ls => .rmw { code := 7, wide := w, unsigned := false, cas := true } (ls.map fun q => (q.lane, c.lane q.lane)))
      (operandBytes x w) (v.dest d) := by
  intro ua n k c x fm hr harr
  have hdet' : v.isDet = false := by simp [View.isDet, hdet]
  refine writesNear_of (body := _) h rfl ?_ hr rfl harr
  subst hw
  simp only [State.nearAccess, bind_assoc, pure_bind, hdet', checkRecords_plain hdet, issueWrite_plain hdet]
  rfl

theorem post_writesNear {w : Bool} (hw : (atomWide v.mode && !decide (o.toNat = 9)) = w) (hz : z.toNat ≤ 2) (ho : o.toNat ≤ 9) (ho7 : o.toNat ≠ 7) :
    let ua := v.addrUse a .a
    let n := if w then 8 else 4
    let c := v.read (atomUse b w (decide (o.toNat = 9))) (if o.toNat = 9 then some .f32 else none)
    v.Ready { uses := [ua, atomUse b w (decide (o.toNat = 9))], d := none } →
    v.WritesNear s (.post y o z a b) { uses := [ua, atomUse b w (decide (o.toNat = 9))], d := none } [v.read ua none, c] .store n
      (v.activeLanes.map fun l => (l, alignTo n (v.address (v.read ua none) 0 l)))
      (fun q => postAllowed o.toNat z.toNat && q.places.all (s.postHolds v o.toNat z.toNat)) false
      (fun _ => .rmw { code := o.toNat, wide := w, unsigned := atomUnsigned v.mode, cas := false } []) (operandBytes c w) .nothing := by
  intro ua n c hr
  have hdet' : v.isDet = false := by simp [View.isDet, hdet]
  have he : (decide (z.toNat ≤ 4) && !(o.toNat == 7 || o.toNat == 10 || decide (14 ≤ o.toNat))) = true := by simp; omega
  have hfar : decide (3 ≤ z.toNat) = false := by simp; omega
  have h11 : ¬11 ≤ o.toNat := by omega
  have h12 : ¬o.toNat = 12 := by omega
  have h13 : ¬o.toNat = 13 := by omega
  refine writesNear_of (body := _) h rfl ?_ hr he rfl
  subst hw
  simp only [State.nearAccess, bind_assoc, pure_bind, postBytes, postAlign, hfar, h11, h12, h13, hdet', or_false, Bool.false_and,
    Bool.false_eq_true, if_false, checkRecords_plain hdet, issueWrite_plain hdet]
  rfl

end

/-- A near POST below code 11 is allowed at each near scope, and its places lie in the scope's set (05 R104, R105). -/
theorem nearPost_ok {s : State} {v : View} {o z : Nat} (hz : z ≤ 2) (ho : o ≤ 9) {q : LanePlace}
    (h : ∀ p ∈ q.places, s.scopeHolds v z p = true) : (postAllowed o z && q.places.all (s.postHolds v o z)) = true := by
  have hno := (nearPostScope_iff s v (o := o) hz q).not
  rw [if_neg (by omega), Bool.not_eq_false] at hno
  refine hno.mp ?_
  rintro ⟨p, hp, hout⟩
  rw [h p hp] at hout
  cases hout

/-! ### A read-modify-write is performed -/

section
variable (s : State) (n r slot : Nat)

@[simp] theorem mem_setV (h : Header) (i : Nat) (x : Reg) : (s.setV n r slot h i x).mem = s.mem := by
  unfold State.setV
  split
  · rfl
  · exact mem_modFibre ..

@[simp] theorem mem_setO (h : Header) (i : Nat) (x : Reg) : (s.setO n r slot h i x).mem = s.mem := mem_modFibre ..

@[simp] theorem mem_giveUniform (act : Mask) (d : Dest) (u : Word) (bad : Bool) : (s.giveUniform n r slot act d u bad).mem = s.mem := by
  unfold State.giveUniform
  split
  · cases d <;> simp
  · rfl

@[simp] theorem mem_resume (status : Word) : (s.resume n r slot status).mem = s.mem := by
  unfold State.resume
  split
  · split
    · dsimp only
      rw [mem_modFibre]
      split
      · rfl
      · exact mem_giveUniform ..
    · rfl
  · rfl

@[simp] theorem mem_wakeCounter : (s.wakeCounter n r slot).mem = s.mem := by
  unfold State.wakeCounter
  repeat' split
  all_goals simp

end

@[simp] theorem mem_opReturn (s : State) (n key : Nat) : (s.opReturn n key).mem = s.mem := by
  unfold State.opReturn
  split
  · rfl
  · exact (mem_wakeCounter _ _ _ _).trans (mem_modFibre ..)

@[simp] theorem length_bytesOfNat (n x : Nat) : (bytesOfNat n x).length = n := by
  induction n generalizing x with
  | zero => rfl
  | succ n ih => simp [bytesOfNat, ih]

/-- What a read-modify-write leaves in place of an old value: CAS its operand where the old value is the compared one (09 R227, R229). -/
def Rmw.result (r : Rmw) (old x cmp : DWord) : DWord := if r.cas then (if old = cmp then x else old) else r.new old x

theorem rmwAt_of {s : State} {pas : List Nat} (hp : s.poisoned pas = false) (ht : s.regionTouched pas = none) (ctx : Nat) (r : Rmw)
    (x cmp : DWord) :
    let old : DWord := BitVec.ofNat 64 (leNat (readAll s.mem pas))
    s.rmwAt ctx r pas x cmp =
      (s.store pas (bytesOfNat (if r.wide then 8 else 4) (r.result old x cmp).toNat), old, false) := by
  unfold State.rmwAt
  simp only [hp, ht, Bool.false_eq_true, if_false]
  rfl

/-- One lane's read-modify-write: memory takes the new value, and the old one starts back (05 R121, 09 R228). -/
theorem performRmw {s : State} {core key : Nat} {o : Op} {r : Rmw} {cmp : List (Nat × DWord)} {l : LaneAcc} {d : Dest} (ctx : Nat)
    (ht : s.regionTouched l.pas = none) (hp : s.poisoned l.pas = false) (hn : l.pas.length = if r.wide then 8 else 4) (hd : l.pas.Nodup) :
    let old : DWord := BitVec.ofNat 64 (leNat (readAll s.mem l.pas))
    let new := r.result old (BitVec.ofNat 64 (leNat l.data)) (kgetD cmp l.lane 0)
    let t := s.performWrite core key ctx o (.rmw r cmp) [l] d
    readAll t.mem l.pas = bytesOfNat l.pas.length new.toNat ∧ (∀ a, a ∉ l.pas → readByte t.mem a = readByte s.mem a) ∧
      (d ≠ .nothing → ∃ k o', kget (t.core core).ops k = some o' ∧ o'.body = .oldValue [(l.lane, old, false)] d r.wide ∧
        o'.slot = o.slot ∧ o'.res = o.res ∧ o'.seq = o.seq ∧ o'.lm = o.lm) := by
  intro old new t
  have hlanes : performLanes ctx (.rmw r cmp) ([l].zip ((WriteKind.rmw r cmp).tags 1)) s =
      (s.store l.pas (bytesOfNat l.pas.length new.toNat), [(l.lane, old, false)]) := by
    show ((s.rmwAt ctx r l.pas _ _).1, [(l.lane, (s.rmwAt ctx r l.pas _ _).2.1, (s.rmwAt ctx r l.pas _ _).2.2)]) = _
    rw [rmwAt_of hp ht, hn]
  have ht' : t = if d = .nothing then (s.store l.pas (bytesOfNat l.pas.length new.toNat)).opReturn core key
      else ((s.store l.pas (bytesOfNat l.pas.length new.toNat)).opReturn core key).modCore core fun c =>
        { c with ops := kset c.ops c.nextOp { o with path := noPath, body := .oldValue [(l.lane, old, false)] d r.wide, done := false }
                 nextOp := c.nextOp + 1 } := by
    show (s.performWrite core key ctx o (.rmw r cmp) [l] d) = _
    unfold State.performWrite
    rw [show [l].length = 1 from rfl, hlanes]
  have hmem : t.mem = (s.store l.pas (bytesOfNat l.pas.length new.toNat)).mem := by
    rw [ht']
    split <;> simp
  rw [hmem]
  refine ⟨readAll_store s l.pas _ hd (length_bytesOfNat _ _), fun a ha => readByte_store_ne s l.pas _ ha, fun hne => ?_⟩
  rw [ht', if_neg hne, core_modCore_same]
  exact ⟨_, _, kget_kset_same _ _ _, rfl, rfl, rfl, rfl, rfl⟩

/-! ### The statement -/

/-- The bytes of an operand (09 R228). -/
theorem operandBytes_eq (x : Opnd) (w : Bool) (l : Nat) : operandBytes x w l =
    bytesOfNat (if w then 8 else 4) ((x.lane l).toNat % 2 ^ (8 * if w then 8 else 4)) := by
  cases w <;> rfl

/-- Settles O31: each instruction leaves the write that the lemma about it names, and a write that is performed is one read-modify-write. -/
theorem atomics : Obligations.Atomics := by
  refine ⟨fun y d o z a b s v h hdet => ?issue, fun core key s o r cmp l d hop hdone hmay hbuf hbody ht hp hn hd => ?perform⟩
  case perform =>
    obtain ⟨hnew, hrest, hback⟩ := performRmw (core := core) (key := key) (o := o) (cmp := cmp) (d := d) (s.opCtx core o) ht hp hn hd
    refine ⟨_, exec_event_due rfl ?_, hnew, hrest, hback⟩
    simp only [hop, hdone, hmay, hbuf, State.performOp, hbody]
    rfl
  case issue =>
    intro wide uns ua x fixed aw ub size lanes rd data law
    have hlaw : ∀ {i : Instr} {fm : Form} {xs : List Opnd} {cls : AccClass} {w : Bool} {ok : LanePlace → Prop} {okb : LanePlace → Bool}
        {lm : Bool} {kind : List LanePlace → WriteKind} {dest : Dest},
        v.WritesNear s i fm xs cls (size w) (lanes (size w)) okb lm kind (operandBytes (rd w) w) dest → (∀ q, ok q → okb q = true) →
        law i fm xs cls w ok lm kind dest := fun {i fm xs cls w ok okb lm kind dest} ⟨hidle, hwrite⟩ hok =>
      ⟨hidle, fun ls ha hx hr hq hc hroom => by
        have hdata : data w = operandBytes (rd w) w := funext fun l => (operandBytes_eq (rd w) w l).symm
        rw [hdata]
        exact hwrite ls ha hx hr (fun q hq' => hok q (hq q hq')) hc hroom⟩
    have hwide : atomWide v.mode = wide := atomWide_eq v.mode
    have hrd : ∀ w, rd w = v.read (atomUse b w (decide (o.toNat = 9))) (if o.toNat = 9 then some .f32 else none) := fun w => by
      simp only [rd, fixed, decide_eq_true_eq]
      rfl
    have huns : uns = atomUnsigned v.mode := Bool.decide_and ..
    refine ⟨fun hr hz ho => ⟨?atom, fun ho7 => ?post⟩, fun hr harr ho9 => ?cas⟩
    case atom =>
      refine hlaw (w := aw)
        (okb := fun q => decide (z.toNat ≤ 2) && decide (o.toNat ≤ 9) && q.places.all (s.scopeHolds v z.toNat)) ?_ fun q hq => ?_
      · rw [huns, hrd]
        exact atom_writesNear h hdet y o z a b (congrArg (· && !decide (o.toNat = 9)) hwide) hz ho hr
      · simpa [hz, ho] using hq
    case post =>
      refine hlaw (w := aw) (okb := fun q => postAllowed o.toNat z.toNat && q.places.all (s.postHolds v o.toNat z.toNat)) ?_
        fun q hq => nearPost_ok hz ho hq
      rw [huns, hrd]
      exact post_writesNear h hdet y o z a b (congrArg (· && !decide (o.toNat = 9)) hwide) hz ho ho7 hr
    case cas =>
      have hrd' : rd wide = v.read (atomUse b wide false) none := by simp [hrd, ho9]
      refine hlaw (w := wide) (okb := fun q => q.places.all fun p => decide (kindOf p.pa ≤ 1)) ?_ fun q hq => ?_
      · rw [hrd']
        exact cas_writesNear h hdet y d a b hwide hr (arrivalOk_of harr)
      · simpa using hq

end Sys2Proof.Machine
end

section
/-! SUPPORT. Why `TableFormsKept` fails as it stands: its form does not ask that a dependency table holds each entry once (11 R275). -/

namespace Sys2Proof.Machine

open Sys2Proof

/-- A copy of no byte, READY. -/
def emptyCopy : EngCmd :=
  { code := 0, desc := [], statusPas := [], slot := 0, op := 0, ctx := 0, ranges := [], readyAt := 0, conds := 0, packets := [] }

/-- A dependency table that holds entry 0 twice: FREE, and behind that READY with a command. -/
def doubledDeps : KMap DepEntry := [(0, DepEntry.fresh), (0, { state := .ready, gen := 0, cmd := some emptyCopy })]

/-- A module after its reset but for that table on core 0, whose copy engine is about to accept the command. -/
def doubledEntry : State :=
  { State.reset with
    cores := [(0, { Core.reset 0 with r0 := { Residency.empty with deps := doubledDeps } })]
    agenda := [.event (.engineAccept 0 0)] }

theorem tableForm_doubledEntry : doubledEntry.TableForm := by
  unfold State.TableForm
  decide +kernel

/-- The copy engine finds the READY command, and marks RUNNING the FREE entry that stands before it. -/
theorem step_doubledEntry : ∃ t, step doubledEntry = .next t ∧
    ∃ r ∈ t.allResidencies, (0, { state := .running, gen := 0, cmd := none }) ∈ r.deps := by
  refine ⟨_, rfl, ?_⟩
  decide +kernel

/-- Refutes O60: the form does not ask that the keys of a dependency table rise, and where entry 0 stands in one twice, FREE and
then READY, ENGINE_ACCEPT finds the READY command but changes the first entry, which is then RUNNING without a command.  (With
each entry held once, as 11 R275 has it, that event changes the entry of the command that it found.) -/
theorem not_tableFormsKept : ¬ Obligations.TableFormsKept := by
  unfold Obligations.TableFormsKept
  intro h
  obtain ⟨t, hstep, r, hr, hentry⟩ := step_doubledEntry
  obtain ⟨hres, -⟩ := h doubledEntry t tableForm_doubledEntry hstep
  obtain ⟨-, hdeps⟩ := hres r hr
  obtain ⟨-, hfree⟩ := hdeps _ hentry
  exact absurd (hfree.mpr rfl) (by decide)

end Sys2Proof.Machine
end

section
/-! SUPPORT. Float exceptions at issue: MATH is raised where an enabled exception occurs in an active lane and passes elsewhere,
and the float lane operations (04 R83, R97; 07 R175, R181; 17 R358). -/

namespace Sys2Proof.Machine

open Sys2Proof

/-! ### The check for MATH -/

theorem getLsbD_maskOf (w : Nat) (p : Nat → Bool) {l : Nat} (hl : l < 64) : (maskOf w p).getLsbD l = (decide (l < w) && p l) := by
  unfold maskOf
  induction w with
  | zero => simp
  | succ w ih =>
    have hbit : (1#64 <<< w).getLsbD l = decide (l = w) := by
      rw [BitVec.getLsbD_shiftLeft]
      grind
    rw [List.range_succ, List.foldl_append, List.foldl_cons, List.foldl_nil]
    by_cases hp : p w = true
    · rw [if_pos hp, BitVec.getLsbD_or, ih, hbit]
      grind
    · rw [if_neg hp, ih]
      grind

theorem mem_lanesOf (m : Mask) (w l : Nat) : l ∈ lanesOf m w ↔ l < w ∧ m.getLsbD l = true := by simp [lanesOf]

theorem mem_activeLanes (v : View) (l : Nat) : l ∈ v.activeLanes ↔ l < v.width ∧ v.active.getLsbD l = true := mem_lanesOf ..

/-- Exceptions collected over a list. -/
theorem getLsbD_foldl_or {α : Type} {n : Nat} (f : α → BitVec n) (ls : List α) (z : BitVec n) (k : Nat) :
    (ls.foldl (fun c l => c ||| f l) z).getLsbD k = (z.getLsbD k || ls.any fun l => (f l).getLsbD k) := by
  induction ls generalizing z with
  | nil => simp
  | cons l ls ih => simp [ih, Bool.or_assoc]

/-- The lanes in which an enabled exception occurs. -/
def View.mathLanes (v : View) (g : Nat → Exc) : Mask :=
  maskOf v.width fun l => v.active.getLsbD l && (g l &&& modeEnables v.fib.spec.mode != 0)

theorem getLsbD_mathLanes (v : View) (g : Nat → Exc) {l : Nat} (hl : l < 64) :
    (v.mathLanes g).getLsbD l = decide (l ∈ v.activeLanes ∧ g l &&& modeEnables v.fib.spec.mode ≠ 0) := by
  rw [View.mathLanes, getLsbD_maskOf _ _ hl, Bool.eq_iff_iff]
  simp [mem_activeLanes, and_assoc]

theorem mem_lanesOf_mathLanes (v : View) (g : Nat → Exc) (l : Nat) :
    l ∈ lanesOf (v.mathLanes g) v.width ↔ l ∈ v.activeLanes ∧ g l &&& modeEnables v.fib.spec.mode ≠ 0 := by
  rw [mem_lanesOf]
  by_cases hl : l < 64
  · rw [getLsbD_mathLanes v g hl, decide_eq_true_iff, mem_activeLanes]
    tauto
  · simp [mem_activeLanes, BitVec.getLsbD_of_ge _ l (Nat.le_of_not_lt hl)]

theorem mathLanes_eq_zero_iff (v : View) (g : Nat → Exc) : v.mathLanes g = 0 ↔ v.Quiet g := by
  constructor
  · intro h l hl
    by_contra hg
    have := (mem_lanesOf_mathLanes v g l).mpr ⟨hl, hg⟩
    simp [h, mem_lanesOf] at this
  · intro h
    apply BitVec.eq_of_getLsbD_eq
    intro l hl
    rw [getLsbD_mathLanes v g hl]
    simpa using fun hm => h l hm

theorem math_of_quiet {v : View} {g : Nat → Exc} (h : v.Quiet g) : v.math v.active g = .ok () :=
  if_pos ((mathLanes_eq_zero_iff v g).mpr h)

/-- The trap that MATH raises: its lanes, and the enabled exceptions that occurred in them. -/
def View.mathTrap (v : View) (g : Nat → Exc) : Trap :=
  { Trap.plain .math 0 with
    code := ((lanesOf (v.mathLanes g) v.width).foldl (fun c l => c ||| (g l &&& modeEnables v.fib.spec.mode)) 0).setWidth 32
    lanes := v.mathLanes g }

theorem math_of_not_quiet {v : View} {g : Nat → Exc} (h : ¬v.Quiet g) : v.math v.active g = .error (.trap (v.mathTrap g)) :=
  if_neg fun hz => h ((mathLanes_eq_zero_iff v g).mp hz)

/-- An instruction that reaches the check for MATH and raises its trap there traps as 04 R83 says. -/
theorem trapsMath_of {v : View} {s : State} {i : Instr} {fm : Form} {xs : List Opnd} {g : Nat → Exc} {y : Bool}
    {body : View → Except Stop State} (h : s.view = some v) (hi : exec i s = issue y s body)
    (hb : v.Ready fm → Clean xs v.active → v.math v.active g = .error (.trap (v.mathTrap g)) → body v = .error (.trap (v.mathTrap g))) :
    v.TrapsMath s i fm xs g := by
  intro hr hc hq
  refine ⟨v.mathTrap g, rfl, fun l hl => getLsbD_mathLanes v g hl, fun k hk => ?_, ?_⟩
  · have hcode : (v.mathTrap g).code.getLsbD k =
        ((lanesOf (v.mathLanes g) v.width).any fun l => (g l &&& modeEnables v.fib.spec.mode).getLsbD k) := by
      simp [View.mathTrap, getLsbD_foldl_or, show k < 32 by omega]
    rw [hcode, Bool.eq_iff_iff, List.any_eq_true, decide_eq_true_iff]
    refine exists_congr fun l => ?_
    rw [mem_lanesOf_mathLanes, and_assoc]
    refine and_congr_right fun _ => and_iff_right_of_imp fun hb hz => ?_
    rw [hz] at hb
    simp at hb
  · rw [hi]
    exact issue_stop h (hb hr hc (math_of_not_quiet hq))

/-! ### The shared ends of float instructions -/

section
variable {v : View} {s : State} {i : Instr} {y : Bool} {f : Fmt} {d : BitVec 7} {a b : BitVec 9}

theorem afterRetry_trap {x : Except Stop State} {t : Trap} (h0 : v.core.shadow = 0) (hx : x = .error (.trap t)) :
    v.afterRetry s x = .error (.trap t) := by
  subst hx
  exact if_pos h0

/-- A MATH trap at the end of a float instruction whose shadow passes. -/
theorem fltFinish_math {up : State → State} {fm : Form} {wide : Bool} {xs : List Opnd} {g : Nat → FRes} {t : Trap} (h0 : v.core.shadow = 0)
    (ht : v.math v.active (fun l => (g l).2) = .error (.trap t)) : fltFinish v s up fm d wide xs g = .error (.trap t) := by
  have hs : v.shadow = .ok () := if_pos (by simp [h0])
  exact (bind_of_ok hs _).trans (afterRetry_trap h0 (bind_of_error ht _))

theorem fltUnary_trapsMath (no64 : Bool) (op : Fmt → Rnd → FVal → FRes) (h : s.view = some v) (hf : floatFmt v.mode = some f)
    (h0 : v.core.shadow = 0) (hi : exec i s = issue y s fun v => fltUnary v s d a no64 op) (h64 : no64 = true → f ≠ .f64) :
    v.TrapsMath s i { uses := [fltUse v.mode a .a], d := some (dUse d (fltRegs v.mode) false) } [v.read (fltUse v.mode a .a) (some f)]
      fun l => (op f (Rnd.ofCode (modeRnd v.mode)) (decodeF f ((v.read (fltUse v.mode a .a) (some f)).lane l))).2 := by
  refine trapsMath_of h hi fun hr hc ht => ?_
  have hst : Machine.need ((some f).isSome && !(no64 && f == .f64)) illState = .ok () := if_pos (by cases no64 <;> simp_all)
  simp only [fltUnary, hf, Option.getD_some]
  refine (bind_of_ok (check_of hr hst rfl) _).trans ((bind_of_ok (needClean_of hc) _).trans ?_)
  exact fltFinish_math h0 ht

theorem fltRR_trapsMath (reads : Bool) (op : Fmt → Rnd → FVal → FVal → FVal → FRes) {xs : List Opnd} (h : s.view = some v)
    (hf : floatFmt v.mode = some f) (h0 : v.core.shadow = 0) (hi : exec i s = issue y s fun v => fltRR v s d a b reads op)
    (hxs : xs = [v.read (fltUse v.mode a .a) (some f), v.read (fltUse v.mode b .b) (some f)] ++
      if reads then [v.readD d (fltRegs v.mode)] else []) :
    v.TrapsMath s i { uses := [fltUse v.mode a .a, fltUse v.mode b .b], d := some (dUse d (fltRegs v.mode) reads) } xs
      fun l => (op f (Rnd.ofCode (modeRnd v.mode))
        (decodeF f ((if reads then v.readD d (fltRegs v.mode) else Opnd.uni 0).lane l))
        (decodeF f ((v.read (fltUse v.mode a .a) (some f)).lane l)) (decodeF f ((v.read (fltUse v.mode b .b) (some f)).lane l))).2 := by
  refine trapsMath_of h hi fun hr hc ht => ?_
  have hclean : Clean [v.read (fltUse v.mode a .a) (some f), v.read (fltUse v.mode b .b) (some f),
      if reads then v.readD d (fltRegs v.mode) else Opnd.uni 0] v.active := by
    subst hxs
    cases reads <;> simp_all [Clean, Opnd.uni]
  simp only [fltRR, hf, Option.getD_some]
  exact (bind_of_ok (check_of hr rfl rfl) _).trans ((bind_of_ok (needClean_of hclean) _).trans (fltFinish_math h0 ht))

/-- The same for an instruction that does not read D. -/
theorem fltTwo_trapsMath (op : Fmt → Rnd → FVal → FVal → FRes) (h : s.view = some v)
    (hf : floatFmt v.mode = some f) (h0 : v.core.shadow = 0)
    (hi : exec i s = issue y s fun v => fltRR v s d a b false fun f r _ x z => op f r x z) :
    v.TrapsMath s i { uses := [fltUse v.mode a .a, fltUse v.mode b .b], d := some (dUse d (fltRegs v.mode) false) }
      [v.read (fltUse v.mode a .a) (some f), v.read (fltUse v.mode b .b) (some f)]
      fun l => (op f (Rnd.ofCode (modeRnd v.mode))
        (decodeF f ((v.read (fltUse v.mode a .a) (some f)).lane l)) (decodeF f ((v.read (fltUse v.mode b .b) (some f)).lane l))).2 :=
  fltRR_trapsMath false (fun f r _ x z => op f r x z) h hf h0 hi rfl

/-- A result that is given where no enabled exception occurs. -/
def View.mathThen (v : View) (g : Nat → Exc) (r : Result) : Except Stop Result := do
  v.math v.active g
  .ok r

/-- A MATH trap of an instruction of a pipe. -/
theorem pipe_trapsMath {fm : Form} {st shape : Except Stop Unit} {xs : List Opnd} {r : Result} {g : Nat → Exc}
    {body : View → Except Stop State} (h : s.view = some v) (hi : exec i s = issue y s body)
    (hb : body v = pipe v s fm d true st shape xs v.active (v.mathThen g r)) (hst : st = .ok ()) (hsh : shape = .ok ()) : v.TrapsMath s i fm xs g := by
  refine trapsMath_of h hi fun hr hc ht => ?_
  rw [hb, pipe, bind_of_ok (check_of hr hst hsh), bind_of_ok (needClean_of hc), View.mathThen, bind_of_error ht]
  rfl

end

theorem fltCondExc_eq (c : Nat) (x y : FVal) : fltCondExc c x y =
    if (x.snan || y.snan || (decide (2 ≤ c ∧ c ≤ 5) && (x.isNan || y.isNan))) = true then excInv else 0 := by
  simp only [fltCondExc, Bool.decide_and]

/-! ### The float lane operations -/

section
variable {v : View} {s : State} {f : Fmt} (y : Bool) (d : BitVec 7) (a : BitVec 9)

/-- The form of a lane operation on a moved value, and what it reads. -/
def View.laneForm (v : View) (d : BitVec 7) (a : BitVec 9) : Form :=
  { uses := [valUse v.mode a .a], d := some (dUse d (valRegs v.mode) false) }
def View.laneRead (v : View) (f : Fmt) (a : BitVec 9) : Opnd := v.read (valUse v.mode a .a) (some f)
/-- The exceptions of a float sum over lanes: of the first lanes up to each active one, or of them all. -/
def View.sumExc (v : View) (f : Fmt) (x : Opnd) (pre : Bool) : Exc :=
  if pre then v.activeLanes.foldl (fun e l => e ||| (prefixNode f (Rnd.ofCode (modeRnd v.mode)) (v.leaves x f) l).2) 0
  else (treeNode f (Rnd.ofCode (modeRnd v.mode)) (v.leaves x f) v.width.log2 0).2
def View.sumResult (v : View) (f : Fmt) (x : Opnd) (pre : Bool) : Result :=
  if pre then Result.shaped (valRegs v.mode == 2) .g fun l => (prefixNode f (Rnd.ofCode (modeRnd v.mode)) (v.leaves x f) l).1
  else uniResult x (valRegs v.mode == 2) (treeNode f (Rnd.ofCode (modeRnd v.mode)) (v.leaves x f) v.width.log2 0).1

theorem laneSumF_eq (hf : floatFmt v.mode = some f) (pre : Bool) :
    laneSumF v s pre d a = pipe v s (v.laneForm d a) d true okay okay [v.laneRead f a] v.active
      (v.mathThen (fun _ => v.sumExc f (v.laneRead f a) pre) (v.sumResult f (v.laneRead f a) pre)) := by
  cases pre
  · simp only [laneSumF, hf, Option.getD_some]
    rfl
  · simp only [laneSumF, hf, Option.getD_some, View.sumResult, Result.shaped, beq_iff_eq]
    rfl

theorem laneExtreme_eq (hf : floatFmt v.mode = some f) (mx : Bool) :
    laneExtreme v s mx d a = pipe v s (v.laneForm d a) d true okay okay [v.laneRead f a] v.active
      (v.mathThen (fun l => if (decodeF f ((v.laneRead f a).lane l)).snan then excInv else 0)
        (uniResult (v.laneRead f a) (valRegs v.mode == 2) (extremeF f mx (v.laneRead f a) v.activeLanes))) := by
  simp only [laneExtreme, hf]
  rfl

end

theorem halves_append (x : DWord) : x.extractLsb' 32 32 ++ x.extractLsb' 0 32 = x := by
  apply BitVec.eq_of_getLsbD_eq
  intro i hi
  rw [BitVec.getLsbD_append]
  split <;> simp [BitVec.getLsbD_extractLsb'] <;> grind

/-- A general result holds its lanes. -/
theorem shaped_general_holds (wide : Bool) (f : Nat → DWord) : (Result.shaped wide .g f).Holds f := by
  intro l
  cases wide
  · rfl
  · exact halves_append (f l)

/-- An instruction of a pipe that raises no MATH completes with its result. -/
theorem computes_of_quiet {v : View} {s : State} {i : Instr} {y : Bool} {fm : Form} {d : BitVec 7} {st shape : Except Stop Unit}
    {xs : List Opnd} {r : Result} {g : Nat → Exc} {body : View → Except Stop State} (h : s.view = some v)
    (hi : exec i s = issue y s body)
    (hb : body v = pipe v s fm d true st shape xs v.active (v.mathThen g r)) (hst : st = .ok ()) (hsh : shape = .ok ()) (hq : v.Quiet g) : v.Computes s i fm d xs v.active r := by
  intro hr hc hfit
  obtain ⟨t, ht, hd⟩ := pipe_computes h hst hsh (bind_of_ok (math_of_quiet hq) fun _ => .ok r) hr hc hfit
  exact ⟨t, by rw [hi]; exact issue_ok h (hb.trans ht), hd⟩

/-- Settles O13: each instruction is a pipe whose only check of its own is MATH. -/
theorem laneFloatSums : Obligations.LaneFloatSums := by
  unfold Obligations.LaneFloatSums
  intro y d a f s v h hf
  dsimp only
  refine ⟨fun hq => ⟨shaped_general_holds _ _, ?_⟩, fun hq => ?_, fun hq => ⟨?_, ?_⟩⟩
  · exact computes_of_quiet h rfl (laneSumF_eq d a hf true) rfl rfl hq
  · exact computes_of_quiet h rfl (laneSumF_eq d a hf false) rfl rfl hq
  · exact computes_of_quiet h rfl (laneExtreme_eq d a hf false) rfl rfl hq
  · exact computes_of_quiet h rfl (laneExtreme_eq d a hf true) rfl rfl hq

theorem fcmp_trapsMath {v : View} {s : State} {f : Fmt} (y : Bool) {c : BitVec 4} (k : BitVec 3) (a b : BitVec 9) (h : s.view = some v)
    (hf : floatFmt v.mode = some f) (hc : c.toNat ≤ 11) :
    v.TrapsMath s (.fcmp y c k a b) { uses := [fltUse v.mode a .a, fltUse v.mode b .b], d := none }
      [v.read (fltUse v.mode a .a) (some f), v.read (fltUse v.mode b .b) (some f)]
      fun l => fltCondExc c.toNat (decodeF f ((v.read (fltUse v.mode a .a) (some f)).lane l))
        (decodeF f ((v.read (fltUse v.mode b .b) (some f)).lane l)) := by
  refine trapsMath_of h rfl fun hr hx ht => ?_
  simp only [hf, Option.getD_some, hc, decide_true]
  exact (bind_of_ok (check_of hr rfl rfl) _).trans ((bind_of_ok (needClean_of hx) _).trans (bind_of_error ht _))

section
variable {v : View} {s : State} (y : Bool) (d : BitVec 7) (a : BitVec 9)

theorem cvt_trapsMath {t : BitVec 4} {r : BitVec 3} (q : BitVec 1) (h : s.view = some v) (h0 : v.core.shadow = 0) (ht : t.toNat ≤ 13) (hr7 : r ≠ 7)
    (hb : v.tableBusy = false) :
    v.TrapsMath s (.cvt y d a t r q)
      { uses := [valUse v.mode a .a], d := some { dUse d (typeRegs t.toNat) false with fixed := true } }
      [v.read (valUse v.mode a .a) (floatFmt v.mode)]
      fun l => (cvtLane (modeType v.mode) t.toNat (CvtRnd.ofField r.toNat (modeRnd v.mode)) (q == 1)
        (v.cvtDraw (if (v.read (valUse v.mode a .a) (floatFmt v.mode)).shape = .u then 0 else l))
        ((v.read (valUse v.mode a .a) (floatFmt v.mode)).lane l)).2 := by
  refine trapsMath_of h rfl fun hr hx hm => ?_
  have he : (decide (t.toNat ≤ 13) && r != 7) = true := by simpa [ht] using hr7
  simp only [he]
  refine (bind_of_ok (check_of hr rfl rfl) _).trans ((bind_of_ok (if_pos (by rw [hb]; rfl)) _).trans ((bind_of_ok (needClean_of hx) _).trans ?_))
  split
  · exact fltFinish_math h0 hm
  · exact bind_of_error hm _

theorem cvtW_trapsMath (r : BitVec 1) (h : s.view = some v) (h0 : v.core.shadow = 0) :
    v.TrapsMath s (.cvtW y d a r) { uses := [{ field := a, pos := .a, n := 4, fixed := true }], d := some (dUse d 1 true) }
      (v.readD d 1 :: v.readQuad (v.srcOf { field := a, pos := .a, n := 4, fixed := true }))
      fun l => (collect (quadLane (v.readQuad (v.srcOf { field := a, pos := .a, n := 4, fixed := true })) l)
        (toSigned 32 ((v.readD d 1).lane l).toNat)).2 :=
  trapsMath_of h rfl fun hr hx hm =>
    (bind_of_ok (check_of hr rfl rfl) _).trans ((bind_of_ok (needClean_of hx) _).trans (fltFinish_math h0 hm))

/-! ### Tiles -/

variable {x : Opnd} {w : Nat}

/-- A control word that 10 R262 allows, for a tile that is at hand. -/
theorem tileCtl_ok {typeOk : Nat → Bool} (hx : v.read (wordUse a .a) none = x) (hw : (x.lane 0).toNat = w)
    (hm : v.team.hdr.flags.getLsbD 1 = true) (hu : x.shape = .u) (hlt : w < 2 ^ 18) (ho : typeOk (w / 2 ^ 14) = true)
    (ht : w % 16 < v.team.hdr.tiles) (hb : v.tileBusy (w % 16) = false)
    (hr : v.Ready { uses := [wordUse a .a], d := some (dUse d 1 false) }) (hc : Clean [x] v.active) :
    tileCtl v { uses := [wordUse a .a], d := some (dUse d 1 false) } a (wordUse a .a) typeOk =
      .ok { tile := w % 16, cell := w / 16 % 1024, type := w / 2 ^ 14 } := by
  have hty : w / 2 ^ 14 % 16 = w / 2 ^ 14 := by omega
  simp only [tileCtl, hx, hw, hty]
  refine (bind_of_ok (check_of hr (if_pos hm) (if_pos (by rw [hu]; rfl))) _).trans ?_
  refine (bind_of_ok (if_pos (by simp only [hlt, ho, ht, decide_true, Bool.and_true])) _).trans ?_
  exact (bind_of_ok (if_pos (by rw [hb]; rfl)) _).trans (bind_of_ok (needClean_of hc) _)

theorem bad_of_clean {t : Tile} (h : t.poison = []) (c : Nat) : t.bad c = false := by simp [Tile.bad, h]

/-- The exceptions of a lane of TCVT (10 R265). -/
def View.tcvtExc (v : View) (ints : Bool) (w l : Nat) : Exc :=
  (List.range (tcvtShape (w / 2 ^ 14)).1).foldl (fun e j => e ||| (cvtLane (if ints then 2 else 10) (w / 2 ^ 14)
    (CvtRnd.mode (Rnd.ofCode (modeRnd v.mode))) false (v.cvtDraw l)
    (((v.fib.tile (w % 16)).cell (w / 16 % 1024 + (tcvtShape (w / 2 ^ 14)).1 * l + j)).setWidth 64)).2) 0

theorem tcvtExc_eq (v : View) (w l : Nat) : v.tcvtExc (fmtAcc v.fib.spec.fmt == 1) w l =
    (List.range (if w / 2 ^ 14 = 13 then 4 else 2)).foldl (fun e j => e ||| (cvtLane (if fmtAcc v.fib.spec.fmt = 1 then 2 else 10)
      (w / 2 ^ 14) (CvtRnd.mode (Rnd.ofCode (modeRnd v.mode))) false (v.cvtDraw l)
      (((v.fib.tile (w % 16)).cell (w / 16 % 1024 + (if w / 2 ^ 14 = 13 then 4 else 2) * l + j)).setWidth 64)).2) 0 := by
  have hn : (if w / 2 ^ 14 = 13 then 4 else 2) = (tcvtShape (w / 2 ^ 14)).1 := by unfold tcvtShape; split <;> rfl
  simp only [View.tcvtExc, beq_iff_eq, hn]

theorem tcvt_trapsMath (h : s.view = some v) (h0 : v.core.shadow = 0) (hx : v.read (wordUse a .a) none = x) (hw : (x.lane 0).toNat = w)
    (hm : v.team.hdr.flags.getLsbD 1 = true) (hu : x.shape = .u) (ht : w % 16 < v.team.hdr.tiles) (hb : v.tileBusy (w % 16) = false)
    (hp : (v.fib.tile (w % 16)).poison = []) (hq : v.tableBusy = false)
    (hty : w / 2 ^ 14 = 13 ∨ (¬fmtAcc v.fib.spec.fmt = 1 ∧ (w / 2 ^ 14 = 8 ∨ w / 2 ^ 14 = 9))) :
    v.TrapsMath s (.tcvt y d a) { uses := [wordUse a .a], d := some (dUse d 1 false) } [x]
      (v.tcvtExc (fmtAcc v.fib.spec.fmt == 1) w) := by
  refine trapsMath_of h rfl fun hr hc ht' => ?_
  have hok : (w / 2 ^ 14 == 13 || (!(fmtAcc v.fib.spec.fmt == 1) && (w / 2 ^ 14 == 8 || w / 2 ^ 14 == 9))) = true := by
    rcases hty with h13 | ⟨hi, h8⟩
    · rw [h13]; rfl
    · rw [beq_eq_false_iff_ne.mpr hi]; rcases h8 with h8 | h8 <;> rw [h8] <;> rfl
  refine (bind_of_ok (tileCtl_ok d a hx hw hm hu (by omega) hok ht hb hr hc) _).trans ?_
  refine (bind_of_ok (if_pos (by rw [hq]; rfl)) _).trans ((bind_of_ok (if_pos (by simp [bad_of_clean hp])) _).trans ?_)
  generalize (fmtAcc v.fib.spec.fmt == 1) = ints at ht' ⊢
  cases ints
  · refine (bind_of_ok (if_pos (by simp [h0])) _).trans ?_
    exact afterRetry_trap h0 (bind_of_error ht' _)
  · exact bind_of_error ht' _

theorem trowmax_trapsMath (h : s.view = some v) (hx : v.read (wordUse a .a) none = x) (hw : (x.lane 0).toNat = w)
    (hm : v.team.hdr.flags.getLsbD 1 = true) (hu : x.shape = .u) (ht : w % 16 < v.team.hdr.tiles) (hb : v.tileBusy (w % 16) = false)
    (hp : (v.fib.tile (w % 16)).poison = []) (hty : w / 2 ^ 14 = 0) :
    v.TrapsMath s (.trowmax y d a) { uses := [wordUse a .a], d := some (dUse d 1 false) } [x]
      fun l => if (List.range 32).any fun j =>
          (decodeF .f32 (((v.fib.tile (w % 16)).cell ((w / 16 % 1024 / 32 + l) % 32 * 32 + j)).setWidth 64)).snan
        then excInv else 0 := by
  refine trapsMath_of h rfl fun hr hc ht' => ?_
  refine (bind_of_ok (tileCtl_ok d a hx hw hm hu (by omega) (by rw [hty]; rfl) ht hb hr hc) _).trans ?_
  refine (bind_of_ok (if_pos (by simp [bad_of_clean hp])) _).trans (bind_of_error ?_ _)
  simpa only [List.any_map, Function.comp_def] using ht'

end

/-- Settles O16: each instruction passes its checks and comes to the one for MATH before it writes anything. -/
theorem mathTraps : Obligations.MathTraps := by
  unfold Obligations.MathTraps
  refine ⟨fun y d a b f s v h hf h0 => ?_, fun y d a s v h h0 => ⟨fun t r q ht hr hb => cvt_trapsMath y d a q h h0 ht hr hb,
    fun r => cvtW_trapsMath y d a r h h0, fun hm hu ht hb hp => ⟨fun hty hq => ?_, fun hty => ?_⟩⟩⟩
  · refine ⟨?_, ?_, ?_, ?_, ?_, ?_, ?_, ?_, ?_, ?_, ?_, fun h64 => ⟨?_, ?_, ?_, ?_, ?_⟩, ?_, ?_, ?_, ?_, fun c k hc => ?_, ?_, ?_, ?_, ?_⟩
    · exact fltTwo_trapsMath addF h hf h0 rfl
    · exact fltTwo_trapsMath (fun f r x z => addF f r x z.negate) h hf h0 rfl
    · exact fltTwo_trapsMath mulF h hf h0 rfl
    · exact fltRR_trapsMath true fmaF h hf h0 rfl rfl
    · exact fltTwo_trapsMath divF h hf h0 rfl
    · exact fltTwo_trapsMath (fun f _ => minMaxF f false) h hf h0 rfl
    · exact fltTwo_trapsMath (fun f _ => minMaxF f true) h hf h0 rfl
    · exact fltUnary_trapsMath false (fun f _ => signF f (!·)) h hf h0 rfl nofun
    · exact fltUnary_trapsMath false (fun f _ => signF f fun _ => false) h hf h0 rfl nofun
    · exact fltUnary_trapsMath false (fun f r => sqrtF f (rootRnd f r)) h hf h0 rfl nofun
    · exact fltUnary_trapsMath false (fun f r => rcpF f (rootRnd f r)) h hf h0 rfl nofun
    · exact fltUnary_trapsMath true (fun f _ => rsqF f) h hf h0 rfl fun _ => h64
    · exact fltUnary_trapsMath true (fun f _ => exp2F f) h hf h0 rfl fun _ => h64
    · exact fltUnary_trapsMath true (fun f _ => log2F f) h hf h0 rfl fun _ => h64
    · exact fltUnary_trapsMath true (fun f _ => sinpF f) h hf h0 rfl fun _ => h64
    · exact fltUnary_trapsMath true (fun f _ => cospF f) h hf h0 rfl fun _ => h64
    · exact fltUnary_trapsMath false (fun f _ => integralF f .rd true) h hf h0 rfl nofun
    · exact fltUnary_trapsMath false (fun f _ => integralF f .ru true) h hf h0 rfl nofun
    · exact fltUnary_trapsMath false (fun f _ => integralF f .rz true) h hf h0 rfl nofun
    · exact fltUnary_trapsMath false (fun f r => integralF f r false) h hf h0 rfl nofun
    · simpa only [fltCondExc_eq] using fcmp_trapsMath y k a b h hf hc
    · exact pipe_trapsMath h rfl (laneSumF_eq d a hf true) rfl rfl
    · exact pipe_trapsMath h rfl (laneSumF_eq d a hf false) rfl rfl
    · exact pipe_trapsMath h rfl (laneExtreme_eq d a hf false) rfl rfl
    · exact pipe_trapsMath h rfl (laneExtreme_eq d a hf true) rfl rfl
  · simp only [← tcvtExc_eq]
    exact tcvt_trapsMath y d a h h0 rfl rfl hm hu ht hb hp hq hty
  · exact trowmax_trapsMath y d a h rfl rfl hm hu ht hb hp hty

end Sys2Proof.Machine
end

section
/-! SUPPORT. The bits of a float format and the values that they hold (04 R81). -/

namespace Sys2Proof.Machine

open Sys2Proof

/-! ### The fields of a pattern -/

/-- The pattern with a sign, an exponent field and a fraction field. -/
def Fmt.pattern (f : Fmt) (s : Bool) (ex fr : Nat) : Nat := signBits f s + ex * 2 ^ f.frac + fr

/-- The sign, the exponent field and the fraction field of some bits. -/
def Fmt.sign (f : Fmt) (x : DWord) : Bool := x.toNat.testBit (f.width - 1)
def Fmt.expField (f : Fmt) (x : DWord) : Nat := x.toNat / 2 ^ f.frac % 2 ^ f.ebits
def Fmt.fracField (f : Fmt) (x : DWord) : Nat := x.toNat % 2 ^ f.frac

/-- The bits of a format, those above it cleared. -/
def Fmt.own (f : Fmt) (x : DWord) : DWord := BitVec.ofNat 64 (x.toNat % 2 ^ f.width)

theorem frac_pos (f : Fmt) : 0 < f.frac := by cases f <;> decide
theorem bias_pos (f : Fmt) : 0 < f.bias := by cases f <;> decide
theorem qmin_eq (f : Fmt) : f.qmin = 1 - (f.bias : Int) - f.frac := rfl
theorem two_pow_ebits (f : Fmt) : 2 ^ f.ebits = 2 * f.bias + 2 := by cases f <;> decide
theorem width_le (f : Fmt) : 2 ^ f.width ≤ 2 ^ 64 := by cases f <;> decide

theorem expField_lt (f : Fmt) (x : DWord) : f.expField x < 2 ^ f.ebits := Nat.mod_lt _ (by positivity)
theorem fracField_lt (f : Fmt) (x : DWord) : f.fracField x < 2 ^ f.frac := Nat.mod_lt _ (by positivity)

theorem signBits_eq (f : Fmt) (s : Bool) : signBits f s = s.toNat * 2 ^ (f.width - 1) := by cases s <;> simp [signBits]

theorem pattern_fields (f : Fmt) (x : DWord) : f.pattern (f.sign x) (f.expField x) (f.fracField x) = x.toNat % 2 ^ f.width := by
  unfold Fmt.pattern Fmt.sign Fmt.expField Fmt.fracField
  rw [signBits_eq, Nat.toNat_testBit]
  cases f <;> simp only [Fmt.width, Fmt.frac, Fmt.ebits] <;> omega

section
variable (f : Fmt) (s : Bool) {ex fr : Nat} (hex : ex < 2 ^ f.ebits) (hfr : fr < 2 ^ f.frac)
include hex hfr

theorem pattern_lt : f.pattern s ex fr < 2 ^ f.width := by
  unfold Fmt.pattern signBits
  cases f <;> simp only [Fmt.width, Fmt.frac, Fmt.ebits] at * <;> split <;> omega

theorem toNat_pattern : (BitVec.ofNat 64 (f.pattern s ex fr)).toNat = f.pattern s ex fr :=
  Nat.mod_eq_of_lt (lt_of_lt_of_le (pattern_lt f s hex hfr) (width_le f))

theorem sign_pattern : f.sign (BitVec.ofNat 64 (f.pattern s ex fr)) = s := by
  rw [Fmt.sign, toNat_pattern f s hex hfr, Nat.testBit_eq_decide_div_mod_eq]
  unfold Fmt.pattern signBits
  cases f <;> cases s <;> simp only [Fmt.width, Fmt.frac, Fmt.ebits] at * <;> simp <;> omega

theorem expField_pattern : f.expField (BitVec.ofNat 64 (f.pattern s ex fr)) = ex := by
  rw [Fmt.expField, toNat_pattern f s hex hfr]
  unfold Fmt.pattern signBits
  cases f <;> simp only [Fmt.width, Fmt.frac, Fmt.ebits] at * <;> split <;> omega

theorem fracField_pattern : f.fracField (BitVec.ofNat 64 (f.pattern s ex fr)) = fr := by
  rw [Fmt.fracField, toNat_pattern f s hex hfr]
  unfold Fmt.pattern signBits
  cases f <;> simp only [Fmt.width, Fmt.frac, Fmt.ebits] at * <;> split <;> omega

end

/-! ### What bits decode to -/

/-- The value with given fields. -/
def Fmt.value (f : Fmt) (s : Bool) (ex fr : Nat) : FVal :=
  if ex = 2 ^ f.ebits - 1 then if fr = 0 then .inf s else .nan (!fr.testBit (f.frac - 1))
  else if ex = 0 then .fin s fr f.qmin
  else .fin s (fr + 2 ^ f.frac) (f.qmin + ((ex : Int) - 1))

theorem decodeF_fields (f : Fmt) (x : DWord) : decodeF f x = f.value (f.sign x) (f.expField x) (f.fracField x) := rfl

theorem decodeF_pattern (f : Fmt) (s : Bool) {ex fr : Nat} (hex : ex < 2 ^ f.ebits) (hfr : fr < 2 ^ f.frac) :
    decodeF f (BitVec.ofNat 64 (f.pattern s ex fr)) = f.value s ex fr := by
  rw [decodeF_fields, sign_pattern f s hex hfr, expField_pattern f s hex hfr, fracField_pattern f s hex hfr]

theorem own_eq_pattern (f : Fmt) (x : DWord) : f.own x = BitVec.ofNat 64 (f.pattern (f.sign x) (f.expField x) (f.fracField x)) := by
  rw [pattern_fields, Fmt.own]

@[simp] theorem decodeF_own (f : Fmt) (x : DWord) : decodeF f (f.own x) = decodeF f x := by
  rw [own_eq_pattern, decodeF_pattern f _ (expField_lt f x) (fracField_lt f x), decodeF_fields]

/-- The exponent field of infinities and NaNs. -/
theorem special_lt (f : Fmt) : 2 ^ f.ebits - 1 < 2 ^ f.ebits := Nat.sub_one_lt (by positivity)

theorem infBits_eq (f : Fmt) (n : Bool) : infBits f n = BitVec.ofNat 64 (f.pattern n (2 ^ f.ebits - 1) 0) := rfl
theorem zeroBits_eq (f : Fmt) (n : Bool) : zeroBits f n = BitVec.ofNat 64 (f.pattern n 0 0) := by simp [zeroBits, Fmt.pattern]
theorem nanBits_eq (f : Fmt) : nanBits f = BitVec.ofNat 64 (f.pattern false (2 ^ f.ebits - 1) (2 ^ (f.frac - 1))) := by
  simp [nanBits, Fmt.pattern, signBits]
theorem maxBits_eq (f : Fmt) (n : Bool) : maxBits f n = BitVec.ofNat 64 (f.pattern n (2 ^ f.ebits - 2) (2 ^ f.frac - 1)) := by
  have hp : 0 < 2 ^ f.frac := by positivity
  unfold maxBits Fmt.pattern
  rw [two_pow_ebits, show 2 * f.bias + 2 - 1 = 2 * f.bias + 1 by omega, Nat.add_mul]
  congr 1
  rw [show 2 * f.bias + 2 - 2 = 2 * f.bias by omega]
  omega

theorem half_frac_lt (f : Fmt) : 2 ^ (f.frac - 1) < 2 ^ f.frac := Nat.pow_lt_pow_right (by decide) (Nat.sub_one_lt (frac_pos f).ne')

@[simp] theorem decodeF_infBits (f : Fmt) (n : Bool) : decodeF f (infBits f n) = .inf n := by
  rw [infBits_eq, decodeF_pattern f n (special_lt f) (by positivity), Fmt.value, if_pos rfl, if_pos rfl]

@[simp] theorem decodeF_nanBits (f : Fmt) : decodeF f (nanBits f) = .nan false := by
  rw [nanBits_eq, decodeF_pattern f false (special_lt f) (half_frac_lt f), Fmt.value, if_pos rfl, if_neg (by positivity),
    Nat.testBit_two_pow_self, Bool.not_true]

@[simp] theorem decodeF_zeroBits (f : Fmt) (n : Bool) : decodeF f (zeroBits f n) = .fin n 0 f.qmin := by
  have h : (0 : Nat) ≠ 2 ^ f.ebits - 1 := by rw [two_pow_ebits]; omega
  rw [zeroBits_eq, decodeF_pattern f n (by positivity) (by positivity), Fmt.value, if_neg h, if_pos rfl]

theorem decodeF_maxBits (f : Fmt) (n : Bool) :
    decodeF f (maxBits f n) = .fin n (2 ^ (f.frac + 1) - 1) ((f.bias : Int) - f.frac) := by
  have he := two_pow_ebits f
  have hb := bias_pos f
  have hp : 0 < 2 ^ f.frac := by positivity
  rw [maxBits_eq, decodeF_pattern f n (by omega) (by omega), Fmt.value, if_neg (by omega), if_neg (by omega), he, qmin_eq, pow_succ]
  congr 1
  · omega
  · push_cast
    omega

theorem infBits_lt (f : Fmt) (n : Bool) : (infBits f n).toNat < 2 ^ f.width := by
  rw [infBits_eq, toNat_pattern f n (special_lt f) (by positivity)]
  exact pattern_lt f n (special_lt f) (by positivity)

theorem nanBits_lt (f : Fmt) : (nanBits f).toNat < 2 ^ f.width := by
  rw [nanBits_eq, toNat_pattern f _ (special_lt f) (half_frac_lt f)]
  exact pattern_lt f _ (special_lt f) (half_frac_lt f)

theorem zeroBits_lt (f : Fmt) (n : Bool) : (zeroBits f n).toNat < 2 ^ f.width := by
  rw [zeroBits_eq, toNat_pattern f n (by positivity) (by positivity)]
  exact pattern_lt f n (by positivity) (by positivity)

theorem maxBits_lt (f : Fmt) (n : Bool) : (maxBits f n).toNat < 2 ^ f.width := by
  have he := two_pow_ebits f
  have hb := bias_pos f
  have hp : 0 < 2 ^ f.frac := by positivity
  rw [maxBits_eq, toNat_pattern f n (by omega) (by omega)]
  exact pattern_lt f n (by omega) (by omega)

/-! ### The numbers of a format -/

/-- A significand and an exponent that a format holds: at its least exponent, or with the leading bit, and in its range. -/
structure Fmt.Number (f : Fmt) (m : Nat) (e : Int) : Prop where
  sig : m < 2 ^ (f.frac + 1)
  least : f.qmin ≤ e
  most : e ≤ (f.bias : Int) - f.frac
  normal : e = f.qmin ∨ 2 ^ f.frac ≤ m

/-- The bits of a number. -/
def Fmt.numberBits (f : Fmt) (s : Bool) (m : Nat) (e : Int) : DWord :=
  BitVec.ofNat 64 (if m < 2 ^ f.frac then f.pattern s 0 m else f.pattern s (e - f.qmin + 1).toNat (m - 2 ^ f.frac))

theorem number_of_decodeF {f : Fmt} {x : DWord} {s : Bool} {m : Nat} {e : Int} (h : decodeF f x = .fin s m e) : f.Number m e := by
  have hex := expField_lt f x
  have hfr := fracField_lt f x
  have he := two_pow_ebits f
  have hb := bias_pos f
  rw [decodeF_fields, Fmt.value] at h
  split at h
  · split at h <;> cases h
  · split at h <;> cases h
    · exact ⟨by rw [pow_succ]; omega, le_rfl, by rw [qmin_eq]; omega, .inl rfl⟩
    · exact ⟨by rw [pow_succ]; omega, by omega, by rw [qmin_eq]; omega, .inr (by omega)⟩

section
variable {f : Fmt} {m : Nat} {e : Int} (h : f.Number m e) (s : Bool)
include h

theorem Fmt.Number.expField_lt : (e - f.qmin + 1).toNat < 2 ^ f.ebits - 1 := by
  have := h.most
  have := two_pow_ebits f
  have := bias_pos f
  have := qmin_eq f
  omega

theorem numberBits_lt : (f.numberBits s m e).toNat < 2 ^ f.width := by
  have hex := h.expField_lt
  have hm := h.sig
  have hp : 0 < 2 ^ f.ebits := by positivity
  unfold Fmt.numberBits
  split
  · rw [toNat_pattern f s hp ‹_›]
    exact pattern_lt f s hp ‹_›
  · rw [pow_succ] at hm
    rw [toNat_pattern f s (by omega) (by omega)]
    exact pattern_lt f s (by omega) (by omega)

theorem decodeF_numberBits : decodeF f (f.numberBits s m e) = .fin s m e := by
  have hex := h.expField_lt
  have hm := h.sig
  have he := h.least
  have hp := two_pow_ebits f
  unfold Fmt.numberBits
  split
  next hlt =>
    have : e = f.qmin := h.normal.resolve_right (by omega)
    rw [decodeF_pattern f s (by omega) hlt, Fmt.value, if_neg (by omega), if_pos rfl, this]
  next hge =>
    rw [pow_succ] at hm
    rw [decodeF_pattern f s (by omega) (by omega), Fmt.value, if_neg (by omega), if_neg (by omega)]
    congr 1 <;> omega

end

/-- A number of the format is the decoding of one pattern alone. -/
theorem own_of_decodeF {f : Fmt} {x : DWord} {s : Bool} {m : Nat} {e : Int} (h : decodeF f x = .fin s m e) :
    f.own x = f.numberBits s m e := by
  have hfr := fracField_lt f x
  rw [own_eq_pattern, Fmt.numberBits]
  rw [decodeF_fields, Fmt.value] at h
  congr 1
  split at h
  · split at h <;> cases h
  · split at h <;> cases h
    next h0 => rw [h0, if_pos hfr]
    next h0 =>
      rw [if_neg (by omega)]
      congr 1 <;> omega

theorem own_of_inf {f : Fmt} {x : DWord} {s : Bool} (h : decodeF f x = .inf s) : f.own x = infBits f s := by
  rw [own_eq_pattern, infBits_eq]
  rw [decodeF_fields, Fmt.value] at h
  split at h
  next he =>
    split at h <;> cases h
    next h0 => rw [he, h0]
  · split at h <;> cases h

theorem numberBits_zero (f : Fmt) (s : Bool) (e : Int) : f.numberBits s 0 e = zeroBits f s := by
  rw [Fmt.numberBits, if_pos (by positivity), zeroBits_eq]

/-- Two numbers of one value have no different exponents: the one with the lower would have too many bits. -/
theorem Fmt.Number.exponent_le {f : Fmt} {m k : Nat} {e j : Int} (h : f.Number m e) (h' : f.Number k j)
    (hv : (m : ℚ) * 2 ^ e = k * 2 ^ j) : j ≤ e := by
  by_contra hlt
  obtain ⟨d, hd⟩ : ∃ d : Nat, j = e + (d + 1 : Nat) := ⟨(j - e - 1).toNat, by omega⟩
  have hk : 2 ^ f.frac ≤ k := h'.normal.resolve_left (by have := h.least; omega)
  have hm : m = k * 2 ^ (d + 1) := by
    rw [hd, zpow_add₀ two_ne_zero, zpow_natCast, ← mul_assoc, mul_right_comm] at hv
    exact_mod_cast mul_right_cancel₀ (zpow_ne_zero e two_ne_zero) hv
  have h1 : 2 ^ f.frac * 2 ^ 1 ≤ k * 2 ^ (d + 1) := Nat.mul_le_mul hk (Nat.pow_le_pow_right (by decide) (by omega))
  have := h.sig
  rw [pow_succ] at this
  omega

/-- A value determines the significand and the exponent of a number. -/
theorem Fmt.Number.unique {f : Fmt} {m k : Nat} {e j : Int} (h : f.Number m e) (h' : f.Number k j)
    (hv : (m : ℚ) * 2 ^ e = k * 2 ^ j) : m = k ∧ e = j := by
  have he : e = j := le_antisymm (h'.exponent_le h hv.symm) (h.exponent_le h' hv)
  subst he
  exact ⟨by exact_mod_cast mul_right_cancel₀ (zpow_ne_zero e two_ne_zero) hv, rfl⟩

end Sys2Proof.Machine
end

section
/-! SUPPORT. Rounding: what `roundF` gives for an exact magnitude, a real number of which it holds the first bits and whether more
follow (04 R83, R84). -/

namespace Sys2Proof.Machine

open Sys2Proof

/-! ### Exact magnitudes -/

/-- The order of rationals against a magnitude. -/
def Measures (c : ℚ → Ordering) (x : ℝ) : Prop := ∀ q : ℚ, 0 ≤ q → c q = compare (q : ℝ) x

section
variable {c : ℚ → Ordering} {x : ℝ} (h : Measures c x) {q : ℚ} (hq : 0 ≤ q)
include h hq

theorem Measures.lt_iff : c q = .lt ↔ (q : ℝ) < x := by rw [h q hq, compare_lt_iff_lt]
theorem Measures.gt_iff : c q = .gt ↔ x < q := by rw [h q hq, compare_gt_iff_gt]
theorem Measures.eq_iff : c q = .eq ↔ (q : ℝ) = x := by rw [h q hq, compare_eq_iff_eq]

end

theorem compare_cast (q z : ℚ) : compare (q : ℝ) z = compare q z := by
  rcases lt_trichotomy q z with h | h | h
  · rw [compare_lt_iff_lt.mpr h, compare_lt_iff_lt.mpr (by exact_mod_cast h)]
  · rw [compare_eq_iff_eq.mpr h, compare_eq_iff_eq.mpr (by exact_mod_cast h)]
  · rw [compare_gt_iff_gt.mpr h, compare_gt_iff_gt.mpr (by exact_mod_cast h)]

theorem measures_against (x : ℚ) : Measures (against x) (|x| : ℚ) := fun q _ => (compare_cast q |x|).symm

/-- A magnitude of which `n × 2^e` holds the first bits, `sticky` saying that more follow. -/
structure Begins (n : Nat) (e : Int) (sticky : Bool) (x : ℝ) : Prop where
  low : n * (2 : ℝ) ^ e ≤ x
  high : x < (n + 1) * (2 : ℝ) ^ e
  more : sticky = true ↔ x ≠ n * (2 : ℝ) ^ e

theorem begins_exact (n : Nat) (e : Int) : Begins n e false (n * (2 : ℝ) ^ e) where
  low := le_rfl
  high := by
    have : (0 : ℝ) < 2 ^ e := by positivity
    nlinarith
  more := by simp

/-! ### Rounding to an integer -/

/-- The modes that go away from zero under a sign, and those that go to the nearest. -/
abbrev Rnd.Away (r : Rnd) (neg : Bool) : Prop := (r = .ru ∧ neg = false) ∨ (r = .rd ∧ neg = true)
abbrev Rnd.Near (r : Rnd) : Prop := r = .rne ∨ r = .rna

/-- Whether a magnitude goes up to the next integer (04 R84). -/
def Rnd.GoesUp (r : Rnd) (neg : Bool) (y : ℝ) : Prop :=
  match r with
  | .rne => ⌊y⌋₊ + 1 / 2 < y ∨ (y = ⌊y⌋₊ + 1 / 2 ∧ ⌊y⌋₊ % 2 = 1)
  | .rz => False
  | .ru => y ≠ ⌊y⌋₊ ∧ neg = false
  | .rd => y ≠ ⌊y⌋₊ ∧ neg = true
  | .rna => ⌊y⌋₊ + 1 / 2 ≤ y

section
variable {r : Rnd} {neg : Bool} {y : ℝ}

theorem goesUp_away (h : r.Away neg) : r.GoesUp neg y ↔ y ≠ ⌊y⌋₊ := by
  rcases h with ⟨rfl, rfl⟩ | ⟨rfl, rfl⟩ <;> simp [Rnd.GoesUp]

theorem goesUp_toward (h : ¬r.Away neg) (h' : ¬r.Near) : ¬r.GoesUp neg y := by
  cases r <;> simp_all [Rnd.Away, Rnd.Near, Rnd.GoesUp]

/-- To the nearest: up at a half and above, and at a half under RNE only from an odd integer. -/
theorem goesUp_near (h : r.Near) (hu : r.GoesUp neg y) :
    ⌊y⌋₊ + 1 / 2 ≤ y ∧ (y = ⌊y⌋₊ + 1 / 2 → r = .rne → ⌊y⌋₊ % 2 = 1) := by
  rcases h with rfl | rfl
  · rcases hu with hlt | ⟨heq, hodd⟩
    · exact ⟨hlt.le, fun he => absurd he hlt.ne'⟩
    · exact ⟨heq.ge, fun _ _ => hodd⟩
  · exact ⟨hu, fun _ => nofun⟩

theorem not_goesUp_near (h : r.Near) (hu : ¬r.GoesUp neg y) :
    y ≤ ⌊y⌋₊ + 1 / 2 ∧ (y = ⌊y⌋₊ + 1 / 2 → r = .rne ∧ ⌊y⌋₊ % 2 = 0) := by
  rcases h with rfl | rfl
  · simp only [Rnd.GoesUp, not_or, not_lt, not_and] at hu
    exact ⟨hu.1, fun he => ⟨rfl, Nat.mod_two_ne_one.mp (hu.2 he)⟩⟩
  · have hlt : y < ⌊y⌋₊ + 1 / 2 := lt_of_not_ge hu
    exact ⟨hlt.le, fun he => absurd he hlt.ne⟩

end

/-- `M` is the integer that a mode chooses for a magnitude. -/
def Rounded (r : Rnd) (neg : Bool) (y : ℝ) (M : Nat) : Prop :=
  (¬r.GoesUp neg y ∧ M = ⌊y⌋₊) ∨ (r.GoesUp neg y ∧ M = ⌊y⌋₊ + 1)

/-- `v` is no worse than `u` for a magnitude under a mode; `even` breaks a tie under RNE. -/
structure Best (r : Rnd) (neg : Bool) (even : Prop) (x v u : ℝ) : Prop where
  away : r.Away neg → x ≤ v ∧ (x ≤ u → v ≤ u)
  below : ¬r.Away neg → r.Near → v < u → x ≤ (u + v) / 2 ∧ (x = (u + v) / 2 → r = .rne ∧ even)
  above : ¬r.Away neg → r.Near → u < v → (u + v) / 2 ≤ x ∧ (x = (u + v) / 2 → r = .rne → even)
  toward : ¬r.Away neg → ¬r.Near → v ≤ x ∧ (u ≤ x → u ≤ v)

/-- The chosen integer is best among what does not lie strictly between the two integers around the magnitude. -/
theorem best_of_rounded {r : Rnd} {neg : Bool} {y u : ℝ} {M : Nat} (hy : 0 ≤ y) (h : Rounded r neg y M)
    (hu : u ≤ ⌊y⌋₊ ∨ (⌊y⌋₊ : ℝ) + 1 ≤ u) : Best r neg (M % 2 = 0) y M u := by
  have hlo : (⌊y⌋₊ : ℝ) ≤ y := Nat.floor_le hy
  have hhi : y < ⌊y⌋₊ + 1 := Nat.lt_floor_add_one y
  rcases h with ⟨hup, rfl⟩ | ⟨hup, rfl⟩
  · refine ⟨fun ha => ?_, fun ha hn hvu => ?_, fun ha hn huv => ?_, fun ha hn => ⟨hlo, fun hux => ?_⟩⟩
    · rw [goesUp_away ha, not_not] at hup
      exact ⟨hup.le, fun h => hup ▸ h⟩
    · obtain ⟨h1, h2⟩ := not_goesUp_near hn hup
      have h3 : (⌊y⌋₊ : ℝ) + 1 ≤ u := hu.resolve_left (not_le.mpr hvu)
      exact ⟨by linarith, fun he => h2 (by linarith)⟩
    · exact ⟨by linarith, fun he => absurd he (by linarith)⟩
    · exact hu.resolve_right fun h => by linarith
  · push_cast
    have hu' : u < ⌊y⌋₊ + 1 → u ≤ ⌊y⌋₊ := fun h => hu.resolve_right (not_le.mpr h)
    refine ⟨fun ha => ⟨hhi.le, fun h => ?_⟩, fun ha hn hvu => ?_, fun ha hn huv => ?_, fun ha hn => absurd hup (goesUp_toward ha hn)⟩
    · rw [goesUp_away ha] at hup
      have hlt : (⌊y⌋₊ : ℝ) < y := lt_of_le_of_ne hlo hup.symm
      exact hu.resolve_left (by linarith)
    · exact ⟨by linarith, fun he => absurd he (by linarith)⟩
    · obtain ⟨h1, h2⟩ := goesUp_near hn hup
      have := hu' huv
      exact ⟨by linarith, fun he hr => by have := h2 (by linarith) hr; omega⟩

/-- The same in another unit. -/
theorem Best.scale {r : Rnd} {neg : Bool} {even : Prop} {x v u s : ℝ} (h : Best r neg even x v u) (hs : 0 < s) :
    Best r neg even (x * s) (v * s) (u * s) := by
  have hmid : (u * s + v * s) / 2 = (u + v) / 2 * s := by ring
  constructor <;> simp only [hmid, mul_le_mul_iff_left₀ hs, mul_lt_mul_iff_left₀ hs, mul_left_inj' hs.ne']
  · exact h.away
  · exact h.below
  · exact h.above
  · exact h.toward

/-- A magnitude whose rounding to `k + 1` bits, with an unbounded exponent, is not below 2^B. -/
structure Reaches (r : Rnd) (neg : Bool) (k : Nat) (B : Int) (x : ℝ) : Prop where
  away : r.Away neg → 2 ^ B * (1 - 1 / 2 ^ (k + 1)) < x
  near : ¬r.Away neg → r.Near → 2 ^ B * (1 - 1 / 2 ^ (k + 2)) ≤ x
  toward : ¬r.Away neg → ¬r.Near → 2 ^ B ≤ x

theorem reaches_scale {r : Rnd} {neg : Bool} {k : Nat} {B : Int} {y : ℝ} (q : Int) :
    Reaches r neg k B (y * 2 ^ q) ↔ Reaches r neg k (B - q) y := by
  have hq : (0 : ℝ) < 2 ^ q := by positivity
  have hB : (2 : ℝ) ^ B = 2 ^ (B - q) * 2 ^ q := by rw [← zpow_add₀ two_ne_zero, sub_add_cancel]
  have h (t : ℝ) : 2 ^ B * t = 2 ^ (B - q) * t * 2 ^ q := by rw [hB]; ring
  constructor
  · rintro ⟨h1, h2, h3⟩
    simp only [h, mul_lt_mul_iff_left₀ hq, mul_le_mul_iff_left₀ hq] at h1 h2
    rw [hB] at h3
    simp only [mul_le_mul_iff_left₀ hq] at h3
    exact ⟨h1, h2, h3⟩
  · rintro ⟨h1, h2, h3⟩
    constructor
    · simpa only [h, mul_lt_mul_iff_left₀ hq] using h1
    · simpa only [h, mul_le_mul_iff_left₀ hq] using h2
    · rw [hB]
      simpa only [mul_le_mul_iff_left₀ hq] using h3

/-- With the leading bit at place `k`, the chosen integer is not below 2^b exactly where the magnitude reaches that. -/
theorem reaches_iff {r : Rnd} {neg : Bool} {k M : Nat} {b : Int} {y : ℝ} (h : Rounded r neg y M) (hlo : 2 ^ k ≤ y)
    (hhi : y < 2 ^ (k + 1)) : (2 : ℝ) ^ b ≤ M ↔ Reaches r neg k b y := by
  have hk : (0 : ℝ) < 2 ^ k := by positivity
  have hy : 0 ≤ y := hk.le.trans hlo
  have hfl : (⌊y⌋₊ : ℝ) ≤ y := Nat.floor_le hy
  have hfl' : y < ⌊y⌋₊ + 1 := Nat.lt_floor_add_one y
  have hn1 : 2 ^ k ≤ ⌊y⌋₊ := Nat.le_floor (by exact_mod_cast hlo)
  have hn2 : ⌊y⌋₊ < 2 ^ (k + 1) := (Nat.floor_lt hy).mpr (by exact_mod_cast hhi)
  have hM : ⌊y⌋₊ ≤ M ∧ M ≤ ⌊y⌋₊ + 1 := by rcases h with ⟨-, rfl⟩ | ⟨-, rfl⟩ <;> omega
  have hpos : (0 : ℝ) < 2 ^ b := by positivity
  have hpart (d : Nat) : (0 : ℝ) < 1 / 2 ^ d := by positivity
  rcases lt_trichotomy b (k + 1) with hb | rfl | hb
  · have hbk : (2 : ℝ) ^ b ≤ 2 ^ k := by
      rw [← zpow_natCast]
      exact zpow_le_zpow_right₀ one_le_two (by omega)
    have hbM : (2 : ℝ) ^ k ≤ M := by exact_mod_cast hn1.trans hM.1
    refine iff_of_true (hbk.trans hbM) ⟨fun _ => ?_, fun _ _ => ?_, fun _ _ => hbk.trans hlo⟩ <;>
      nlinarith [hpart (k + 1), hpart (k + 2)]
  · have hz : (2 : ℝ) ^ ((k : Int) + 1) = 2 ^ (k + 1) := by exact_mod_cast zpow_natCast (2 : ℝ) (k + 1)
    have h1 : (2 : ℝ) ^ (k + 1) * (1 - 1 / 2 ^ (k + 1)) = 2 ^ (k + 1) - 1 := by field_simp
    have h2 : (2 : ℝ) ^ (k + 1) * (1 - 1 / 2 ^ (k + 2)) = 2 ^ (k + 1) - 1 / 2 := by rw [pow_succ _ (k + 1)]; field_simp
    -- both sides say that the magnitude goes up from the greatest integer below 2^(k+1)
    have hnat : (2 : ℝ) ^ (k + 1) ≤ M ↔ r.GoesUp neg y ∧ ⌊y⌋₊ + 1 = 2 ^ (k + 1) := by
      rw [show (2 : ℝ) ^ (k + 1) = ((2 ^ (k + 1) : Nat) : ℝ) by push_cast; rfl, Nat.cast_le]
      rcases h with ⟨hu, rfl⟩ | ⟨hu, rfl⟩
      · simp only [hu, false_and, iff_false]; omega
      · simp only [hu, true_and]; omega
    have hcast : ⌊y⌋₊ + 1 = 2 ^ (k + 1) → (⌊y⌋₊ : ℝ) + 1 = 2 ^ (k + 1) := fun h => by exact_mod_cast h
    have hlast : (2 : ℝ) ^ (k + 1) - 1 ≤ y → ⌊y⌋₊ + 1 = 2 ^ (k + 1) := fun h => by
      have : (2 : ℝ) ^ (k + 1) < (⌊y⌋₊ + 1 : Nat) + 1 := by push_cast; linarith
      have : 2 ^ (k + 1) < ⌊y⌋₊ + 1 + 1 := by exact_mod_cast this
      omega
    rw [hz, hnat]
    constructor
    · rintro ⟨hu, hn⟩
      have hn := hcast hn
      refine ⟨fun ha => ?_, fun _ hnear => ?_, fun ha hnear => absurd hu (goesUp_toward ha hnear)⟩
      · rw [hz, h1, ← hn, add_sub_cancel_right]
        exact lt_of_le_of_ne hfl ((goesUp_away ha).mp hu).symm
      · have := (goesUp_near hnear hu).1
        rw [hz, h2]
        linarith
    · rintro ⟨ra, rn, rt⟩
      rw [hz] at ra rn rt
      rw [h1] at ra
      rw [h2] at rn
      by_cases ha : r.Away neg
      · have hn := hlast (ra ha).le
        exact ⟨(goesUp_away ha).mpr (by have := ra ha; have := hcast hn; exact ne_of_gt (by linarith)), hn⟩
      · by_cases hnear : r.Near
        · have hge := rn ha hnear
          have hn := hlast (by linarith)
          refine ⟨by_contra fun hu => ?_, hn⟩
          obtain ⟨hle, hodd⟩ := not_goesUp_near hnear hu
          have := hodd (by have := hcast hn; linarith)
          have := pow_succ 2 k
          omega
        · have := rt ha hnear
          linarith
  · have hbk : (2 : ℝ) * 2 ^ (k + 1) ≤ 2 ^ b := by
      rw [← zpow_natCast, ← zpow_one_add₀ two_ne_zero]
      exact zpow_le_zpow_right₀ one_le_two (by push_cast; omega)
    have hM' : (M : ℝ) ≤ 2 ^ (k + 1) := by exact_mod_cast (by omega : M ≤ 2 ^ (k + 1))
    have hp (d : Nat) (hd : 1 ≤ d) : (1 : ℝ) / 2 ^ d ≤ 1 / 2 := by
      have := one_div_pow_le_one_div_pow_of_le (a := (2 : ℝ)) one_le_two hd
      simpa using this
    refine iff_of_false (by nlinarith) fun ⟨ra, rn, rt⟩ => ?_
    have h1 := hp (k + 1) (by omega)
    have h2 := hp (k + 2) (by omega)
    by_cases ha : r.Away neg
    · nlinarith [ra ha]
    · by_cases hnear : r.Near
      · nlinarith [rn ha hnear]
      · nlinarith [rt ha hnear]

/-! ### Cuts -/

/-- Where what was cut lies by half a unit. -/
def Cut.half (c : Cut) : Ordering := if c.sh = 0 then .lt else compare (2 * c.rem) (2 ^ c.sh)

/-- A cut holds the integer part of a magnitude, and says where the rest lies. -/
structure Cut.Holds (c : Cut) (sticky : Bool) (y : ℝ) : Prop where
  floor : ⌊y⌋₊ = c.m
  exact : (decide (c.rem ≠ 0) || sticky) = true ↔ y ≠ c.m
  above : (c.half == .gt || (c.half == .eq && sticky)) = true ↔ (c.m : ℝ) + 1 / 2 < y
  tie : (c.half == .eq && !sticky) = true ↔ y = c.m + 1 / 2

theorem Cut.Holds.up_iff {c : Cut} {sticky : Bool} {y : ℝ} (h : c.Holds sticky y) (r : Rnd) (neg : Bool) :
    c.up r neg sticky = true ↔ r.GoesUp neg y := by
  obtain ⟨hfl, hex, hab, hti⟩ := h
  have heq : c.up r neg sticky = match r with
    | .rne => (c.half == .gt || (c.half == .eq && sticky)) || ((c.half == .eq && !sticky) && c.m % 2 == 1)
    | .rz => false
    | .ru => (decide (c.rem ≠ 0) || sticky) && !neg
    | .rd => (decide (c.rem ≠ 0) || sticky) && neg
    | .rna => (c.half == .gt || (c.half == .eq && sticky)) || (c.half == .eq && !sticky) := rfl
  rw [heq]
  cases r with
  | rne => rw [Bool.or_eq_true, Bool.and_eq_true, hab, hti, beq_iff_eq, Rnd.GoesUp, hfl]
  | rz => simp [Rnd.GoesUp]
  | ru => rw [Bool.and_eq_true, hex, Rnd.GoesUp, hfl, Bool.not_eq_true']
  | rd => rw [Bool.and_eq_true, hex, Rnd.GoesUp, hfl]
  | rna => rw [Bool.or_eq_true, hab, hti, Rnd.GoesUp, hfl, le_iff_lt_or_eq, eq_comm (a := y)]

/-- A magnitude that lies in [n, n + 1), cut `d + 1` places up. -/
theorem cut_holds_of_mod {n d : Nat} {sticky : Bool} {w : ℝ} (hlo : (n : ℝ) ≤ w) (hhi : w < n + 1)
    (hst : sticky = true ↔ (n : ℝ) < w) :
    Cut.Holds { m := n / 2 ^ (d + 1), rem := n % 2 ^ (d + 1), sh := d + 1 } sticky (w / 2 ^ (d + 1)) := by
  have hhalf : Cut.half { m := n / 2 ^ (d + 1), rem := n % 2 ^ (d + 1), sh := d + 1 } =
      compare (2 * (n % 2 ^ (d + 1))) (2 ^ (d + 1)) := rfl
  have hdiv := Nat.div_add_mod n (2 ^ (d + 1))
  have hrem : n % 2 ^ (d + 1) < 2 ^ (d + 1) := Nat.mod_lt _ (by positivity)
  rw [show (2 : ℝ) ^ (d + 1) = ((2 * 2 ^ d : Nat) : ℝ) by push_cast; exact pow_succ' 2 d]
  have hpos : 0 < 2 ^ d := by positivity
  have heven : 2 ^ (d + 1) = 2 * 2 ^ d := pow_succ' 2 d
  generalize hm : n / 2 ^ (d + 1) = m at *
  generalize hk : n % 2 ^ (d + 1) = k at *
  rw [heven] at hhalf hdiv hrem
  generalize 2 ^ d = P at *
  -- `t` is what lies above the cut, in units of the last bit held
  obtain ⟨t, rfl⟩ : ∃ t : ℝ, w = (2 * P * m : Nat) + t := ⟨w - (2 * P * m : Nat), by ring⟩
  have hP : (0 : ℝ) < P := by exact_mod_cast hpos
  have hn : (n : ℝ) = (2 * P * m : Nat) + k := by rw [← hdiv]; push_cast; ring
  rw [hn, add_assoc, add_lt_add_iff_left] at hhi
  rw [hn, add_le_add_iff_left] at hlo
  rw [hn, add_lt_add_iff_left] at hst
  have hk0 : (0 : ℝ) ≤ k := Nat.cast_nonneg k
  have ht : (((2 * P * m : Nat) : ℝ) + t) / ((2 * P : Nat) : ℝ) = m + t / (2 * P) := by
    push_cast
    field_simp
  have hPk : (P : ℝ) < k + 1 ↔ P ≤ k := by exact_mod_cast Nat.lt_succ_iff
  rw [ht]
  constructor
  · have h1 : t < 2 * P := lt_of_lt_of_le hhi (by exact_mod_cast hrem)
    have h2 : t / (2 * P) < 1 := (div_lt_one (by positivity)).mpr h1
    have h3 : 0 ≤ t / (2 * P) := div_nonneg (hk0.trans hlo) (by positivity)
    rw [Nat.floor_eq_iff (add_nonneg (Nat.cast_nonneg m) h3)]
    constructor <;> linarith
  · have h1 : (m : ℝ) + t / (2 * P) ≠ m ↔ t ≠ 0 := by simp [hP.ne']
    rw [h1, Bool.or_eq_true, decide_eq_true_iff, hst]
    constructor
    · rintro (h | h)
      · have : (0 : ℝ) < k := by exact_mod_cast Nat.pos_of_ne_zero h
        linarith
      · linarith
    · intro h
      by_contra hc
      push Not at hc
      obtain ⟨rfl, h2⟩ := hc
      exact h (le_antisymm (by simpa using h2) (by simpa using hlo))
  · have h1 : (m : ℝ) + 1 / 2 < m + t / (2 * P) ↔ P < t := by
      rw [add_lt_add_iff_left, lt_div_iff₀ (by positivity)]
      constructor <;> intro h <;> linarith
    rw [h1, Bool.or_eq_true, Bool.and_eq_true, beq_iff_eq, beq_iff_eq, hhalf, compare_gt_iff_gt, compare_eq_iff_eq, hst]
    constructor
    · rintro (h | ⟨h, h2⟩)
      · have : (P : ℝ) < k := by exact_mod_cast (by omega : P < k)
        linarith
      · have : (P : ℝ) = k := by exact_mod_cast (by omega : P = k)
        linarith
    · intro h
      rcases (hPk.mp (h.trans hhi)).lt_or_eq with hlt | rfl
      · exact .inl (by omega)
      · exact .inr ⟨rfl, h⟩
  · have h1 : (m : ℝ) + t / (2 * P) = m + 1 / 2 ↔ t = P := by
      rw [add_right_inj, div_eq_iff (by positivity)]
      constructor <;> intro h <;> linarith
    have hst' : sticky = false ↔ t ≤ k := by rw [← not_lt, ← hst, Bool.not_eq_true]
    rw [h1, Bool.and_eq_true, beq_iff_eq, hhalf, compare_eq_iff_eq, Bool.not_eq_true', hst']
    constructor
    · rintro ⟨h, h2⟩
      have : (P : ℝ) = k := by exact_mod_cast (by omega : P = k)
      linarith
    · rintro rfl
      have h2 : P = k := le_antisymm (hPk.mp hhi) (by exact_mod_cast hlo)
      exact ⟨by rw [h2], by rw [h2]⟩

/-- Cutting the first bits of a magnitude at an exponent above theirs, or at or below it where no more follow. -/
theorem cutAt_holds {n : Nat} {e q : Int} {sticky : Bool} {x : ℝ} (h : Begins n e sticky x) (hs : sticky = true → e < q) :
    (cutAt n e q).Holds sticky (x / 2 ^ q) := by
  obtain ⟨hlow, hhigh, hmore⟩ := h
  by_cases hq : q ≤ e
  · obtain ⟨d, rfl⟩ : ∃ d : Nat, e = q + d := ⟨(e - q).toNat, by omega⟩
    have hst : sticky = false := by
      by_contra hc
      have := hs (by simpa using hc)
      omega
    have hx : x = n * 2 ^ (q + d) := by
      by_contra hc
      rw [hst] at hmore
      exact absurd (hmore.mpr hc) (by decide)
    have hy : x / 2 ^ q = ((n * 2 ^ d : Nat) : ℝ) := by
      rw [hx, zpow_add₀ two_ne_zero, zpow_natCast]
      push_cast
      field_simp
    have hc : cutAt n (q + d) q = { m := n * 2 ^ d, rem := 0, sh := 0 } := by simp [cutAt]
    rw [hc, hy, hst]
    exact ⟨Nat.floor_natCast _, by simp, by simp [Cut.half], by simp [Cut.half]⟩
  · obtain ⟨d, rfl⟩ : ∃ d : Nat, q = e + (d + 1 : Nat) := ⟨(q - e - 1).toNat, by omega⟩
    have hc : cutAt n e (e + (d + 1 : Nat)) = { m := n / 2 ^ (d + 1), rem := n % 2 ^ (d + 1), sh := d + 1 } := by
      simp only [cutAt, if_neg hq, add_sub_cancel_left, Int.toNat_natCast]
    -- `w` is the magnitude in units of the last bit held
    have he : (0 : ℝ) < 2 ^ e := by positivity
    obtain ⟨w, rfl⟩ : ∃ w : ℝ, x = w * 2 ^ e := ⟨x / 2 ^ e, by field_simp⟩
    have hlo : (n : ℝ) ≤ w := le_of_mul_le_mul_right hlow he
    have hhi : w < n + 1 := lt_of_mul_lt_mul_right hhigh he.le
    have hst : sticky = true ↔ (n : ℝ) < w := by
      rw [hmore, Ne, mul_left_inj' he.ne', lt_iff_le_and_ne]
      exact ⟨fun hn => ⟨hlo, Ne.symm hn⟩, fun hn => Ne.symm hn.2⟩
    have hy : w * 2 ^ e / 2 ^ (e + (d + 1 : Nat)) = w / 2 ^ (d + 1) := by
      rw [zpow_add₀ two_ne_zero, zpow_natCast]
      field_simp
    rw [hc, hy]
    exact cut_holds_of_mod hlo hhi hst

/-! ### Packing -/

/-- The first value above those of a format. -/
theorem number_value_lt {f : Fmt} {m : Nat} {e : Int} (h : f.Number m e) : (m : ℝ) * 2 ^ e < 2 ^ ((f.bias : Int) + 1) := by
  have h1 : (m : ℝ) < 2 ^ (f.frac + 1) := by exact_mod_cast h.sig
  have h2 : (2 : ℝ) ^ e ≤ 2 ^ ((f.bias : Int) - f.frac) := zpow_le_zpow_right₀ one_le_two h.most
  have h3 : (2 : ℝ) ^ ((f.bias : Int) + 1) = 2 ^ (f.frac + 1) * 2 ^ ((f.bias : Int) - f.frac) := by
    rw [← zpow_natCast, ← zpow_add₀ two_ne_zero]
    congr 1
    push_cast
    omega
  rw [h3]
  calc (m : ℝ) * 2 ^ e ≤ m * 2 ^ ((f.bias : Int) - f.frac) := by gcongr
    _ < _ := by gcongr

section
variable {f : Fmt} {neg : Bool} {m : Nat} {q : Int}

theorem packF_number (h : f.Number m q) : packF f neg m q = some (f.numberBits neg m q) := by
  have hs := h.sig
  have hex := h.expField_lt
  simp only [packF, if_neg hs.ne, Fmt.numberBits, hex, if_true]
  split
  · simp [Fmt.pattern]
  · rfl

theorem packF_large (hm : 2 ^ f.frac ≤ m) (hm' : m < 2 ^ (f.frac + 1)) (hq : (f.bias : Int) - f.frac < q) : packF f neg m q = none := by
  have he := two_pow_ebits f
  have hex : ¬(q - f.qmin + 1).toNat < 2 ^ f.ebits - 1 := by have := qmin_eq f; omega
  simp only [packF, if_neg hm'.ne, if_neg (not_lt.mpr hm), if_neg hex]

theorem packF_carry : packF f neg (2 ^ (f.frac + 1)) q = packF f neg (2 ^ f.frac) (q + 1) := by
  have h : (2 : Nat) ^ f.frac ≠ 2 ^ (f.frac + 1) := (Nat.pow_lt_pow_right one_lt_two (Nat.lt_succ_self _)).ne
  simp only [packF, if_true, if_neg h]

/-- A rounded significand packs to the bits of its value where the format reaches it, and else to none. -/
theorem packF_spec (hm : m ≤ 2 ^ (f.frac + 1)) (hq : f.qmin ≤ q) (hn : q = f.qmin ∨ 2 ^ f.frac ≤ m) :
    (2 ^ ((f.bias : Int) + 1) ≤ (m : ℝ) * 2 ^ q ∧ packF f neg m q = none) ∨
    (¬2 ^ ((f.bias : Int) + 1) ≤ (m : ℝ) * 2 ^ q ∧ ∃ k j, f.Number k j ∧ packF f neg m q = some (f.numberBits neg k j) ∧
      (k : ℝ) * 2 ^ j = m * 2 ^ q ∧ k % 2 = m % 2) := by
  obtain ⟨k, j, hk, hj, hnorm, hpack, hval, hodd⟩ : ∃ k j, k < 2 ^ (f.frac + 1) ∧ f.qmin ≤ j ∧ (j = f.qmin ∨ 2 ^ f.frac ≤ k) ∧
      packF f neg m q = packF f neg k j ∧ (k : ℝ) * 2 ^ j = m * 2 ^ q ∧ k % 2 = m % 2 := by
    rcases hm.lt_or_eq with hlt | rfl
    · exact ⟨m, q, hlt, hq, hn, rfl, rfl, rfl⟩
    · refine ⟨2 ^ f.frac, q + 1, Nat.pow_lt_pow_right one_lt_two (Nat.lt_succ_self _), by omega, .inr le_rfl, packF_carry, ?_, ?_⟩
      · rw [zpow_add_one₀ two_ne_zero]
        push_cast
        ring
      · obtain ⟨d, hd⟩ := Nat.exists_eq_succ_of_ne_zero (frac_pos f).ne'
        rw [hd, pow_succ, pow_succ]
        omega
  rw [← hval, hpack]
  by_cases hmost : j ≤ (f.bias : Int) - f.frac
  · have hnum : f.Number k j := ⟨hk, hj, hmost, hnorm⟩
    exact .inr ⟨not_le.mpr (number_value_lt hnum), k, j, hnum, packF_number hnum, rfl, hodd⟩
  · have hk2 : 2 ^ f.frac ≤ k := hnorm.resolve_left (by have := qmin_eq f; have := bias_pos f; omega)
    refine .inl ⟨?_, packF_large hk2 hk (by omega)⟩
    have h1 : (2 : ℝ) ^ f.frac ≤ k := by exact_mod_cast hk2
    calc (2 : ℝ) ^ ((f.bias : Int) + 1) ≤ 2 ^ ((f.frac : Int) + j) := zpow_le_zpow_right₀ one_le_two (by omega)
      _ = 2 ^ f.frac * 2 ^ j := by rw [zpow_add₀ two_ne_zero, zpow_natCast]
      _ ≤ k * 2 ^ j := by gcongr

end

/-- No number of a format lies strictly between two neighbouring multiples of a unit, where the unit is the least one or the lower
multiple has the leading bit. -/
theorem number_not_between {f : Fmt} {k M : Nat} {j q : Int} (h : f.Number k j) (hM : q = f.qmin ∨ 2 ^ f.frac ≤ M) :
    (k : ℝ) * 2 ^ j / 2 ^ q ≤ M ∨ (M : ℝ) + 1 ≤ k * 2 ^ j / 2 ^ q := by
  have hq : (0 : ℝ) < 2 ^ q := by positivity
  by_cases hjq : q ≤ j
  · obtain ⟨d, rfl⟩ : ∃ d : Nat, j = q + d := ⟨(j - q).toNat, by omega⟩
    have hval : (k : ℝ) * 2 ^ (q + (d : Int)) / 2 ^ q = ((k * 2 ^ d : Nat) : ℝ) := by
      rw [zpow_add₀ two_ne_zero, zpow_natCast]
      push_cast
      field_simp
    rw [hval]
    exact_mod_cast Nat.lt_or_ge M (k * 2 ^ d) |>.symm.imp id id
  · have hM2 : 2 ^ f.frac ≤ M := hM.resolve_left (by have := h.least; omega)
    left
    rw [div_le_iff₀ hq]
    have h1 : (k : ℝ) ≤ 2 ^ (f.frac + 1) := by exact_mod_cast h.sig.le
    have h2 : (2 : ℝ) ^ (j + 1) ≤ 2 ^ q := zpow_le_zpow_right₀ one_le_two (by omega)
    have h3 : (2 : ℝ) ^ f.frac ≤ M := by exact_mod_cast hM2
    calc (k : ℝ) * 2 ^ j ≤ 2 ^ (f.frac + 1) * 2 ^ j := by gcongr
      _ = 2 ^ f.frac * 2 ^ (j + 1) := by rw [zpow_add_one₀ two_ne_zero]; ring
      _ ≤ M * 2 ^ q := by gcongr

end Sys2Proof.Machine
end

section
/-! SUPPORT. `roundF` rounds: what it gives for a magnitude is what 04 R83 and R84 say. -/

namespace Sys2Proof.Machine

open Sys2Proof

/-! ### When a magnitude is too large, or too small -/

/-- The magnitude rounds to more than a format holds, or to less than its least normal number. -/
def Large (f : Fmt) (r : Rnd) (neg : Bool) (c : ℚ → Ordering) : Prop :=
  let part : ℚ := 1 / 2 ^ (f.frac + 2)
  let top : ℚ := 2 ^ (f.bias + 1)
  if (r = .ru ∧ neg = false) ∨ (r = .rd ∧ neg = true) then c (top * (1 - 2 * part)) = .lt
  else if r = .rne ∨ r = .rna then c (top * (1 - part)) ≠ .gt else c top ≠ .gt
def Tiny (f : Fmt) (r : Rnd) (neg : Bool) (c : ℚ → Ordering) : Prop :=
  let part : ℚ := 1 / 2 ^ (f.frac + 2)
  let least : ℚ := 1 / 2 ^ (f.bias - 1)
  if (r = .ru ∧ neg = false) ∨ (r = .rd ∧ neg = true) then c (least * (1 - 2 * part)) ≠ .lt
  else if r = .rne ∨ r = .rna then c (least * (1 - part)) = .gt else c least = .gt

section
variable {f : Fmt} {r : Rnd} {neg : Bool} {c : ℚ → Ordering} {x : ℝ} (hc : Measures c x)
include hc

/-- How the three bounds of `Reaches` compare with a magnitude. -/
theorem reaches_iff_compare (k : Nat) {B : Int} {t : ℚ} (ht : t = 2 ^ B) : Reaches r neg k B x ↔
    (if (r = .ru ∧ neg = false) ∨ (r = .rd ∧ neg = true) then c (t * (1 - 2 * (1 / 2 ^ (k + 2)))) = .lt
      else if r = .rne ∨ r = .rna then c (t * (1 - 1 / 2 ^ (k + 2))) ≠ .gt else c t ≠ .gt) := by
  have hp (d : Nat) : (1 : ℚ) / 2 ^ d ≤ 1 := by
    rw [div_le_one (by positivity)]
    exact one_le_pow₀ one_le_two
  have htwo : 2 * ((1 : ℚ) / 2 ^ (k + 2)) = 1 / 2 ^ (k + 1) := by rw [pow_succ _ (k + 1)]; field_simp
  have h0 : 0 ≤ t := by rw [ht]; positivity
  have h1 : 0 ≤ t * (1 - 1 / 2 ^ (k + 1)) := mul_nonneg h0 (sub_nonneg.mpr (hp _))
  have h2 : 0 ≤ t * (1 - 1 / 2 ^ (k + 2)) := mul_nonneg h0 (sub_nonneg.mpr (hp _))
  rw [htwo, Ne, Ne, hc.lt_iff h1, hc.gt_iff h2, hc.gt_iff h0, not_lt, not_lt, ht]
  push_cast
  constructor
  · rintro ⟨ra, rn, rt⟩
    split
    next ha => exact ra ha
    next ha =>
      split
      next hn => exact rn ha hn
      next hn => exact rt ha hn
  · intro h
    refine ⟨fun ha => ?_, fun ha hn => ?_, fun ha hn => ?_⟩
    · rwa [if_pos ha] at h
    · rwa [if_neg ha, if_pos hn] at h
    · rwa [if_neg ha, if_neg hn] at h

theorem large_iff : Large f r neg c ↔ Reaches r neg f.frac ((f.bias : Int) + 1) x :=
  (reaches_iff_compare hc f.frac (by exact_mod_cast (zpow_natCast (2 : ℚ) (f.bias + 1)).symm)).symm

theorem tiny_iff : Tiny f r neg c ↔ ¬Reaches r neg f.frac (1 - (f.bias : Int)) x := by
  have ht : (1 : ℚ) / 2 ^ (f.bias - 1) = 2 ^ (1 - (f.bias : Int)) := by
    have := bias_pos f
    rw [one_div, ← zpow_natCast, ← zpow_neg]
    congr 1
    omega
  rw [reaches_iff_compare hc f.frac ht]
  unfold Tiny
  dsimp only
  split
  · rfl
  · split <;> rw [Ne, not_not]

/-- What `Rounds` asks where the result is a number that is not too large. -/
theorem rounds_of_number {b : DWord} {inx tiny : Bool} {k : Nat} {j : Int} (hlt : b.toNat < 2 ^ f.width) (hd : decodeF f b = .fin neg k j)
    (hlarge : ¬Reaches r neg f.frac ((f.bias : Int) + 1) x)
    (hinx : inx = true ↔ (k : ℝ) * 2 ^ j ≠ x) (htiny : tiny = true ↔ ¬Reaches r neg f.frac (1 - (f.bias : Int)) x)
    (hbest : ∀ u l, f.Number u l → Best r neg (k % 2 = 0) x (k * 2 ^ j) (u * 2 ^ l)) :
    Rounds f r neg c (b, (if inx then excInx else 0) ||| (if inx && tiny then excUnf else 0)) := by
  have hL := (large_iff (f := f) (r := r) (neg := neg) hc).not.mpr hlarge
  have hv : (0 : ℚ) ≤ k * 2 ^ j := by positivity
  have hcast (m : Nat) (e : Int) : (((m : ℚ) * 2 ^ e : ℚ) : ℝ) = m * 2 ^ e := by push_cast; rfl
  have heq : c ((k : ℚ) * 2 ^ j) = .eq ↔ (k : ℝ) * 2 ^ j = x := by rw [hc.eq_iff hv, hcast]
  unfold Rounds
  refine ⟨hlt, ?_⟩
  rw [hd]
  refine ⟨rfl, fun h => absurd h hL, fun _ => ?_, fun _ z s u l hz => ?_⟩
  · have hne : inx = true ↔ c ((k : ℚ) * 2 ^ j) ≠ .eq := by rw [hinx, Ne, Ne, heq]
    refine congrArg₂ (· ||| ·) ((if_congr hne rfl rfl).trans (ite_not ..)) (if_congr ?_ rfl rfl)
    rw [Bool.and_eq_true, hne, htiny]
    exact and_congr_right' (tiny_iff hc).symm
  · obtain ⟨ba, bb, bab, bt⟩ := hbest u l (number_of_decodeF hz)
    have hu : (0 : ℚ) ≤ u * 2 ^ l := by positivity
    have hm : (0 : ℚ) ≤ (u * 2 ^ l + k * 2 ^ j) / 2 := by positivity
    have hmc : (((u * 2 ^ l + k * 2 ^ j) / 2 : ℚ) : ℝ) = (u * 2 ^ l + k * 2 ^ j) / 2 := by push_cast; rfl
    have hle {m n : Nat} {e i : Int} : (m : ℚ) * 2 ^ e ≤ n * 2 ^ i ↔ (m : ℝ) * 2 ^ e ≤ n * 2 ^ i := by
      rw [← hcast, ← hcast, Rat.cast_le]
    have hltc {m n : Nat} {e i : Int} : (m : ℚ) * 2 ^ e < n * 2 ^ i ↔ (m : ℝ) * 2 ^ e < n * 2 ^ i := by
      rw [← hcast, ← hcast, Rat.cast_lt]
    dsimp only
    simp only [ne_eq, hc.lt_iff hv, hc.gt_iff hv, hc.lt_iff hu, hc.gt_iff hu, hc.lt_iff hm, hc.gt_iff hm, hc.eq_iff hm, hcast, hmc, hle, hltc, not_lt]
    split
    next ha => exact ba ha
    next ha =>
      split
      next hn =>
        exact ⟨fun h => ⟨(bb ha hn h).1, fun he => (bb ha hn h).2 he.symm⟩,
          fun h => ⟨(bab ha hn h).1, fun he => (bab ha hn h).2 he.symm⟩⟩
      next hn => exact bt ha hn

/-- What it asks of an overflow (04 R84). -/
theorem rounds_of_large (hlarge : Reaches r neg f.frac ((f.bias : Int) + 1) x) : Rounds f r neg c (overflowBits f r neg, excOvf ||| excInx) := by
  have hL := (large_iff (f := f) (r := r) (neg := neg) hc).mpr hlarge
  unfold Rounds
  have hb : overflowBits f r neg = if r.Away neg ∨ r.Near then infBits f neg else maxBits f neg := by
    cases r <;> cases neg <;> simp [overflowBits, Rnd.Away, Rnd.Near]
  by_cases h : r.Away neg ∨ r.Near
  · rw [hb, if_pos h]
    refine ⟨infBits_lt f neg, ?_⟩
    rw [decodeF_infBits]
    exact ⟨rfl, hL, h, rfl⟩
  · rw [hb, if_neg h]
    refine ⟨maxBits_lt f neg, ?_⟩
    rw [decodeF_maxBits]
    refine ⟨rfl, fun _ => ⟨h, ?_, rfl⟩, fun hn => absurd hL hn, fun hn => absurd hL hn⟩
    have h2 : (2 : ℚ) ^ (f.bias + 1) = 2 ^ (f.frac + 1) * 2 ^ ((f.bias : Int) - f.frac) := by
      rw [← zpow_natCast, ← zpow_natCast, ← zpow_add₀ two_ne_zero]
      congr 1
      push_cast
      omega
    rw [h2, Nat.cast_sub Nat.one_le_two_pow, pow_succ _ (f.frac + 1)]
    push_cast
    field_simp

end

/-! ### The theorem -/

theorem lt_two_pow_bitLen (n : Nat) : n < 2 ^ bitLen n := by
  unfold bitLen
  split
  · simp [*]
  · exact Nat.lt_log2_self

theorem two_pow_le_of_bitLen {n k : Nat} (h : bitLen n = k + 1) : 2 ^ k ≤ n := by
  unfold bitLen at h
  split at h
  · omega
  · obtain rfl : k = n.log2 := by omega
    exact Nat.log2_self_le ‹_›

/-- A magnitude lies below the bit above those of its beginning, and not below the highest of them. -/
theorem Begins.bounds {n : Nat} {e : Int} {sticky : Bool} {x : ℝ} (h : Begins n e sticky x) {k : Nat} (hk : bitLen n = k + 1) (q : Int) :
    2 ^ ((e + k) - q) ≤ x / 2 ^ q ∧ x / 2 ^ q < 2 ^ ((e + k) - q + 1) := by
  have h1 : (2 : ℝ) ^ k ≤ n := by exact_mod_cast two_pow_le_of_bitLen hk
  have h2 : (n : ℝ) + 1 ≤ 2 ^ (k + 1) := by exact_mod_cast hk ▸ lt_two_pow_bitLen n
  have he : (0 : ℝ) < 2 ^ e := by positivity
  rw [le_div_iff₀ (by positivity), div_lt_iff₀ (by positivity), ← zpow_add₀ two_ne_zero, ← zpow_add₀ two_ne_zero]
  constructor
  · calc (2 : ℝ) ^ (e + k - q + q) = 2 ^ k * 2 ^ e := by rw [sub_add_cancel, zpow_add₀ two_ne_zero, zpow_natCast, mul_comm]
      _ ≤ n * 2 ^ e := by gcongr
      _ ≤ x := h.low
  · calc x < (n + 1) * 2 ^ e := h.high
      _ ≤ 2 ^ (k + 1) * 2 ^ e := by gcongr
      _ = 2 ^ (e + k - q + 1 + q) := by
        rw [← zpow_natCast, ← zpow_add₀ two_ne_zero]
        congr 1
        push_cast
        ring

theorem not_reaches_zero (r : Rnd) (neg : Bool) (k : Nat) (B : Int) : ¬Reaches r neg k B 0 := by
  rintro ⟨ra, rn, rt⟩
  have hB : (0 : ℝ) < 2 ^ B := by positivity
  have hp (d : Nat) : (1 : ℝ) / 2 ^ (d + 1) < 1 := by
    rw [div_lt_one (by positivity)]
    exact one_lt_pow₀ one_lt_two d.succ_ne_zero
  by_cases ha : r.Away neg
  · nlinarith [ra ha, hp k]
  · by_cases hn : r.Near
    · nlinarith [rn ha hn, hp (k + 1)]
    · exact absurd (rt ha hn) (not_le.mpr hB)

/-- An exact zero keeps its sign and raises nothing. -/
theorem rounds_zero {f : Fmt} {r : Rnd} {neg : Bool} {c : ℚ → Ordering} (hc : Measures c 0) : Rounds f r neg c (zeroBits f neg, 0) := by
  have hv : ((0 : Nat) : ℝ) * 2 ^ f.qmin = 0 := by simp
  refine rounds_of_number (inx := false) (tiny := true) hc (zeroBits_lt f neg) (decodeF_zeroBits f neg) (not_reaches_zero r neg _ _)
    (by simp) (by simp [not_reaches_zero]) fun u l _ => ?_
  have hu : (0 : ℝ) ≤ u * 2 ^ l := by positivity
  rw [hv]
  exact ⟨fun _ => ⟨le_rfl, id⟩, fun _ _ h => ⟨by linarith, fun he => absurd he (by linarith)⟩, fun _ _ h => absurd h (not_lt.mpr hu),
    fun _ _ => ⟨le_rfl, id⟩⟩

theorem goesUp_ne {r : Rnd} {neg : Bool} {y : ℝ} (h : r.GoesUp neg y) : y ≠ ⌊y⌋₊ := by
  by_cases ha : r.Away neg
  · exact (goesUp_away ha).mp h
  · by_cases hn : r.Near
    · have := (goesUp_near hn h).1
      exact ne_of_gt (by linarith)
    · exact absurd h (goesUp_toward ha hn)

/-- Rounding to an integer is exact where the magnitude is one. -/
theorem Rounded.ne_iff {r : Rnd} {neg : Bool} {y : ℝ} {M : Nat} (h : Rounded r neg y M) : y ≠ ⌊y⌋₊ ↔ (M : ℝ) ≠ y := by
  rcases h with ⟨-, rfl⟩ | ⟨hu, rfl⟩
  · exact ne_comm
  · have := Nat.lt_floor_add_one y
    exact iff_of_true (goesUp_ne hu) (by push_cast; exact ne_of_gt this)

theorem Cut.Holds.rounded {c : Cut} {sticky : Bool} {y : ℝ} (h : c.Holds sticky y) (r : Rnd) (neg : Bool) :
    Rounded r neg y (c.m + if c.up r neg sticky then 1 else 0) := by
  by_cases hu : c.up r neg sticky = true
  · exact .inr ⟨(h.up_iff r neg).mp hu, by rw [if_pos hu, h.floor]⟩
  · exact .inl ⟨fun hg => hu ((h.up_iff r neg).mpr hg), by rw [if_neg hu, h.floor, Nat.add_zero]⟩

theorem Rounded.le_succ {r : Rnd} {neg : Bool} {y : ℝ} {M : Nat} (h : Rounded r neg y M) : ⌊y⌋₊ ≤ M ∧ M ≤ ⌊y⌋₊ + 1 := by
  rcases h with ⟨-, rfl⟩ | ⟨-, rfl⟩ <;> omega

section
variable {f : Fmt} {r : Rnd} {neg : Bool} {c : ℚ → Ordering} {x : ℝ} {qu q : Int} {M Mu : Nat}

theorem reaches_of_rounded {k : Nat} (hMu : Rounded r neg (x / 2 ^ qu) Mu) (hlo : 2 ^ k ≤ x / 2 ^ qu) (hhi : x / 2 ^ qu < 2 ^ (k + 1))
    (B : Int) : 2 ^ B ≤ (Mu : ℝ) * 2 ^ qu ↔ Reaches r neg k B x := by
  have h1 := reaches_iff (b := B - qu) hMu hlo hhi
  rw [← reaches_scale, div_mul_cancel₀ _ (by positivity)] at h1
  rw [← h1, zpow_sub₀ two_ne_zero, div_le_iff₀ (by positivity)]

/-- The least normal number is 2^(1 − bias). -/
theorem least_eq (f : Fmt) : 1 - (f.bias : Int) = f.frac + f.qmin := by rw [qmin_eq]; ring

/-- At the exponent of the format: no more bits than the significand has, and the leading one above the least exponent. -/
theorem rounded_significand (hlo : 2 ^ f.frac ≤ x / 2 ^ qu) (hhi : x / 2 ^ qu < 2 ^ (f.frac + 1))
    (hM : Rounded r neg (x / 2 ^ q) M) (hq : q = max qu f.qmin) : M ≤ 2 ^ (f.frac + 1) ∧ (q = f.qmin ∨ 2 ^ f.frac ≤ ⌊x / 2 ^ q⌋₊) := by
  have hx : 0 ≤ x := by
    have : 0 ≤ x / 2 ^ qu := le_trans (by positivity) hlo
    rwa [le_div_iff₀ (by positivity), zero_mul] at this
  have hle : x / 2 ^ q ≤ x / 2 ^ qu :=
    div_le_div_of_nonneg_left hx (by positivity) (zpow_le_zpow_right₀ one_le_two (by omega))
  have hlt : ⌊x / 2 ^ q⌋₊ < 2 ^ (f.frac + 1) := (Nat.floor_lt (by positivity)).mpr (by exact_mod_cast lt_of_le_of_lt hle hhi)
  refine ⟨by have := hM.le_succ; omega, ?_⟩
  rcases max_choice qu f.qmin with h | h
  · rw [h] at hq
    exact .inr (Nat.le_floor (by rw [hq]; exact_mod_cast hlo))
  · exact .inl (hq.trans h)

section
variable (hMu : Rounded r neg (x / 2 ^ qu) Mu) (hlo : 2 ^ f.frac ≤ x / 2 ^ qu) (hhi : x / 2 ^ qu < 2 ^ (f.frac + 1))
include hMu hlo hhi

theorem rounded_bits : 2 ^ f.frac ≤ Mu ∧ Mu ≤ 2 ^ (f.frac + 1) := by
  have hy : 0 ≤ x / 2 ^ qu := le_trans (by positivity) hlo
  have h1 : 2 ^ f.frac ≤ ⌊x / 2 ^ qu⌋₊ := Nat.le_floor (by exact_mod_cast hlo)
  have h2 : ⌊x / 2 ^ qu⌋₊ < 2 ^ (f.frac + 1) := (Nat.floor_lt hy).mpr (by exact_mod_cast hhi)
  have := hMu.le_succ
  omega

/-- Below the least normal number with the exponent unbounded is below 2^(frac + (qmin − qu)) in units of 2^qu. -/
theorem tiny_of_rounded : (decide (qu < f.qmin) && decide (Mu < 2 ^ (f.frac + (f.qmin - qu).toNat))) = true ↔
    ¬Reaches r neg f.frac (1 - (f.bias : Int)) x := by
  obtain ⟨hb, -⟩ := rounded_bits hMu hlo hhi
  have hqu : (0 : ℝ) < 2 ^ qu := by positivity
  rw [← reaches_of_rounded hMu hlo hhi, Bool.and_eq_true, decide_eq_true_iff, decide_eq_true_iff, not_le, least_eq]
  by_cases h : qu < f.qmin
  · have he : (2 : ℝ) ^ ((f.frac : Int) + f.qmin) = ((2 ^ (f.frac + (f.qmin - qu).toNat) : Nat) : ℝ) * 2 ^ qu := by
      push_cast
      rw [← zpow_natCast, ← zpow_add₀ two_ne_zero]
      congr 1
      omega
    rw [he, mul_lt_mul_iff_left₀ hqu, Nat.cast_lt, and_iff_right h]
  · refine iff_of_false (fun hc => h hc.1) (not_lt.mpr ?_)
    have h1 : (2 : ℝ) ^ f.frac ≤ Mu := by exact_mod_cast hb
    have h2 : (2 : ℝ) ^ f.qmin ≤ 2 ^ qu := zpow_le_zpow_right₀ one_le_two (by omega)
    rw [zpow_add₀ two_ne_zero, zpow_natCast]
    gcongr

variable (hM : Rounded r neg (x / 2 ^ q) M) (hq : q = max qu f.qmin)
include hM hq

theorem large_of_rounded : 2 ^ ((f.bias : Int) + 1) ≤ (M : ℝ) * 2 ^ q ↔ Reaches r neg f.frac ((f.bias : Int) + 1) x := by
  rcases max_choice qu f.qmin with h | h
  · rw [h] at hq
    subst hq
    exact reaches_of_rounded hM hlo hhi _
  · rw [h] at hq
    rw [← reaches_of_rounded hMu hlo hhi]
    have hsmall {N : Nat} {i : Int} (hN : N ≤ 2 ^ (f.frac + 1)) (hi : i ≤ f.qmin) : ¬2 ^ ((f.bias : Int) + 1) ≤ (N : ℝ) * 2 ^ i := by
      have h1 : (N : ℝ) ≤ 2 ^ (f.frac + 1) := by exact_mod_cast hN
      have := qmin_eq f
      have := bias_pos f
      rw [not_le]
      calc (N : ℝ) * 2 ^ i ≤ 2 ^ (f.frac + 1) * 2 ^ f.qmin := by
            have h2 : (2 : ℝ) ^ i ≤ 2 ^ f.qmin := zpow_le_zpow_right₀ one_le_two hi
            gcongr
        _ = 2 ^ (((f.frac + 1 : Nat) : Int) + f.qmin) := by rw [zpow_add₀ two_ne_zero, zpow_natCast]
        _ < 2 ^ ((f.bias : Int) + 1) := zpow_lt_zpow_right₀ one_lt_two (by push_cast; omega)
    exact iff_of_false (hsmall (rounded_significand hlo hhi hM (by omega)).1 hq.le)
      (hsmall (rounded_bits hMu hlo hhi).2 (by omega))

/-- A significand rounded at the exponent of the format packs to the rounding of the magnitude, or to none where that is too large. -/
theorem packF_rounds (hc : Measures c x) :
    (packF f neg M q = none ∧ Reaches r neg f.frac ((f.bias : Int) + 1) x) ∨
    ∃ b, packF f neg M q = some b ∧ ∀ inx tiny : Bool, (inx = true ↔ (M : ℝ) ≠ x / 2 ^ q) →
      (tiny = true ↔ ¬Reaches r neg f.frac (1 - (f.bias : Int)) x) →
      Rounds f r neg c (b, (if inx then excInx else 0) ||| (if inx && tiny then excUnf else 0)) := by
  have hpos : (0 : ℝ) < 2 ^ q := by positivity
  obtain ⟨hle, hnorm⟩ := rounded_significand hlo hhi hM hq
  have hlarge := large_of_rounded hMu hlo hhi hM hq
  rcases packF_spec (neg := neg) hle (by omega : f.qmin ≤ q) (hnorm.imp_right fun h => h.trans hM.le_succ.1) with
    ⟨hval, hpack⟩ | ⟨hval, k, j, hnum, hpack, hkj, hodd⟩
  · exact .inl ⟨hpack, hlarge.mp hval⟩
  · refine .inr ⟨_, hpack, fun inx tiny hinx htiny => rounds_of_number hc (numberBits_lt hnum neg) (decodeF_numberBits hnum neg)
      (fun h => hval (hlarge.mpr h)) ?_ htiny fun u l hu => ?_⟩
    · rw [hinx, hkj, Ne, Ne, eq_div_iff hpos.ne']
    · have hy : 0 ≤ x / 2 ^ q := by
        have : 0 ≤ x / 2 ^ qu := le_trans (by positivity) hlo
        rw [le_div_iff₀ (by positivity), zero_mul] at this
        positivity
      have hbest := (best_of_rounded hy hM (number_not_between hu hnorm)).scale hpos
      rwa [div_mul_cancel₀ _ hpos.ne', div_mul_cancel₀ _ hpos.ne', ← hkj, ← hodd] at hbest

end
end

/-- What `roundF` gives for an exact magnitude is its rounding. -/
theorem roundF_rounds {f : Fmt} {r : Rnd} {neg : Bool} {n : Nat} {e : Int} {sticky : Bool} {c : ℚ → Ordering} {x : ℝ}
    (hc : Measures c x) (hx : Begins n e sticky x) (hs : sticky = true → f.frac + 2 ≤ bitLen n) :
    Rounds f r neg c (roundF f r neg n e sticky) := by
  unfold roundF roundBy
  split
  next h0 =>
    obtain ⟨rfl, hst⟩ := h0
    have h0 : x = 0 := by
      by_contra h
      exact hst (hx.more.mpr (by simpa using h))
    exact rounds_zero (h0 ▸ hc)
  next h0 =>
    obtain ⟨k, hk⟩ : ∃ k, bitLen n = k + 1 := by
      refine Nat.exists_eq_succ_of_ne_zero fun hz => h0 ?_
      have hn : n = 0 := by
        unfold bitLen at hz
        split at hz
        · assumption
        · omega
      exact ⟨hn, fun h => by have := hs h; omega⟩
    dsimp only
    generalize hqu : e + (bitLen n : Int) - ((f.frac : Int) + 1) = qu
    generalize hq : max qu f.qmin = q
    have hcut := cutAt_holds hx (q := q) fun h => by have := hs h; omega
    have hcutu := cutAt_holds hx (q := qu) fun h => by have := hs h; omega
    have hround := hcut.rounded r neg
    have hroundu := hcutu.rounded r neg
    obtain ⟨hlo, hhi⟩ := hx.bounds hk qu
    rw [show e + (k : Int) - qu = f.frac by omega] at hlo hhi
    rw [zpow_natCast] at hlo
    have hhi : x / 2 ^ qu < 2 ^ (f.frac + 1) := by exact_mod_cast hhi
    rcases packF_rounds hroundu hlo hhi hround hq.symm hc with ⟨hpack, hlarge⟩ | ⟨b, hpack, hb⟩
    · rw [hpack]
      exact rounds_of_large hc hlarge
    · rw [hpack]
      refine hb _ _ ?_ (tiny_of_rounded hroundu hlo hhi)
      have hne := hround.ne_iff
      rw [hcut.floor] at hne
      exact hcut.exact.trans hne

end Sys2Proof.Machine
end

section
/-! SUPPORT. Exact results and their roundings: numbers of a format, sums, products, quotients and roots (04 R83, R84; 07 R180,
R183). -/

namespace Sys2Proof.Machine

open Sys2Proof

/-! ### A number of the format is its own rounding -/

/-- The greatest value of a format. -/
theorem number_value_le {f : Fmt} {u : Nat} {l : Int} (h : f.Number u l) :
    (u : ℝ) * 2 ^ l ≤ 2 ^ ((f.bias : Int) + 1) * (1 - 1 / 2 ^ (f.frac + 1)) := by
  have h1 : (u : ℝ) ≤ 2 ^ (f.frac + 1) - 1 := by
    rw [le_sub_iff_add_le]
    exact_mod_cast h.sig
  have h2 : (2 : ℝ) ^ l ≤ 2 ^ ((f.bias : Int) - f.frac) := zpow_le_zpow_right₀ one_le_two h.most
  have h3 : (2 : ℝ) ^ ((f.bias : Int) + 1) = 2 ^ (f.frac + 1) * 2 ^ ((f.bias : Int) - f.frac) := by
    rw [← zpow_natCast, ← zpow_add₀ two_ne_zero]
    congr 1
    push_cast
    omega
  calc (u : ℝ) * 2 ^ l ≤ (2 ^ (f.frac + 1) - 1) * 2 ^ ((f.bias : Int) - f.frac) := by
        have : (0 : ℝ) ≤ 2 ^ (f.frac + 1) - 1 := sub_nonneg.mpr (one_le_pow₀ one_le_two)
        gcongr
    _ = _ := by rw [h3]; field_simp

theorem not_reaches_number {f : Fmt} {u : Nat} {l : Int} (h : f.Number u l) (r : Rnd) (neg : Bool) :
    ¬Reaches r neg f.frac ((f.bias : Int) + 1) (u * 2 ^ l) := by
  have hle := number_value_le h
  have htop : (0 : ℝ) < 2 ^ ((f.bias : Int) + 1) := by positivity
  have hhalf : (1 : ℝ) / 2 ^ (f.frac + 2) < 1 / 2 ^ (f.frac + 1) :=
    one_div_lt_one_div_of_lt (by positivity) (pow_lt_pow_right₀ one_lt_two (by omega))
  have hpos : (0 : ℝ) < 1 / 2 ^ (f.frac + 1) := by positivity
  rintro ⟨ra, rn, rt⟩
  by_cases ha : r.Away neg
  · exact absurd (ra ha) (not_lt.mpr hle)
  · by_cases hn : r.Near
    · nlinarith [rn ha hn]
    · nlinarith [rt ha hn]

/-- The rounding of a number of the format is that number. -/
theorem rounds_number {f : Fmt} {r : Rnd} {neg : Bool} {c : ℚ → Ordering} {y : FRes} {u : Nat} {l : Int} (hn : f.Number u l)
    (hc : Measures c (u * 2 ^ l)) (h : Rounds f r neg c y) : y = (f.numberBits neg u l, 0) := by
  have hlarge : ¬Large f r neg c := (large_iff hc).not.mpr (not_reaches_number hn r neg)
  unfold Rounds at h
  obtain ⟨hlt, h⟩ := h
  have hcast (m : Nat) (e : Int) : (((m : ℚ) * 2 ^ e : ℚ) : ℝ) = m * 2 ^ e := by push_cast; rfl
  have hx0 : (0 : ℚ) ≤ u * 2 ^ l := by positivity
  split at h
  · exact h.elim
  · exact absurd h.2.1 hlarge
  next n m e hd =>
    obtain ⟨rfl, -, hexc, hbest⟩ := h
    have hv0 : (0 : ℚ) ≤ m * 2 ^ e := by positivity
    have heq : (m : ℚ) * 2 ^ e = u * 2 ^ l := by
      have hb := hbest hlarge (f.numberBits false u l) false u l (decodeF_numberBits hn false)
      have hm0 : (0 : ℚ) ≤ (u * 2 ^ l + m * 2 ^ e) / 2 := by positivity
      have hlv : c (m * 2 ^ e) = .lt ↔ (m : ℚ) * 2 ^ e < u * 2 ^ l := by rw [hc.lt_iff hv0, ← hcast u l, Rat.cast_lt]
      have hgv : c (m * 2 ^ e) = .gt ↔ (u : ℚ) * 2 ^ l < m * 2 ^ e := by rw [hc.gt_iff hv0, ← hcast u l, Rat.cast_lt]
      have hlu : c (u * 2 ^ l) = .eq := by rw [hc.eq_iff hx0, hcast]
      have hlm : c ((u * 2 ^ l + m * 2 ^ e) / 2) = .lt ↔ (u * 2 ^ l + m * 2 ^ e : ℚ) / 2 < u * 2 ^ l := by
        rw [hc.lt_iff hm0, ← hcast u l, Rat.cast_lt]
      have hgm : c ((u * 2 ^ l + m * 2 ^ e) / 2) = .gt ↔ (u : ℚ) * 2 ^ l < (u * 2 ^ l + m * 2 ^ e) / 2 := by
        rw [hc.gt_iff hm0, ← hcast u l, Rat.cast_lt]
      dsimp only at hb
      simp only [ne_eq, hlv, hgv, hlm, hgm, hlu, not_lt] at hb
      split at hb
      · exact le_antisymm (hb.2 nofun) hb.1
      · split at hb
        · rcases lt_trichotomy ((m : ℚ) * 2 ^ e) (u * 2 ^ l) with hlt' | heq | hgt
          · have := (hb.1 hlt').1
            linarith
          · exact heq
          · have := (hb.2 hgt).1
            linarith
        · exact le_antisymm hb.1 (hb.2 nofun)
    obtain ⟨rfl, rfl⟩ := (number_of_decodeF hd).unique hn heq
    refine Prod.ext ?_ ?_
    · rw [← own_of_decodeF hd, Fmt.own, Nat.mod_eq_of_lt hlt, BitVec.ofNat_toNat, BitVec.setWidth_eq]
    · have hceq : c ((m : ℚ) * 2 ^ e) = .eq := by rw [hc.eq_iff hv0, hcast]
      rw [hexc hlarge]
      simp [hceq]

/-- A rational magnitude that is given exactly. -/
theorem roundF_exact {f : Fmt} {r : Rnd} {neg : Bool} {m : Nat} {e : Int} {x : ℚ} (hx : |x| = m * 2 ^ e) :
    Rounds f r neg (against x) (roundF f r neg m e false) := by
  refine roundF_rounds (measures_against x) ?_ nofun
  rw [hx]
  push_cast
  exact begins_exact m e

theorem roundF_eq_number {f : Fmt} {r : Rnd} {neg : Bool} {m u : Nat} {e l : Int} (hn : f.Number u l)
    (hv : (m : ℚ) * 2 ^ e = u * 2 ^ l) : roundF f r neg m e false = (f.numberBits neg u l, 0) := by
  refine rounds_number hn ?_ (roundF_exact (x := (u : ℚ) * 2 ^ l) (by rw [hv, abs_of_nonneg (by positivity)]))
  have h := measures_against ((u : ℚ) * 2 ^ l)
  rw [abs_of_nonneg (by positivity)] at h
  push_cast at h
  exact h

/-! ### Encoding what bits decode to -/

theorem encodeF_decodeF {f : Fmt} {x : DWord} (h : (decodeF f x).isNan = false) : encodeF f (decodeF f x) = f.own x := by
  cases hd : decodeF f x with
  | nan s => rw [hd] at h; cases h
  | inf n => exact (own_of_inf hd).symm
  | fin n m e =>
    rw [own_of_decodeF hd, encodeF, roundF_eq_number (number_of_decodeF hd) rfl]

theorem own_of_lt {f : Fmt} {x : DWord} (h : x.toNat < 2 ^ f.width) : f.own x = x := by
  rw [Fmt.own, Nat.mod_eq_of_lt h, BitVec.ofNat_toNat, BitVec.setWidth_eq]

theorem encodeF_value {f : Fmt} {s : Bool} {ex fr : Nat} (hex : ex < 2 ^ f.ebits) (hfr : fr < 2 ^ f.frac)
    (h : (f.value s ex fr).isNan = false) : encodeF f (f.value s ex fr) = BitVec.ofNat 64 (f.pattern s ex fr) := by
  rw [← decodeF_pattern f s hex hfr] at h ⊢
  rw [encodeF_decodeF h, own_of_lt]
  rw [toNat_pattern f s hex hfr]
  exact pattern_lt f s hex hfr

/-! ### Sums and products -/

theorem FVal.rat_fin (n : Bool) (m : Nat) (e : Int) : (FVal.fin n m e).rat = (if n then -1 else 1) * (m * 2 ^ e) := rfl

theorem abs_rat_fin (n : Bool) (m : Nat) (e : Int) : |(FVal.fin n m e).rat| = m * 2 ^ e := by
  have h : (0 : ℚ) ≤ m * 2 ^ e := by positivity
  cases n <;> simp [FVal.rat_fin, abs_of_nonneg h]

theorem rat_fin_eq_zero {n : Bool} {m : Nat} {e : Int} : (FVal.fin n m e).rat = 0 ↔ m = 0 := by
  rw [← abs_eq_zero, abs_rat_fin]
  simp [zpow_ne_zero]

theorem scaled_eq (n : Bool) (m : Nat) {e q : Int} (h : q ≤ e) : (scaled n m e q : ℚ) * 2 ^ q = (FVal.fin n m e).rat := by
  obtain ⟨d, rfl⟩ : ∃ d : Nat, e = q + d := ⟨(e - q).toNat, by omega⟩
  have hd : (q + d - q).toNat = d := by omega
  rw [FVal.rat_fin, zpow_add₀ two_ne_zero, zpow_natCast]
  cases n <;> simp only [scaled, hd] <;> push_cast <;> simp <;> ring

/-- The parts of an exact sum are its magnitude and its sign. -/
theorem sumFin_spec (r : Rnd) (n1 n2 : Bool) (m1 m2 : Nat) (e1 e2 : Int) :
    ∃ m e, sumFin r n1 m1 e1 n2 m2 e2 = (sumSign r n1 n2 ((FVal.fin n1 m1 e1).rat + (FVal.fin n2 m2 e2).rat), m, e) ∧
      |(FVal.fin n1 m1 e1).rat + (FVal.fin n2 m2 e2).rat| = m * 2 ^ e := by
  set q := min e1 e2
  set x := scaled n1 m1 e1 q + scaled n2 m2 e2 q with hx
  have hpos : (0 : ℚ) < 2 ^ q := by positivity
  have hsum : (FVal.fin n1 m1 e1).rat + (FVal.fin n2 m2 e2).rat = (x : ℚ) * 2 ^ q := by
    rw [← scaled_eq n1 m1 (min_le_left e1 e2), ← scaled_eq n2 m2 (min_le_right e1 e2), hx]
    push_cast
    ring
  have habs : |(x : ℚ) * 2 ^ q| = (x.natAbs : ℚ) * 2 ^ q := by
    rw [abs_mul, abs_of_pos hpos, Nat.cast_natAbs, Int.cast_abs]
  have heq : sumFin r n1 m1 e1 n2 m2 e2 = if x = 0 then (if n1 = n2 then n1 else r == .rd, 0, q) else (decide (x < 0), x.natAbs, q) := rfl
  rw [hsum, heq]
  by_cases h0 : x = 0
  · exact ⟨0, q, by simp [h0, sumSign], by simp [h0]⟩
  · refine ⟨x.natAbs, q, ?_, habs⟩
    have hne : (x : ℚ) * 2 ^ q ≠ 0 := mul_ne_zero (by exact_mod_cast h0) hpos.ne'
    have hneg : (x : ℚ) * 2 ^ q < 0 ↔ x < 0 := by
      rw [← Int.cast_lt_zero (R := ℚ)]
      exact ⟨fun h => neg_of_mul_neg_left h hpos.le, fun h => mul_neg_of_neg_of_pos h hpos⟩
    rw [if_neg h0, sumSign, if_neg hne]
    simp only [hneg]

theorem abs_rat_mul (n1 n2 : Bool) (m1 m2 : Nat) (e1 e2 : Int) :
    |(FVal.fin n1 m1 e1).rat * (FVal.fin n2 m2 e2).rat| = ((m1 * m2 : Nat) : ℚ) * 2 ^ (e1 + e2) := by
  rw [abs_mul, abs_rat_fin, abs_rat_fin, zpow_add₀ two_ne_zero]
  push_cast
  ring

theorem addF_rounds (f : Fmt) (r : Rnd) (n1 n2 : Bool) (m1 m2 : Nat) (e1 e2 : Int) :
    let x := (FVal.fin n1 m1 e1).rat + (FVal.fin n2 m2 e2).rat
    Rounds f r (sumSign r n1 n2 x) (against x) (addF f r (.fin n1 m1 e1) (.fin n2 m2 e2)) := by
  obtain ⟨m, e, hs, hx⟩ := sumFin_spec r n1 n2 m1 m2 e1 e2
  simp only [addF, hs]
  exact roundF_exact hx

theorem mulF_rounds (f : Fmt) (r : Rnd) (n1 n2 : Bool) (m1 m2 : Nat) (e1 e2 : Int) :
    Rounds f r (n1 != n2) (against ((FVal.fin n1 m1 e1).rat * (FVal.fin n2 m2 e2).rat)) (mulF f r (.fin n1 m1 e1) (.fin n2 m2 e2)) :=
  roundF_exact (abs_rat_mul ..)

/-- The exact product as a value. -/
theorem rat_mul (n1 n2 : Bool) (m1 m2 : Nat) (e1 e2 : Int) :
    (FVal.fin (n1 != n2) (m1 * m2) (e1 + e2)).rat = (FVal.fin n1 m1 e1).rat * (FVal.fin n2 m2 e2).rat := by
  simp only [FVal.rat_fin, zpow_add₀ (two_ne_zero' ℚ)]
  cases n1 <;> cases n2 <;> push_cast <;> simp <;> ring

theorem fmaF_fin (f : Fmt) (r : Rnd) (n1 n2 n3 : Bool) (m1 m2 m3 : Nat) (e1 e2 e3 : Int) :
    fmaF f r (.fin n3 m3 e3) (.fin n1 m1 e1) (.fin n2 m2 e2) = addF f r (.fin n3 m3 e3) (.fin (n1 != n2) (m1 * m2) (e1 + e2)) := by
  cases m1 <;> cases m2 <;> rfl

/-! ### Quotients and roots -/

/-- A magnitude in units of the last bit held. -/
theorem begins_scaled {n : Nat} {sticky : Bool} {w : ℝ} (e : Int) (hlo : (n : ℝ) ≤ w) (hhi : w < n + 1)
    (hst : sticky = true ↔ w ≠ n) : Begins n e sticky (w * 2 ^ e) := by
  have he : (0 : ℝ) < 2 ^ e := by positivity
  refine ⟨mul_le_mul_of_nonneg_right hlo he.le, mul_lt_mul_of_pos_right hhi he, ?_⟩
  rw [hst, Ne, Ne, mul_left_inj' he.ne']

theorem le_bitLen {n k : Nat} (h : 2 ^ k ≤ n) : k + 1 ≤ bitLen n := by
  have h0 : n ≠ 0 := by have := Nat.two_pow_pos k; omega
  rw [bitLen, if_neg h0]
  exact Nat.succ_le_succ ((Nat.le_log2 h0).mpr h)

theorem divF_fin {f : Fmt} {r : Rnd} {n1 n2 : Bool} {m1 m2 : Nat} {e1 e2 : Int} (h2 : m2 ≠ 0) (h1 : m1 ≠ 0) :
    divF f r (.fin n1 m1 e1) (.fin n2 m2 e2) = roundF f r (n1 != n2) (m1 * 2 ^ (f.frac + 4 + bitLen m2) / m2)
      (e1 - e2 - ((f.frac + 4 + bitLen m2 : Nat) : Int)) (decide (m1 * 2 ^ (f.frac + 4 + bitLen m2) % m2 ≠ 0)) := by
  simp only [divF, if_neg h2, if_neg h1]

theorem divF_rounds (f : Fmt) (r : Rnd) (n1 n2 : Bool) {m1 m2 : Nat} (e1 e2 : Int) (h2 : m2 ≠ 0) :
    Rounds f r (n1 != n2) (against ((FVal.fin n1 m1 e1).rat / (FVal.fin n2 m2 e2).rat)) (divF f r (.fin n1 m1 e1) (.fin n2 m2 e2)) := by
  set x := (FVal.fin n1 m1 e1).rat / (FVal.fin n2 m2 e2).rat with hx
  by_cases h1 : m1 = 0
  · have h0 : x = 0 := by rw [hx, rat_fin_eq_zero.mpr h1, zero_div]
    have hm := measures_against x
    simp only [h0, abs_zero, Rat.cast_zero] at hm
    simp only [divF, if_neg h2, if_pos h1, h0]
    exact rounds_zero hm
  · rw [divF_fin h2 h1]
    generalize hk : f.frac + 4 + bitLen m2 = k
    have hpos : (0 : ℝ) < m2 := by exact_mod_cast Nat.pos_of_ne_zero h2
    have hdiv := Nat.div_add_mod (m1 * 2 ^ k) m2
    have hmod := Nat.mod_lt (m1 * 2 ^ k) (Nat.pos_of_ne_zero h2)
    have hbits : 2 ^ (f.frac + 4) ≤ m1 * 2 ^ k / m2 := by
      rw [Nat.le_div_iff_mul_le (Nat.pos_of_ne_zero h2), ← hk, pow_add _ _ (bitLen m2)]
      calc 2 ^ (f.frac + 4) * m2 ≤ 2 ^ (f.frac + 4) * 2 ^ bitLen m2 := Nat.mul_le_mul_left _ (lt_two_pow_bitLen m2).le
        _ ≤ m1 * (2 ^ (f.frac + 4) * 2 ^ bitLen m2) := Nat.le_mul_of_pos_left _ (Nat.pos_of_ne_zero h1)
    generalize m1 * 2 ^ k / m2 = q at *
    generalize hrem : m1 * 2 ^ k % m2 = t at *
    have hval : (m1 : ℝ) * 2 ^ k = m2 * q + t := by exact_mod_cast hdiv.symm
    have hw : (m1 : ℝ) * 2 ^ k / m2 = q + t / m2 := by rw [hval]; field_simp
    have ht : (t : ℝ) / m2 < 1 := (div_lt_one hpos).mpr (by exact_mod_cast hmod)
    have ht0 : (0 : ℝ) ≤ t / m2 := by positivity
    have hmag : ((|x| : ℚ) : ℝ) = m1 * 2 ^ k / m2 * 2 ^ (e1 - e2 - (k : Int)) := by
      rw [hx, abs_div, abs_rat_fin, abs_rat_fin, zpow_sub₀ two_ne_zero, zpow_sub₀ two_ne_zero, zpow_natCast]
      push_cast
      field_simp
    refine roundF_rounds (measures_against x) ?_ fun _ => le_trans (by omega) (le_bitLen hbits)
    rw [hmag, hw]
    refine begins_scaled _ (by linarith) (by linarith) ?_
    simp [hpos.ne']

/-- What the bit-by-bit root keeps: the bits found so far are not too large, and with the next one they would be. -/
theorem isqrtGo_spec (n : Nat) : ∀ i r, r * r ≤ n → n < (r + 2 ^ i) * (r + 2 ^ i) →
    isqrtGo n i r * isqrtGo n i r ≤ n ∧ n < (isqrtGo n i r + 1) * (isqrtGo n i r + 1)
  | 0, r, hlo, hhi => ⟨hlo, hhi⟩
  | i + 1, r, hlo, hhi => by
    rw [isqrtGo]
    split
    next h =>
      refine isqrtGo_spec n i _ h ?_
      rwa [add_assoc, ← two_mul, ← pow_succ']
    next h => exact isqrtGo_spec n i r hlo (not_le.mp h)

theorem isqrt_spec (n : Nat) : isqrt n * isqrt n ≤ n ∧ n < (isqrt n + 1) * (isqrt n + 1) := by
  refine isqrtGo_spec n _ 0 (by omega) (lt_of_lt_of_le (lt_two_pow_bitLen n) ?_)
  rw [zero_add, ← pow_add]
  exact Nat.pow_le_pow_right (by decide) (by omega)

theorem le_isqrt {n k : Nat} (h : k * k ≤ n) : k ≤ isqrt n := by
  by_contra hc
  have h1 : isqrt n + 1 ≤ k := by omega
  have h2 := (isqrt_spec n).2
  have h3 := Nat.mul_le_mul h1 h1
  omega

/-- The integer root begins the root of a real number between the integers around it. -/
theorem begins_isqrt {n : Nat} {sticky : Bool} {z : ℝ} (e : Int) (hlo : (n : ℝ) ≤ z) (hhi : z < n + 1)
    (hst : sticky = true ↔ ((isqrt n * isqrt n : Nat) : ℝ) ≠ z) : Begins (isqrt n) e sticky (√z * 2 ^ e) := by
  obtain ⟨h1, h2⟩ := isqrt_spec n
  generalize isqrt n = q at *
  have hz : 0 ≤ z := le_trans (Nat.cast_nonneg n) hlo
  have hle : ((q * q : Nat) : ℝ) ≤ z := le_trans (by exact_mod_cast h1) hlo
  have hlt : z < ((q : ℝ) + 1) * (q + 1) := by
    refine lt_of_lt_of_le hhi ?_
    exact_mod_cast h2
  push_cast at hle hst
  refine begins_scaled e (Real.le_sqrt_of_sq_le (by nlinarith)) ?_ ?_
  · rw [Real.sqrt_lt' (by positivity)]
    nlinarith
  · rw [hst, Ne, Ne, Real.sqrt_eq_iff_mul_self_eq hz (Nat.cast_nonneg q), eq_comm]

theorem measures_of {c : ℚ → Ordering} {x : ℝ} (hlt : ∀ q : ℚ, 0 ≤ q → (c q = .lt ↔ (q : ℝ) < x))
    (heq : ∀ q : ℚ, 0 ≤ q → (c q = .eq ↔ (q : ℝ) = x)) : Measures c x := by
  intro q hq
  rcases lt_trichotomy (q : ℝ) x with h | h | h
  · rw [(hlt q hq).mpr h, compare_lt_iff_lt.mpr h]
  · rw [(heq q hq).mpr h, compare_eq_iff_eq.mpr h]
  · have h1 := (hlt q hq).not.mpr h.le.not_gt
    have h2 := (heq q hq).not.mpr h.ne'
    rw [compare_gt_iff_gt.mpr h]
    cases hc : c q <;> simp_all

theorem measures_sqrt {a : ℚ} (ha : 0 ≤ a) : Measures (fun q => compare (q * q) a) (√(a : ℝ)) := by
  have hcast (q : ℚ) : ((q * q : ℚ) : ℝ) = (q : ℝ) ^ 2 := by push_cast; ring
  refine measures_of (fun q hq => ?_) fun q hq => ?_
  · rw [compare_lt_iff_lt, Real.lt_sqrt (by exact_mod_cast hq), ← hcast, Rat.cast_lt]
  · rw [compare_eq_iff_eq, eq_comm (b := √(a : ℝ)), Real.sqrt_eq_iff_mul_self_eq (by exact_mod_cast ha) (by exact_mod_cast hq),
      eq_comm]
    exact_mod_cast Iff.rfl

theorem measures_rsqrt {a : ℚ} (ha : 0 < a) : Measures (fun q => compare (q * q * a) 1) (√((1 / a : ℚ) : ℝ)) := by
  intro q hq
  rw [← measures_sqrt (one_div_pos.mpr ha).le q hq]
  have h1 : compare (q * q * a) 1 = compare (q * q * a) (1 / a * a) := by rw [one_div_mul_cancel ha.ne']
  refine h1.trans ?_
  change compare (q * q * a) (1 / a * a) = compare (q * q) (1 / a)
  rcases lt_trichotomy (q * q) (1 / a) with h | h | h
  · rw [compare_lt_iff_lt.mpr h, compare_lt_iff_lt.mpr (mul_lt_mul_of_pos_right h ha)]
  · rw [compare_eq_iff_eq.mpr h, compare_eq_iff_eq.mpr (by rw [h])]
  · rw [compare_gt_iff_gt.mpr h, compare_gt_iff_gt.mpr (mul_lt_mul_of_pos_right h ha)]

/-- A significand at an even exponent. -/
def evenPart (m : Nat) (e : Int) : Nat := if e % 2 = 0 then m else 2 * m
def evenExp (e : Int) : Int := if e % 2 = 0 then e else e - 1

theorem evenExp_half (e : Int) : evenExp e = 2 * (evenExp e / 2) := by unfold evenExp; split <;> omega

theorem evenPart_value (m : Nat) (e : Int) : (evenPart m e : ℚ) * 2 ^ evenExp e = m * 2 ^ e := by
  unfold evenPart evenExp
  split
  · rfl
  · rw [zpow_sub₀ two_ne_zero]
    push_cast
    field_simp

theorem evenPart_pos {m : Nat} (e : Int) (h : m ≠ 0) : 1 ≤ evenPart m e := by unfold evenPart; split <;> omega

theorem sqrt_scaled {z : ℝ} (hz : 0 ≤ z) (e : Int) : √(z * 2 ^ (2 * e)) = √z * 2 ^ e := by
  rw [Real.sqrt_mul hz, two_mul, zpow_add₀ two_ne_zero, Real.sqrt_mul_self (by positivity)]

theorem sqrtF_rounds (f : Fmt) (r : Rnd) (m : Nat) (e : Int) :
    Rounds f r false (fun q => compare (q * q) (FVal.fin false m e).rat) (sqrtF f r (.fin false m e)) := by
  have hrat : (FVal.fin false m e).rat = m * 2 ^ e := by simp [FVal.rat_fin]
  have hnn : (0 : ℚ) ≤ m * 2 ^ e := by positivity
  rw [hrat]
  by_cases h0 : m = 0
  · have hm := measures_sqrt (a := (m : ℚ) * 2 ^ e) hnn
    simp only [h0, Nat.cast_zero, zero_mul, Rat.cast_zero, Real.sqrt_zero] at hm
    simp only [sqrtF, h0, if_true, Nat.cast_zero, zero_mul]
    exact rounds_zero hm
  · have heq : sqrtF f r (.fin false m e) = roundF f r false (isqrt (evenPart m e * 2 ^ (2 * (f.frac + 4))))
        (evenExp e / 2 - ((f.frac + 4 : Nat) : Int)) (decide (isqrt (evenPart m e * 2 ^ (2 * (f.frac + 4))) *
          isqrt (evenPart m e * 2 ^ (2 * (f.frac + 4))) ≠ evenPart m e * 2 ^ (2 * (f.frac + 4)))) := by
      simp only [sqrtF, if_neg h0, evenPart, evenExp]
      rfl
    rw [heq]
    obtain ⟨k, hk⟩ : ∃ k, f.frac + 4 = k := ⟨_, rfl⟩
    rw [hk]
    set h := evenExp e / 2
    have hroot : √(((m * 2 ^ e : ℚ)) : ℝ) = √((evenPart m e * 2 ^ (2 * k) : Nat) : ℝ) * 2 ^ (h - k) := by
      rw [← sqrt_scaled (by positivity), ← evenPart_value m e, evenExp_half e]
      push_cast
      rw [mul_assoc, ← zpow_natCast (2 : ℝ) (2 * k), ← zpow_add₀ two_ne_zero]
      congr 3
      push_cast
      ring
    have hbits : 2 ^ k ≤ isqrt (evenPart m e * 2 ^ (2 * k)) := by
      refine le_isqrt ?_
      rw [← pow_add, ← two_mul]
      exact Nat.le_mul_of_pos_left _ (evenPart_pos e h0)
    refine roundF_rounds (measures_sqrt hnn) ?_ fun _ => le_trans (by omega) (le_bitLen hbits)
    rw [hroot]
    exact begins_isqrt _ le_rfl (lt_add_one _) (by rw [decide_eq_true_iff, Ne, Ne, Nat.cast_inj])

theorem rsqF_rounds (f : Fmt) {m : Nat} (e : Int) (h0 : m ≠ 0) :
    Rounds f .rne false (fun q => compare (q * q * (FVal.fin false m e).rat) 1) (rsqF f (.fin false m e)) := by
  have hrat : (FVal.fin false m e).rat = m * 2 ^ e := by simp [FVal.rat_fin]
  have hpos : (0 : ℚ) < m * 2 ^ e := by
    have : (0 : ℚ) < m := by exact_mod_cast Nat.pos_of_ne_zero h0
    positivity
  rw [hrat]
  have heq : rsqF f (.fin false m e) = roundF f .rne false (isqrt (2 ^ (2 * (f.frac + 4 + bitLen (evenPart m e))) / evenPart m e))
      (-(evenExp e / 2) - ((f.frac + 4 + bitLen (evenPart m e) : Nat) : Int))
      (decide (isqrt (2 ^ (2 * (f.frac + 4 + bitLen (evenPart m e))) / evenPart m e) *
        isqrt (2 ^ (2 * (f.frac + 4 + bitLen (evenPart m e))) / evenPart m e) * evenPart m e ≠
          2 ^ (2 * (f.frac + 4 + bitLen (evenPart m e))))) := by
    simp only [rsqF, if_neg h0, evenPart, evenExp]
    rfl
  rw [heq]
  have hM := evenPart_pos e h0
  have hval := evenPart_value m e
  rw [evenExp_half] at hval
  generalize evenExp e / 2 = h at *
  generalize evenPart m e = M at *
  obtain ⟨k, hk⟩ : ∃ k, f.frac + 4 + bitLen M = k := ⟨_, rfl⟩
  rw [hk]
  have hMpos : (0 : ℝ) < M := by exact_mod_cast hM
  set n := 2 ^ (2 * k) / M with hn
  set z : ℝ := 2 ^ (2 * k) / M with hz
  have hroot : √((1 / (m * 2 ^ e) : ℚ) : ℝ) = √z * 2 ^ (-h - (k : Int)) := by
    rw [← sqrt_scaled (by positivity), ← hval, hz]
    push_cast
    rw [show 2 * (-h - (k : Int)) = -(2 * h) - ((2 * k : Nat) : Int) by push_cast; ring, zpow_sub₀ two_ne_zero, zpow_neg, zpow_natCast]
    congr 1
    field_simp
  have hdiv : M * n + 2 ^ (2 * k) % M = 2 ^ (2 * k) := Nat.div_add_mod ..
  have hmod := Nat.mod_lt (2 ^ (2 * k)) hM
  have hlo : (n : ℝ) ≤ z := by
    rw [hz, le_div_iff₀ hMpos]
    exact_mod_cast (by rw [Nat.mul_comm n M]; omega : n * M ≤ 2 ^ (2 * k))
  have hhi : z < n + 1 := by
    rw [hz, div_lt_iff₀ hMpos]
    exact_mod_cast (by rw [Nat.succ_mul n M, Nat.mul_comm n M]; omega : 2 ^ (2 * k) < (n + 1) * M)
  have hbits : 2 ^ (f.frac + 4) ≤ isqrt n := by
    refine le_isqrt ?_
    rw [hn, Nat.le_div_iff_mul_le hM, ← pow_add]
    calc 2 ^ (f.frac + 4 + (f.frac + 4)) * M ≤ 2 ^ (f.frac + 4 + (f.frac + 4)) * 2 ^ bitLen M :=
          Nat.mul_le_mul_left _ (lt_two_pow_bitLen M).le
      _ = 2 ^ (f.frac + 4 + (f.frac + 4) + bitLen M) := (pow_add ..).symm
      _ ≤ 2 ^ (2 * k) := Nat.pow_le_pow_right (by decide) (by omega)
  refine roundF_rounds (measures_rsqrt hpos) ?_ fun _ => le_trans (by omega) (le_bitLen hbits)
  rw [hroot]
  refine begins_isqrt _ hlo hhi ?_
  rw [decide_eq_true_iff, Ne, Ne, hz, eq_div_iff hMpos.ne']
  exact_mod_cast Iff.rfl

end Sys2Proof.Machine
end

section
/-! SUPPORT. The functions of one operand that are not transcendental: integral values, sign changes, the class mask, special
operands (07 R182 to R185). -/

namespace Sys2Proof.Machine

open Sys2Proof

/-! ### Rounding to an integral value -/

/-- Whether a rational magnitude goes up to the next integer. -/
def Rnd.RatUp (r : Rnd) (neg : Bool) (z : ℚ) : Prop :=
  match r with
  | .rne => 1 / 2 < z - ⌊z⌋ ∨ (z - ⌊z⌋ = 1 / 2 ∧ ⌊z⌋ % 2 = 1)
  | .rz => False
  | .ru => 0 < z - ⌊z⌋ ∧ neg = false
  | .rd => 0 < z - ⌊z⌋ ∧ neg = true
  | .rna => 1 / 2 ≤ z - ⌊z⌋

theorem natFloor_cast {z : ℚ} (h : 0 ≤ z) : ((⌊(z : ℝ)⌋₊ : Nat) : Int) = ⌊z⌋ := by
  rw [Int.natCast_floor_eq_floor (by exact_mod_cast h), Rat.floor_cast]

theorem goesUp_iff_ratUp {r : Rnd} {neg : Bool} {z : ℚ} (h : 0 ≤ z) : r.GoesUp neg z ↔ r.RatUp neg z := by
  have hfl := natFloor_cast h
  have hle := Int.floor_le z
  have hc : (⌊(z : ℝ)⌋₊ : ℝ) = ((⌊z⌋ : ℚ) : ℝ) := by
    rw [← hfl]
    push_cast
    rfl
  have hodd : ⌊(z : ℝ)⌋₊ % 2 = 1 ↔ ⌊z⌋ % 2 = 1 := by omega
  have hlt : ((⌊z⌋ : ℚ) : ℝ) + 1 / 2 < z ↔ 1 / 2 < z - ⌊z⌋ := by
    rw [lt_sub_iff_add_lt', ← Rat.cast_lt (K := ℝ)]
    push_cast
    rfl
  have heq : (z : ℝ) = ((⌊z⌋ : ℚ) : ℝ) + 1 / 2 ↔ z - ⌊z⌋ = 1 / 2 := by
    rw [sub_eq_iff_eq_add', ← Rat.cast_inj (α := ℝ)]
    push_cast
    rfl
  have hge : ((⌊z⌋ : ℚ) : ℝ) + 1 / 2 ≤ z ↔ 1 / 2 ≤ z - ⌊z⌋ := by
    rw [le_sub_iff_add_le', ← Rat.cast_le (K := ℝ)]
    push_cast
    rfl
  have hne : (z : ℝ) ≠ ((⌊z⌋ : ℚ) : ℝ) ↔ 0 < z - ⌊z⌋ := by
    rw [sub_pos, Ne, Rat.cast_inj, lt_iff_le_and_ne, and_iff_right hle, ne_comm]
  cases r with
  | rne => rw [Rnd.GoesUp, Rnd.RatUp, hodd, hc, hlt, heq]
  | rz => exact Iff.rfl
  | ru => rw [Rnd.GoesUp, Rnd.RatUp, hc, hne]
  | rd => rw [Rnd.GoesUp, Rnd.RatUp, hc, hne]
  | rna => rw [Rnd.GoesUp, Rnd.RatUp, hc, hge]

/-- An integer with few enough bits is a number of the format. -/
theorem number_of_nat (f : Fmt) {M : Nat} (h : M ≤ 2 ^ f.frac) : ∃ u l, f.Number u l ∧ (u : ℚ) * 2 ^ l = M := by
  have hfrac : (f.frac : Int) ≤ f.bias := by cases f <;> decide
  have hb := bias_pos f
  by_cases h0 : M = 0
  · exact ⟨0, f.qmin, ⟨by positivity, le_rfl, by rw [qmin_eq]; omega, .inl rfl⟩, by simp [h0]⟩
  · have hlog : M.log2 ≤ f.frac := by
      rw [← Nat.lt_add_one_iff, Nat.log2_lt h0, pow_succ]
      have := Nat.two_pow_pos f.frac
      omega
    obtain ⟨d, hd⟩ := Nat.exists_eq_add_of_le hlog
    refine ⟨M * 2 ^ d, -(d : Int), ⟨?_, by rw [qmin_eq]; omega, by omega, .inr ?_⟩, ?_⟩
    · calc M * 2 ^ d < 2 ^ (M.log2 + 1) * 2 ^ d := Nat.mul_lt_mul_of_pos_right Nat.lt_log2_self (Nat.two_pow_pos d)
        _ = 2 ^ (f.frac + 1) := by rw [← pow_add, hd]; congr 1; omega
    · rw [hd, pow_add]
      exact Nat.mul_le_mul_right _ (Nat.log2_self_le h0)
    · rw [zpow_neg, zpow_natCast]
      push_cast
      field_simp

/-- A magnitude that is an integer rounds to itself. -/
theorem rounded_natCast (r : Rnd) (neg : Bool) (M : Nat) : Rounded r neg M M :=
  .inl ⟨fun h => goesUp_ne h (by rw [Nat.floor_natCast]), (Nat.floor_natCast M).symm⟩

theorem natAbs_signed (n : Bool) (M : Nat) : (if n then -(M : Int) else M).natAbs = M := by cases n <;> simp

theorem toIntF_spec (r : Rnd) (n : Bool) (m : Nat) (e : Int) : ∃ M : Nat, Rounded r n ((m * 2 ^ e : ℚ) : ℝ) M ∧
    toIntF r n m e = (if n then -(M : Int) else M, decide ((m * 2 ^ e : ℚ) ≠ M)) := by
  have hx : Begins m e false ((m * 2 ^ e : ℚ) : ℝ) := by
    push_cast
    exact begins_exact m e
  have hcut := cutAt_holds hx (q := 0) nofun
  rw [zpow_zero, div_one] at hcut
  have hround := hcut.rounded r n
  have hne := hround.ne_iff
  rw [hcut.floor, ← hcut.exact, Bool.or_false] at hne
  refine ⟨_, hround, ?_⟩
  generalize hM : (cutAt m e 0).m + (if (cutAt m e 0).up r n false then 1 else 0) = M at *
  have hcast : (((M : Nat) : ℝ) ≠ ((m * 2 ^ e : ℚ) : ℝ)) ↔ (m * 2 ^ e : ℚ) ≠ M := by
    rw [ne_comm, ← Rat.cast_natCast M, Ne, Rat.cast_inj]
  rw [hcast, decide_eq_true_iff] at hne
  have hto : toIntF r n m e = (if n then -(M : Int) else M, decide ((cutAt m e 0).rem ≠ 0)) := by
    rw [← hM]
    unfold toIntF
    push_cast
    rfl
  rw [hto, decide_eq_decide.mpr hne]

/-- An integral value: the integer that the mode chooses, with its sign, and inexact where it is another number. -/
theorem integralF_fin {f : Fmt} {n : Bool} {m : Nat} {e : Int} (h : f.Number m e) (r : Rnd) (quiet : Bool) :
    ∃ M u l, Rounded r n ((m * 2 ^ e : ℚ) : ℝ) M ∧ f.Number u l ∧ (u : ℚ) * 2 ^ l = M ∧
      integralF f r quiet (.fin n m e) = (f.numberBits n u l, if quiet = true ∨ (m * 2 ^ e : ℚ) = M then 0 else excInx) := by
  simp only [integralF]
  by_cases he : 0 ≤ e
  · obtain ⟨d, rfl⟩ := Int.eq_ofNat_of_zero_le he
    have hval : (m * 2 ^ (d : Int) : ℚ) = ((m * 2 ^ d : Nat) : ℚ) := by rw [zpow_natCast]; push_cast; rfl
    refine ⟨m * 2 ^ d, m, d, ?_, h, hval, ?_⟩
    · rw [hval, Rat.cast_natCast]
      exact rounded_natCast r n _
    · rw [if_pos he, roundF_eq_number h rfl, if_pos (.inr hval)]
  · obtain ⟨M, hround, hto⟩ := toIntF_spec r n m e
    have hMle : M ≤ 2 ^ f.frac := by
      have hsmall : ⌊((m * 2 ^ e : ℚ) : ℝ)⌋₊ < 2 ^ f.frac := by
        rw [Nat.floor_lt (by positivity)]
        have h1 : (2 : ℝ) ^ e ≤ 2 ^ (-1 : Int) := zpow_le_zpow_right₀ one_le_two (by omega)
        have h2 : (m : ℝ) < 2 ^ (f.frac + 1) := by exact_mod_cast h.sig
        push_cast
        calc (m : ℝ) * 2 ^ e ≤ m * 2 ^ (-1 : Int) := by gcongr
          _ < 2 ^ (f.frac + 1) * 2 ^ (-1 : Int) := by gcongr
          _ = 2 ^ f.frac := by rw [pow_succ, zpow_neg_one, mul_assoc, mul_inv_cancel₀ two_ne_zero, mul_one]
      have := hround.le_succ
      omega
    obtain ⟨u, l, hn, hval⟩ := number_of_nat f hMle
    refine ⟨M, u, l, hround, hn, hval, ?_⟩
    rw [if_neg he, hto]
    dsimp only
    rw [natAbs_signed, roundF_eq_number hn (by rw [hval]; simp)]
    cases quiet <;> simp

/-- The integral value of a number, in the terms of its magnitude. -/
theorem integralF_number {f : Fmt} {n : Bool} {m : Nat} {e : Int} (h : f.Number m e) (r : Rnd) (quiet : Bool) :
    let z := |(FVal.fin n m e).rat|
    let y := integralF f r quiet (.fin n m e)
    ∃ k : Int, (r.RatUp n z → k = ⌊z⌋ + 1) ∧ (¬r.RatUp n z → k = ⌊z⌋) ∧ (decodeF f y.1).isFin = true ∧ (decodeF f y.1).neg = n ∧
      |(decodeF f y.1).rat| = k ∧ y.2 = if quiet = true ∨ z = k then 0 else excInx := by
  have hz : (0 : ℚ) ≤ m * 2 ^ e := by positivity
  simp only [abs_rat_fin]
  obtain ⟨M, u, l, hround, hn, hval, hy⟩ := integralF_fin (n := n) h r quiet
  rw [hy, decodeF_numberBits hn, abs_rat_fin, hval]
  have hfl := natFloor_cast hz
  refine ⟨M, fun hu => ?_, fun hu => ?_, rfl, rfl, by push_cast; rfl, by push_cast; rfl⟩
  · rcases hround with ⟨hno, -⟩ | ⟨-, hM⟩
    · exact absurd ((goesUp_iff_ratUp hz).mpr hu) hno
    · rw [hM, ← hfl]
      push_cast
      rfl
  · rcases hround with ⟨-, hM⟩ | ⟨hup, -⟩
    · rw [hM, hfl]
    · exact absurd ((goesUp_iff_ratUp hz).mp hup) hu

/-! ### Signs and classes -/

/-- A sign change sets the sign and leaves the rest. -/
theorem signF_decodeF {f : Fmt} {x : DWord} (set : Bool → Bool) (h : (decodeF f x).isNan = false) :
    signF f set (decodeF f x) = (BitVec.ofNat 64 (f.pattern (set (f.sign x)) (f.expField x) (f.fracField x)), 0) := by
  have hex := expField_lt f x
  have hfr := fracField_lt f x
  have henc (hn : (f.value (set (f.sign x)) (f.expField x) (f.fracField x)).isNan = false) := encodeF_value hex hfr hn
  rw [decodeF_fields] at h ⊢
  unfold Fmt.value at *
  split
  next he =>
    rw [if_pos he] at h henc
    split
    next h0 =>
      rw [if_pos h0] at henc
      rw [← henc rfl]
      rfl
    next h0 => rw [if_neg h0] at h; cases h
  next he =>
    rw [if_neg he] at henc
    split
    next h0 =>
      rw [if_pos h0] at henc
      rw [← henc rfl]
      rfl
    next h0 =>
      rw [if_neg h0] at henc
      rw [← henc rfl]
      rfl

theorem low_bits (f : Fmt) (x : DWord) : x.toNat % 2 ^ (f.width - 1) = f.expField x * 2 ^ f.frac + f.fracField x := by
  unfold Fmt.expField Fmt.fracField
  cases f <;> simp only [Fmt.width, Fmt.frac, Fmt.ebits] <;> omega

theorem signF_toNat {f : Fmt} {x : DWord} (set : Bool → Bool) (h : (decodeF f x).isNan = false) :
    (signF f set (decodeF f x)).1.toNat = x.toNat % 2 ^ (f.width - 1) + if set (f.sign x) then 2 ^ (f.width - 1) else 0 := by
  rw [signF_decodeF set h, toNat_pattern f _ (expField_lt f x) (fracField_lt f x), low_bits, Fmt.pattern, signBits]
  omega

theorem classF_decodeF (f : Fmt) (x : DWord) : classF f (decodeF f x) = 2 ^
    (if f.expField x = 2 ^ f.ebits - 1 then
      (if f.fracField x = 0 then (if f.sign x then 0 else 7) else if f.fracField x < 2 ^ (f.frac - 1) then 8 else 9)
    else if f.expField x = 0 then (if f.fracField x = 0 then (if f.sign x then 3 else 4) else if f.sign x then 2 else 5)
    else if f.sign x then 1 else 6) := by
  have hfr := fracField_lt f x
  have hquiet : (f.fracField x).testBit (f.frac - 1) = decide (2 ^ (f.frac - 1) ≤ f.fracField x) := by
    rw [Nat.testBit_eq_decide_div_mod_eq]
    generalize f.fracField x = k at *
    cases f <;> simp only [Fmt.frac] at * <;> congr 1 <;> simp <;> omega
  rw [decodeF_fields]
  unfold Fmt.value
  split
  · split
    · cases f.sign x <;> rfl
    · simp only [classF, hquiet]
      split <;> simp_all
  · split
    · simp only [classF, hfr, if_true]
      split <;> cases f.sign x <;> rfl
    · have h1 : ¬f.fracField x + 2 ^ f.frac = 0 := by omega
      have h2 : ¬f.fracField x + 2 ^ f.frac < 2 ^ f.frac := by omega
      simp only [classF, h1, h2, if_false]
      cases f.sign x <;> rfl

/-! ### Special operands -/

theorem fin_of_isFin {a : FVal} (h : a.isFin = true) : ∃ n m e, a = .fin n m e := by
  cases a with
  | nan s => cases h
  | inf k => cases h
  | fin n m e => exact ⟨n, m, e, rfl⟩

theorem unary_nan {f : Fmt} (r : Rnd) {a : FVal} (h : a.isNan = true) : ∀ y ∈ [sqrtF f r a, rcpF f r a, rsqF f a, signF f (!·) a,
    signF f (fun _ => false) a, integralF f r false a, integralF f r true a], y = (nanBits f, if a.snan then excInv else 0) := by
  cases a with
  | nan s =>
    intro y hy
    simp only [List.mem_cons, List.not_mem_nil, or_false] at hy
    rcases hy with rfl | rfl | rfl | rfl | rfl | rfl | rfl <;> rfl
  | inf n => cases h
  | fin n m e => cases h

theorem unary_inf (f : Fmt) (r : Rnd) (k : Bool) :
    sqrtF f r (.inf k) = (if k then (nanBits f, excInv) else (infBits f false, 0)) ∧ rcpF f r (.inf k) = (zeroBits f k, 0) ∧
    rsqF f (.inf k) = (if k then (nanBits f, excInv) else (zeroBits f false, 0)) ∧
    ∀ quiet, integralF f r quiet (.inf k) = (infBits f k, 0) :=
  ⟨rfl, by simp [rcpF, divF], rfl, fun _ => rfl⟩

section
variable (f : Fmt) (r : Rnd) (n : Bool) {m : Nat} (e : Int)

theorem unary_zero : rcpF f r (.fin n 0 e) = (infBits f n, excDz) ∧ rsqF f (.fin n 0 e) = (infBits f n, excDz) ∧
    sqrtF f r (.fin n 0 e) = (zeroBits f n, 0) := by simp [rcpF, divF, rsqF, sqrtF]

theorem roots_negative (h : m ≠ 0) : sqrtF f r (.fin true m e) = (nanBits f, excInv) ∧ rsqF f (.fin true m e) = (nanBits f, excInv) := by
  simp [sqrtF, rsqF, h, invalidF]

theorem rcpF_rounds (h : m ≠ 0) : Rounds f r n (against (1 / (FVal.fin n m e).rat)) (rcpF f r (.fin n m e)) := by
  have h1 : (FVal.fin false 1 0).rat = 1 := by simp [FVal.rat_fin]
  have key := divF_rounds f r false n (m1 := 1) 0 e h
  rwa [h1, Bool.false_bne] at key

end

/-- The exact results of two and three operands, and of the roots. -/
theorem exact_results (f : Fmt) (r : Rnd) {a b : FVal} (ha : a.isFin = true) (hb : b.isFin = true) :
    Rounds f r (sumSign r a.neg b.neg (a.rat + b.rat)) (against (a.rat + b.rat)) (addF f r a b) ∧
    Rounds f r (a.neg != b.neg) (against (a.rat * b.rat)) (mulF f r a b) ∧
    (b.rat ≠ 0 → Rounds f r (a.neg != b.neg) (against (a.rat / b.rat)) (divF f r a b)) ∧
    (∀ d : FVal, d.isFin = true →
      Rounds f r (sumSign r d.neg (a.neg != b.neg) (d.rat + a.rat * b.rat)) (against (d.rat + a.rat * b.rat)) (fmaF f r d a b)) ∧
    (a.neg = false →
      Rounds f r false (fun q => compare (q * q) a.rat) (sqrtF f r a) ∧
      (a.rat ≠ 0 → Rounds f .rne false (fun q => compare (q * q * a.rat) 1) (rsqF f a))) := by
  obtain ⟨n1, m1, e1, rfl⟩ := fin_of_isFin ha
  obtain ⟨n2, m2, e2, rfl⟩ := fin_of_isFin hb
  refine ⟨addF_rounds f r n1 n2 m1 m2 e1 e2, mulF_rounds f r n1 n2 m1 m2 e1 e2,
    fun h => divF_rounds f r n1 n2 e1 e2 (rat_fin_eq_zero.not.mp h), fun d hd => ?_, fun hn => ?_⟩
  · obtain ⟨n3, m3, e3, rfl⟩ := fin_of_isFin hd
    rw [fmaF_fin, ← rat_mul]
    exact addF_rounds f r n3 (n1 != n2) m3 (m1 * m2) e3 (e1 + e2)
  · obtain rfl : n1 = false := hn
    exact ⟨sqrtF_rounds f r m1 e1, fun h => rsqF_rounds f e1 (rat_fin_eq_zero.not.mp h)⟩

theorem rat_fin_neg {n : Bool} {m : Nat} {e : Int} (h : (FVal.fin n m e).rat < 0) : n = true ∧ m ≠ 0 := by
  have hnn : (0 : ℚ) ≤ m * 2 ^ e := by positivity
  refine ⟨?_, rat_fin_eq_zero.not.mp h.ne⟩
  by_contra hc
  rw [Bool.not_eq_true] at hc
  subst hc
  exact absurd h (not_lt.mpr (by simpa [FVal.rat_fin] using hnn))

/-- Settles O52: every result is the rounding of an exact magnitude, of which `roundF` is handed the first bits and whether more
follow. -/
theorem rounding : Obligations.Rounding := by
  unfold Obligations.Rounding
  intro f r
  refine ⟨fun n m e => roundF_exact (abs_of_nonneg (by positivity)), fun a b ha hb => exact_results f r ha hb, fun x => ?_⟩
  refine ⟨fun h => unary_nan r h, fun k hk => ?_, fun h set => ⟨?_, signF_toNat set h⟩, fun h => ?_, classF_decodeF f x⟩
  · rw [hk]
    exact unary_inf f r k
  · rw [signF_decodeF set h]
  · obtain ⟨n, m, e, hd⟩ := fin_of_isFin h
    rw [hd]
    refine ⟨fun hz => rcpF_rounds f r n e (rat_fin_eq_zero.not.mp hz), fun hz => ?_, fun hz => ?_, fun quiet => ?_⟩
    · obtain rfl := rat_fin_eq_zero.mp hz
      exact unary_zero f r n e
    · obtain ⟨rfl, hm⟩ := rat_fin_neg hz
      exact roots_negative f r e hm
    · have key := integralF_number (n := n) (number_of_decodeF hd) r quiet
      cases r <;> exact key

end Sys2Proof.Machine
end

section
/-! SUPPORT. NaN, infinity and zero as operands, extremes of some lanes, and the trees of sums (04 R81 to R83, R97; 07 R175, R180,
R181). -/

namespace Sys2Proof.Machine

open Sys2Proof

/-! ### NaN operands -/

/-- An operation of two operands that passes NaN on gives the canonical one, invalid where an operand signals (04 R82, R83). -/
theorem nan_of_two {f : Fmt} {g : FVal → FVal → FRes} (hl : ∀ s b, g (.nan s) b = nanF f (s || b.snan))
    (hr : ∀ a s, a.isNan = false → g a (.nan s) = nanF f s) (a b : FVal) (h : [a, b].any FVal.isNan = true) :
    g a b = (nanBits f, if [a, b].any FVal.snan then excInv else 0) := by
  cases a with
  | nan s => simp [hl, nanF, FVal.snan]
  | inf n =>
    cases b with
    | nan s => simp [hr (.inf n) s rfl, nanF, FVal.snan]
    | inf k => cases h
    | fin k m e => cases h
  | fin n m e =>
    cases b with
    | nan s => simp [hr (.fin n m e) s rfl, nanF, FVal.snan]
    | inf k => cases h
    | fin k m' e' => cases h

theorem arithmetic_nan (f : Fmt) (r : Rnd) (a b : FVal) (h : [a, b].any FVal.isNan = true) :
    addF f r a b = (nanBits f, if [a, b].any FVal.snan then excInv else 0) ∧
    mulF f r a b = (nanBits f, if [a, b].any FVal.snan then excInv else 0) ∧
    divF f r a b = (nanBits f, if [a, b].any FVal.snan then excInv else 0) := by
  refine ⟨nan_of_two (g := addF f r) (fun s b => rfl) (fun a s ha => ?_) a b h,
    nan_of_two (g := mulF f r) (fun s b => rfl) (fun a s ha => ?_) a b h,
    nan_of_two (g := divF f r) (fun s b => rfl) (fun a s ha => ?_) a b h⟩
  all_goals cases a with
    | nan s => cases ha
    | inf n => rfl
    | fin n m e => rfl

/-- A product of zero and an infinity stands before a NaN addend (04 R83); else NaN passes. -/
theorem fmaF_nan (f : Fmt) (r : Rnd) {d a b : FVal} (hab : ¬(a = .inf a.neg ∧ b.isFin = true ∧ b.rat = 0))
    (hba : ¬(b = .inf b.neg ∧ a.isFin = true ∧ a.rat = 0)) (h : [a, b, d].any FVal.isNan = true) :
    fmaF f r d a b = (nanBits f, if [a, b, d].any FVal.snan then excInv else 0) := by
  have hnan : (a.isNan || b.isNan || d.isNan) = true := by simpa [Bool.or_assoc] using h
  have hsnan : (a.snan || b.snan || d.snan) = [a, b, d].any FVal.snan := by simp [Bool.or_assoc]
  unfold fmaF
  rw [if_neg, if_pos hnan, hsnan, nanF]
  intro hz
  split at hz
  next n k e => exact hab ⟨rfl, rfl, rat_fin_eq_zero.mpr rfl⟩
  next n k e => exact hba ⟨rfl, rfl, rat_fin_eq_zero.mpr rfl⟩
  next => cases hz

/-! ### Infinite operands -/

section
variable (f : Fmt) (r : Rnd)

theorem arithmetic_inf_inf (n k : Bool) :
    addF f r (.inf n) (.inf k) = (if n = k then (infBits f n, 0) else (nanBits f, excInv)) ∧
    mulF f r (.inf n) (.inf k) = (infBits f (n != k), 0) ∧ divF f r (.inf n) (.inf k) = (nanBits f, excInv) := ⟨rfl, rfl, rfl⟩

theorem arithmetic_inf_fin (n : Bool) {x : FVal} (hx : x.isFin = true) :
    addF f r (.inf n) x = (infBits f n, 0) ∧ addF f r x (.inf n) = (infBits f n, 0) ∧
    mulF f r (.inf n) x = (if x.rat = 0 then (nanBits f, excInv) else (infBits f (n != x.neg), 0)) ∧
    mulF f r x (.inf n) = (if x.rat = 0 then (nanBits f, excInv) else (infBits f (x.neg != n), 0)) ∧
    divF f r (.inf n) x = (infBits f (n != x.neg), 0) ∧ divF f r x (.inf n) = (zeroBits f (x.neg != n), 0) := by
  obtain ⟨k, m, e, rfl⟩ := fin_of_isFin hx
  simp only [rat_fin_eq_zero]
  exact ⟨rfl, rfl, rfl, rfl, rfl, rfl⟩

theorem divF_zero {x z : FVal} (hx : x.isFin = true) (hz : z.isFin = true) (h0 : z.rat = 0) :
    divF f r x z = (if x.rat = 0 then (nanBits f, excInv) else (infBits f (x.neg != z.neg), excDz)) := by
  obtain ⟨n, m, e, rfl⟩ := fin_of_isFin hx
  obtain ⟨k, m', e', rfl⟩ := fin_of_isFin hz
  obtain rfl := rat_fin_eq_zero.mp h0
  simp only [rat_fin_eq_zero, divF, if_true]
  rfl

theorem fmaF_inf_zero (n : Bool) (d : FVal) {x : FVal} (hx : x.isFin = true) (h0 : x.rat = 0) :
    fmaF f r d (.inf n) x = (nanBits f, excInv) ∧ fmaF f r d x (.inf n) = (nanBits f, excInv) := by
  obtain ⟨k, m, e, rfl⟩ := fin_of_isFin hx
  obtain rfl := rat_fin_eq_zero.mp h0
  exact ⟨rfl, rfl⟩

theorem fmaF_inf_addend (k : Bool) {x y : FVal} (hx : x.isFin = true) (hy : y.isFin = true) :
    fmaF f r (.inf k) x y = (infBits f k, 0) := by
  obtain ⟨n, m, e, rfl⟩ := fin_of_isFin hx
  obtain ⟨n', m', e', rfl⟩ := fin_of_isFin hy
  cases m <;> cases m' <;> rfl

theorem fmaF_inf_product (n k : Bool) {x d : FVal} (hx : (x.isFin = true ∧ x.rat ≠ 0) ∨ x = .inf x.neg) (hd : d.isFin = true) :
    fmaF f r d (.inf n) x = (infBits f (n != x.neg), 0) ∧ fmaF f r d x (.inf n) = (infBits f (x.neg != n), 0) ∧
    fmaF f r (.inf k) (.inf n) x = (if k = (n != x.neg) then (infBits f k, 0) else (nanBits f, excInv)) ∧
    fmaF f r (.inf k) x (.inf n) = (if k = (x.neg != n) then (infBits f k, 0) else (nanBits f, excInv)) := by
  obtain ⟨n', m', e', rfl⟩ := fin_of_isFin hd
  rcases hx with ⟨hx, h0⟩ | hx
  · obtain ⟨j, m, e, rfl⟩ := fin_of_isFin hx
    obtain ⟨m, rfl⟩ := Nat.exists_eq_succ_of_ne_zero (rat_fin_eq_zero.not.mp h0)
    exact ⟨rfl, rfl, rfl, rfl⟩
  · rw [hx]
    exact ⟨rfl, rfl, rfl, rfl⟩

end

/-! ### The order of numbers -/

theorem lt_fin {a b : FVal} (ha : a.isFin = true) (hb : b.isFin = true) : a.lt b = decide (a.rat < b.rat) := by
  obtain ⟨n1, m1, e1, rfl⟩ := fin_of_isFin ha
  obtain ⟨n2, m2, e2, rfl⟩ := fin_of_isFin hb
  have hq : (0 : ℚ) < 2 ^ (min e1 e2) := by positivity
  rw [← scaled_eq n1 m1 (min_le_left e1 e2), ← scaled_eq n2 m2 (min_le_right e1 e2)]
  simp only [FVal.lt, mul_lt_mul_iff_left₀ hq, Int.cast_lt]

theorem lt_inf (n : Bool) {x : FVal} (h : x.isFin = true) : (FVal.inf n).lt x = n ∧ x.lt (.inf n) = !n := by
  obtain ⟨k, m, e, rfl⟩ := fin_of_isFin h
  exact ⟨rfl, rfl⟩

/-- Where a value that is not a NaN lies: below, among or above the finite ones, and its number. -/
def FVal.key (a : FVal) : ℤ ×ₗ ℚ :=
  match a with
  | .inf n => toLex (if n then -1 else 1, 0)
  | x => toLex (0, x.rat)

/-- The same with −0 below +0. -/
def FVal.place (a : FVal) : (ℤ ×ₗ ℚ) ×ₗ ℤ := toLex (a.key, if a.neg then 0 else 1)

theorem lt_iff_key {a b : FVal} (ha : a.isNan = false) (hb : b.isNan = false) : a.lt b = true ↔ a.key < b.key := by
  cases a with
  | nan s => cases ha
  | inf n =>
    cases b with
    | nan s => cases hb
    | inf k => cases n <;> cases k <;> simp [FVal.lt, FVal.key, Prod.Lex.toLex_lt_toLex]
    | fin k m e => cases n <;> simp [FVal.lt, FVal.key, Prod.Lex.toLex_lt_toLex]
  | fin n m e =>
    cases b with
    | nan s => cases hb
    | inf k => cases k <;> simp [FVal.lt, FVal.key, Prod.Lex.toLex_lt_toLex]
    | fin k m' e' =>
      rw [lt_fin rfl rfl, decide_eq_true_iff]
      simp [FVal.key, Prod.Lex.toLex_lt_toLex]

theorem not_lt_iff_key {a b : FVal} (ha : a.isNan = false) (hb : b.isNan = false) : a.lt b = false ↔ b.key ≤ a.key := by
  rw [← not_lt, ← lt_iff_key ha hb, Bool.not_eq_true]

theorem place_le_iff (a b : FVal) : a.place ≤ b.place ↔ a.key < b.key ∨ (a.key = b.key ∧ (a.neg = true ∨ b.neg = false)) := by
  rw [FVal.place, FVal.place, Prod.Lex.toLex_le_toLex]
  cases a.neg <;> cases b.neg <;> simp

/-- Which of two numbers FMIN takes. -/
def FVal.first (a b : FVal) : Bool := a.lt b || (!(b.lt a) && a.neg)

theorem first_place {a b : FVal} (ha : a.isNan = false) (hb : b.isNan = false) :
    (a.first b = true → a.place ≤ b.place) ∧ (a.first b = false → b.place ≤ a.place) := by
  rw [place_le_iff, place_le_iff]
  unfold FVal.first
  constructor
  · intro h
    rw [Bool.or_eq_true, Bool.and_eq_true, Bool.not_eq_true', lt_iff_key ha hb, not_lt_iff_key hb ha] at h
    rcases h with h | ⟨h, hn⟩
    · exact .inl h
    · exact (lt_or_eq_of_le h).imp_right fun h => ⟨h, .inl hn⟩
  · intro h
    rw [Bool.or_eq_false_iff, Bool.and_eq_false_iff, Bool.not_eq_false', not_lt_iff_key ha hb, lt_iff_key hb ha] at h
    obtain ⟨h, h2 | h2⟩ := h
    · exact .inl h2
    · exact (lt_or_eq_of_le h).imp_right fun h => ⟨h, .inr h2⟩

/-! ### Minimum and maximum -/

section
variable {f : Fmt} {mx : Bool} {x z : DWord}

/-- The exceptions of a minimum or maximum. -/
def minMaxExc (a b : FVal) : Exc := if a.snan || b.snan then excInv else 0

theorem minMaxF_both_nan (ha : (decodeF f x).isNan = true) (hb : (decodeF f z).isNan = true) :
    minMaxF f mx (decodeF f x) (decodeF f z) = (nanBits f, minMaxExc (decodeF f x) (decodeF f z)) := by
  simp only [minMaxF, ha, hb]
  rfl

theorem minMaxF_left_nan (ha : (decodeF f x).isNan = true) (hb : (decodeF f z).isNan = false) :
    minMaxF f mx (decodeF f x) (decodeF f z) = (f.own z, minMaxExc (decodeF f x) (decodeF f z)) := by
  simp only [minMaxF, ha, hb, encodeF_decodeF hb]
  rfl

theorem minMaxF_right_nan (ha : (decodeF f x).isNan = false) (hb : (decodeF f z).isNan = true) :
    minMaxF f mx (decodeF f x) (decodeF f z) = (f.own x, minMaxExc (decodeF f x) (decodeF f z)) := by
  simp only [minMaxF, ha, hb, encodeF_decodeF ha]
  rfl

theorem lt_asymm {a b : FVal} (ha : a.isNan = false) (hb : b.isNan = false) (h : a.lt b = true) : b.lt a = false :=
  (not_lt_iff_key hb ha).mpr ((lt_iff_key ha hb).mp h).le

theorem snan_of_not_nan {a : FVal} (h : a.isNan = false) : a.snan = false := by
  cases a with
  | nan s => cases h
  | inf n => rfl
  | fin n m e => rfl

theorem minMaxF_numbers (ha : (decodeF f x).isNan = false) (hb : (decodeF f z).isNan = false) :
    minMaxF f mx (decodeF f x) (decodeF f z) = (if (decodeF f x).first (decodeF f z) != mx then f.own x else f.own z, 0) := by
  simp only [minMaxF, ha, hb, snan_of_not_nan ha, snan_of_not_nan hb, apply_ite (encodeF f), encodeF_decodeF ha, encodeF_decodeF hb]
  rfl

theorem own_of_zero (h : (decodeF f x).isFin = true) (h0 : (decodeF f x).rat = 0) : f.own x = zeroBits f (decodeF f x).neg := by
  obtain ⟨n, m, e, hd⟩ := fin_of_isFin h
  rw [hd] at h0 ⊢
  obtain rfl := rat_fin_eq_zero.mp h0
  rw [own_of_decodeF hd, numberBits_zero]
  rfl

/-- Which of two numbers a minimum or maximum gives: by their order, and of two zeros by their signs. -/
theorem minMaxF_result (ha : (decodeF f x).isNan = false) (hb : (decodeF f z).isNan = false) :
    let y := (minMaxF f mx (decodeF f x) (decodeF f z)).1
    (y = f.own x ∨ y = f.own z) ∧
    ((decodeF f x).lt (decodeF f z) = true → y = if mx then f.own z else f.own x) ∧
    ((decodeF f z).lt (decodeF f x) = true → y = if mx then f.own x else f.own z) ∧
    ((decodeF f x).isFin = true → (decodeF f z).isFin = true → (decodeF f x).rat = 0 → (decodeF f z).rat = 0 →
      (decodeF f x).neg ≠ (decodeF f z).neg → y = zeroBits f (!mx)) := by
  rw [minMaxF_numbers ha hb]
  dsimp only
  refine ⟨ite_eq_or_eq .., fun h => ?_, fun h => ?_, fun hfa hfb h0 h0' hn => ?_⟩
  · rw [FVal.first, h]
    cases mx <;> rfl
  · rw [FVal.first, h, lt_asymm hb ha h]
    cases mx <;> rfl
  · rw [FVal.first, lt_fin hfa hfb, lt_fin hfb hfa, h0, h0', own_of_zero hfa h0, own_of_zero hfb h0']
    revert hn
    cases (decodeF f x).neg <;> cases (decodeF f z).neg <;> cases mx <;> simp

end

/-! ### The extreme of some lanes -/

/-- `a` stands for the extreme of two numbers at least as well as `b`. -/
def Beats (mx : Bool) (a b : FVal) : Prop := if mx then b.place ≤ a.place else a.place ≤ b.place

theorem beats_refl (mx : Bool) (a : FVal) : Beats mx a a := by cases mx <;> exact le_refl a.place

theorem Beats.trans {mx : Bool} {a b c : FVal} (h : Beats mx a b) (h' : Beats mx b c) : Beats mx a c := by
  cases mx
  · exact le_trans (α := (ℤ ×ₗ ℚ) ×ₗ ℤ) h h'
  · exact le_trans (α := (ℤ ×ₗ ℚ) ×ₗ ℤ) h' h

theorem place_zero {a : FVal} (h : a.isFin = true) (h0 : a.rat = 0) : a.key = toLex (0, 0) := by
  obtain ⟨n, m, e, rfl⟩ := fin_of_isFin h
  exact congrArg (fun q : ℚ => toLex ((0 : ℤ), q)) h0

/-- A number that beats another is not passed by it, and of two zeros has the sign that wins. -/
theorem beats_spec {mx : Bool} {a b : FVal} (ha : a.isNan = false) (hb : b.isNan = false) (h : Beats mx a b) :
    (if mx then a.lt b else b.lt a) = false ∧
    (a.isFin = true → b.isFin = true → a.rat = 0 → b.rat = 0 → b.neg = (!mx) → a.neg = (!mx)) := by
  unfold Beats at h
  cases mx
  · rw [if_neg Bool.false_ne_true, place_le_iff] at h
    refine ⟨(not_lt_iff_key hb ha).mpr (h.elim le_of_lt fun h => h.1.le), fun hfa hfb h0 h0' hn => ?_⟩
    rw [place_zero hfa h0, place_zero hfb h0'] at h
    rcases h with h | ⟨-, h | h⟩
    · exact absurd h (lt_irrefl _)
    · exact h
    · rw [hn] at h; cases h
  · rw [if_pos rfl, place_le_iff] at h
    refine ⟨(not_lt_iff_key ha hb).mpr (h.elim le_of_lt fun h => h.1.le), fun hfa hfb h0 h0' hn => ?_⟩
    rw [place_zero hfa h0, place_zero hfb h0'] at h
    rcases h with h | ⟨-, h | h⟩
    · exact absurd h (lt_irrefl _)
    · rw [hn] at h; cases h
    · exact h

section
variable (f : Fmt) (mx : Bool) (x : Opnd)

/-- One step over the lanes. -/
def extremeStep (t : FVal) (k : Nat) : FVal := decodeF f (minMaxF f mx t (decodeF f (x.lane k))).1

/-- What stands for the extreme of some lanes: NaN where all are, and else a lane that beats every other. -/
def IsExtreme (ls : List Nat) (t : FVal) : Prop :=
  (t.isNan = true ∧ ∀ l ∈ ls, (decodeF f (x.lane l)).isNan = true) ∨
  ∃ l ∈ ls, (decodeF f (x.lane l)).isNan = false ∧ t = decodeF f (x.lane l) ∧
    ∀ k ∈ ls, (decodeF f (x.lane k)).isNan = false → Beats mx (decodeF f (x.lane l)) (decodeF f (x.lane k))

theorem isExtreme_one (l : Nat) : IsExtreme f mx x [l] (decodeF f (x.lane l)) := by
  cases h : (decodeF f (x.lane l)).isNan with
  | true => exact .inl ⟨h, by simpa using h⟩
  | false => exact .inr ⟨l, by simp, h, rfl, fun k hk _ => by rw [List.mem_singleton.mp hk]; exact beats_refl mx _⟩

variable {f mx x}

theorem isExtreme_step {ls : List Nat} {t : FVal} {u : DWord} (ht : t = decodeF f u) (h : IsExtreme f mx x ls t) (k : Nat) :
    IsExtreme f mx x (ls ++ [k]) (extremeStep f mx x t k) := by
  subst ht
  unfold extremeStep
  rcases h with ⟨hn, hall⟩ | ⟨l, hl, hnum, ht, hbest⟩
  · cases hk : (decodeF f (x.lane k)).isNan with
    | true =>
      rw [minMaxF_both_nan hn hk, decodeF_nanBits]
      exact .inl ⟨rfl, fun j hj => by
        rcases List.mem_append.mp hj with hj | hj
        · exact hall j hj
        · rwa [List.mem_singleton.mp hj]⟩
    | false =>
      rw [minMaxF_left_nan hn hk, decodeF_own]
      refine .inr ⟨k, by simp, hk, rfl, fun j hj hjn => ?_⟩
      rcases List.mem_append.mp hj with hj | hj
      · rw [hall j hj] at hjn; cases hjn
      · rw [List.mem_singleton.mp hj]; exact beats_refl mx _
  · rw [ht]
    cases hk : (decodeF f (x.lane k)).isNan with
    | true =>
      rw [minMaxF_right_nan hnum hk, decodeF_own]
      refine .inr ⟨l, by simp [hl], hnum, rfl, fun j hj hjn => ?_⟩
      rcases List.mem_append.mp hj with hj | hj
      · exact hbest j hj hjn
      · rw [List.mem_singleton.mp hj, hk] at hjn; cases hjn
    | false =>
      rw [minMaxF_numbers hnum hk]
      obtain ⟨h1, h2⟩ := first_place hnum hk
      by_cases hfirst : ((decodeF f (x.lane l)).first (decodeF f (x.lane k)) != mx) = true
      · have hb : Beats mx (decodeF f (x.lane l)) (decodeF f (x.lane k)) := by
          cases mx <;> simp at hfirst
          · exact h1 hfirst
          · exact h2 hfirst
        rw [if_pos hfirst, decodeF_own]
        refine .inr ⟨l, by simp [hl], hnum, rfl, fun j hj hjn => ?_⟩
        rcases List.mem_append.mp hj with hj | hj
        · exact hbest j hj hjn
        · rwa [List.mem_singleton.mp hj]
      · have hb : Beats mx (decodeF f (x.lane k)) (decodeF f (x.lane l)) := by
          cases mx <;> simp at hfirst
          · exact h2 hfirst
          · exact h1 hfirst
        rw [if_neg hfirst, decodeF_own]
        refine .inr ⟨k, by simp, hk, rfl, fun j hj hjn => ?_⟩
        rcases List.mem_append.mp hj with hj | hj
        · exact hb.trans (hbest j hj hjn)
        · rw [List.mem_singleton.mp hj]; exact beats_refl mx _

theorem isExtreme_foldl (more : List Nat) : ∀ {ls : List Nat} {t : FVal} {u : DWord}, t = decodeF f u → IsExtreme f mx x ls t →
    IsExtreme f mx x (ls ++ more) (more.foldl (extremeStep f mx x) t) := by
  induction more with
  | nil => intro ls t u _ h; simpa using h
  | cons k more ih =>
    intro ls t u ht h
    have := ih rfl (isExtreme_step ht h k)
    rwa [List.append_assoc] at this

end

theorem extremeF_cons (f : Fmt) (mx : Bool) (x : Opnd) (l : Nat) (more : List Nat) :
    extremeF f mx x (l :: more) = encodeF f (more.foldl (extremeStep f mx x) (decodeF f (x.lane l))) := rfl

theorem extremeF_spec (f : Fmt) (mx : Bool) (x : Opnd) {ls : List Nat} (h : ls ≠ []) :
    ((∀ l ∈ ls, (decodeF f (x.lane l)).isNan = true) → extremeF f mx x ls = nanBits f) ∧
    ((∃ l ∈ ls, (decodeF f (x.lane l)).isNan = false) → ∃ l ∈ ls, (decodeF f (x.lane l)).isNan = false ∧
      extremeF f mx x ls = f.own (x.lane l) ∧
      ∀ k ∈ ls, (decodeF f (x.lane k)).isNan = false → Beats mx (decodeF f (x.lane l)) (decodeF f (x.lane k))) := by
  obtain ⟨l, more, rfl⟩ := List.exists_cons_of_ne_nil h
  rw [extremeF_cons]
  have hex := isExtreme_foldl more rfl (isExtreme_one f mx x l)
  generalize more.foldl (extremeStep f mx x) (decodeF f (x.lane l)) = t at *
  rw [List.singleton_append] at hex
  rcases hex with ⟨hn, hall⟩ | ⟨k, hk, hnum, rfl, hbest⟩
  · refine ⟨fun _ => ?_, fun ⟨j, hj, hjn⟩ => ?_⟩
    · cases t with
      | nan s => rfl
      | inf n => cases hn
      | fin n m e => cases hn
    · rw [hall j hj] at hjn; cases hjn
  · refine ⟨fun hall => ?_, fun _ => ⟨k, hk, hnum, encodeF_decodeF hnum, hbest⟩⟩
    rw [hall k hk] at hnum; cases hnum

/-! ### Trees of sums -/

theorem leafF_eq (f : Fmt) (x : DWord) : leafF f x =
    if (decodeF f x).isNan then (nanBits f, if (decodeF f x).snan then excInv else 0) else (x, 0) := by
  unfold leafF
  cases decodeF f x <;> rfl

/-- The lanes 0 to 2^k − 1 are one node, and first lanes that end with a left node are those before it and that node. -/
theorem coverNodes_power : ∀ k, k ≤ 6 → coverNodes 7 0 (2 ^ k) = [(k, 0)] := by decide +kernel

theorem coverNodes_odd_all : ∀ k : Fin 6, ∀ h : Fin 32, 0 < h.val → (2 * h.val + 1) * 2 ^ k.val ≤ 64 →
    (coverNodes 7 0 (2 * h * 2 ^ k.val)).isEmpty = false ∧
    coverNodes 7 0 ((2 * h + 1) * 2 ^ k.val) = coverNodes 7 0 (2 * h * 2 ^ k.val) ++ [(k.val, 2 * h.val)] := by decide +kernel

theorem coverNodes_odd {k h : Nat} (hh : 0 < h) (hb : (2 * h + 1) * 2 ^ k ≤ 64) :
    coverNodes 7 0 (2 * h * 2 ^ k) ≠ [] ∧ coverNodes 7 0 ((2 * h + 1) * 2 ^ k) = coverNodes 7 0 (2 * h * 2 ^ k) ++ [(k, 2 * h)] := by
  have hk : k < 6 := by
    by_contra hc
    have h1 : 2 ^ 6 ≤ 2 ^ k := Nat.pow_le_pow_right (by decide) (by omega)
    have h2 : 3 * 2 ^ k ≤ (2 * h + 1) * 2 ^ k := Nat.mul_le_mul_right _ (by omega)
    omega
  have hh32 : h < 32 := by
    have : (2 * h + 1) * 1 ≤ (2 * h + 1) * 2 ^ k := Nat.mul_le_mul_left _ Nat.one_le_two_pow
    omega
  obtain ⟨hne, happ⟩ := coverNodes_odd_all ⟨k, hk⟩ ⟨h, hh32⟩ hh hb
  exact ⟨List.isEmpty_eq_false_iff.mp hne, happ⟩

/-- The first lanes as the sum of the nodes that cover them. -/
def sumNodes (f : Fmt) (r : Rnd) (leaf : Nat → DWord) (ps : List (Nat × Nat)) : FRes :=
  match ps with
  | [] => (0, 0)
  | (k, i) :: more => more.foldl (fun t p => addNode f r t (treeNode f r leaf p.1 p.2)) (treeNode f r leaf k i)

theorem prefixNode_eq (f : Fmt) (r : Rnd) (leaf : Nat → DWord) {n : Nat} (h : 0 < n) :
    prefixNode f r leaf (n - 1) = sumNodes f r leaf (coverNodes 7 0 n) := by
  rw [prefixNode, Nat.sub_add_cancel h]
  rfl

theorem sumNodes_append (f : Fmt) (r : Rnd) (leaf : Nat → DWord) {ps : List (Nat × Nat)} (h : ps ≠ []) (p : Nat × Nat) :
    sumNodes f r leaf (ps ++ [p]) = addNode f r (sumNodes f r leaf ps) (treeNode f r leaf p.1 p.2) := by
  obtain ⟨q, more, rfl⟩ := List.exists_cons_of_ne_nil h
  exact List.foldl_append ..

/-- Settles O54: each operation by the kinds of its operands, the extreme of lanes by induction over them, and the first lanes of a tree by
the nodes that cover them. -/
theorem specialOperands : Obligations.SpecialOperands := by
  unfold Obligations.SpecialOperands
  refine ⟨by decide, fun f n => ⟨decodeF_infBits f n, decodeF_nanBits f, decodeF_zeroBits f n⟩, fun f r => ⟨fun a b => ?_,
    fun d a b hab hba => fmaF_nan f r hab hba, arithmetic_inf_inf f r, fun n x hx => ?_, fun n k x d hx hd => fmaF_inf_product f r n k hx hd⟩,
    fun f mx x z => ⟨minMaxF_both_nan, minMaxF_left_nan, minMaxF_right_nan, fun ha hb => ?_⟩, fun a b => lt_fin, fun n x => lt_inf n,
    fun f mx x ls => ⟨fun h => by subst h; rfl, fun h hall => (extremeF_spec f mx x h).1 hall, fun hsome => ?_⟩,
    fun f r leaf => ⟨fun i => leafF_eq f (leaf i), fun k i => rfl, fun k hk => ?_, fun k h hh hb => ?_⟩⟩
  · exact ⟨fun h => (arithmetic_nan f r a b h).1, fun h => (arithmetic_nan f r a b h).2.1, fun h => (arithmetic_nan f r a b h).2.2⟩
  · obtain ⟨h1, h2, h3, h4, h5, h6⟩ := arithmetic_inf_fin f r n hx
    exact ⟨h1, h2, h3, h4, h5, h6, fun z hz h0 => divF_zero f r hx hz h0, fun d h0 => fmaF_inf_zero f r n d hx h0,
      fun y k hy => fmaF_inf_addend f r k hx hy⟩
  · exact ⟨by rw [minMaxF_numbers ha hb], minMaxF_result ha hb⟩
  · have hne : ls ≠ [] := by
      obtain ⟨l, hl, -⟩ := hsome
      exact List.ne_nil_of_mem hl
    obtain ⟨l, hl, hnum, hval, hbest⟩ := (extremeF_spec f mx x hne).2 hsome
    exact ⟨l, hl, hnum, hval, fun k hk hkn => beats_spec hnum hkn (hbest k hk hkn)⟩
  · rw [prefixNode_eq f r leaf (Nat.two_pow_pos k), coverNodes_power k hk]
    rfl
  · obtain ⟨hne, happ⟩ := coverNodes_odd hh hb
    have hp := Nat.two_pow_pos k
    rw [prefixNode_eq f r leaf (by positivity), prefixNode_eq f r leaf (by positivity), happ, sumNodes_append f r leaf hne]
    rfl

end Sys2Proof.Machine
end

section
/-! SUPPORT. What an MMA leaves in each cell (04 R90 to R92, R96; 10 R248, R249, R252, R253, R258). -/

namespace Sys2Proof.Machine

open Sys2Proof

/-! ### Exact values -/

theorem mulExact_fin {a b : FVal} (ha : a.isFin = true) (hb : b.isFin = true) :
    (mulExact a b).isFin = true ∧ (mulExact a b).rat = a.rat * b.rat ∧ (mulExact a b).neg = (a.neg != b.neg) := by
  obtain ⟨n1, m1, e1, rfl⟩ := fin_of_isFin ha
  obtain ⟨n2, m2, e2, rfl⟩ := fin_of_isFin hb
  exact ⟨rfl, rat_mul n1 n2 m1 m2 e1 e2, rfl⟩

/-- A value by its sign and its magnitude. -/
theorem rat_fin_of_abs {x : ℚ} {m : Nat} {e : Int} (h : |x| = m * 2 ^ e) (b : Bool) :
    (FVal.fin (if x = 0 then b else decide (x < 0)) m e).rat = x := by
  rw [FVal.rat_fin, ← h]
  rcases lt_trichotomy x 0 with hx | rfl | hx
  · simp [hx, hx.ne, abs_of_neg hx]
  · simp
  · simp [hx.ne', abs_of_pos hx, not_lt.mpr hx.le]

theorem addExact_fin {a b : FVal} (ha : a.isFin = true) (hb : b.isFin = true) :
    (addExact a b).isFin = true ∧ (addExact a b).rat = a.rat + b.rat ∧
    (addExact a b).neg = sumSign .rne a.neg b.neg (a.rat + b.rat) := by
  obtain ⟨n1, m1, e1, rfl⟩ := fin_of_isFin ha
  obtain ⟨n2, m2, e2, rfl⟩ := fin_of_isFin hb
  obtain ⟨m, e, hs, hx⟩ := sumFin_spec .rne n1 n2 m1 m2 e1 e2
  simp only [addExact, hs]
  exact ⟨rfl, rat_fin_of_abs hx _, rfl⟩

theorem exact_nan {a : FVal} (h : a.isNan = true) (b : FVal) :
    mulExact a b = .nan false ∧ mulExact b a = .nan false ∧ addExact a b = .nan false ∧ addExact b a = .nan false := by
  cases a with
  | nan s => cases b <;> exact ⟨rfl, rfl, rfl, rfl⟩
  | inf n => cases h
  | fin n m e => cases h

theorem exact_inf (n : Bool) {a : FVal} (h : a.isFin = true) :
    mulExact (.inf n) a = (if a.rat = 0 then .nan false else .inf (n != a.neg)) ∧
    mulExact a (.inf n) = (if a.rat = 0 then .nan false else .inf (a.neg != n)) ∧
    addExact (.inf n) a = .inf n ∧ addExact a (.inf n) = .inf n := by
  obtain ⟨k, m, e, rfl⟩ := fin_of_isFin h
  simp only [rat_fin_eq_zero]
  exact ⟨rfl, rfl, rfl, rfl⟩

theorem rneBits_rounds (f : Fmt) {a : FVal} (h : a.isFin = true) : ∃ e, Rounds f .rne a.neg (against a.rat) (rneBits f a, e) := by
  obtain ⟨n, m, e, rfl⟩ := fin_of_isFin h
  exact ⟨_, roundF_exact (abs_rat_fin n m e)⟩

theorem rneBits_special (f : Fmt) (a : FVal) : (a.isNan = true → rneBits f a = nanBits f) ∧ (∀ n, a = .inf n → rneBits f a = infBits f n) := by
  constructor
  · intro h
    cases a with
    | nan s => rfl
    | inf n => cases h
    | fin n m e => cases h
  · rintro n rfl
    rfl

/-! ### Sums of products -/

theorem foldl_addExact_fin (xs : List FVal) : ∀ {y : FVal}, y.isFin = true → (∀ x ∈ xs, x.isFin = true) →
    (xs.foldl addExact y).isFin = true ∧ (xs.foldl addExact y).rat = y.rat + (xs.map FVal.rat).sum := by
  induction xs with
  | nil => intro y hy _; exact ⟨hy, by simp⟩
  | cons x xs ih =>
    intro y hy h
    obtain ⟨hx, hxs⟩ := List.forall_mem_cons.mp h
    obtain ⟨hfin, hrat, -⟩ := addExact_fin hy hx
    obtain ⟨h1, h2⟩ := ih hfin hxs
    exact ⟨h1, by rw [List.foldl_cons, h2, hrat, List.map_cons, List.sum_cons, add_assoc]⟩

theorem sumExact_fin {xs : List FVal} (h : ∀ x ∈ xs, x.isFin = true) :
    (sumExact xs).isFin = true ∧ (sumExact xs).rat = (xs.map FVal.rat).sum := by
  cases xs with
  | nil => exact ⟨rfl, by simp [sumExact, FVal.rat]⟩
  | cons x xs =>
    obtain ⟨hx, hxs⟩ := List.forall_mem_cons.mp h
    obtain ⟨h1, h2⟩ := foldl_addExact_fin xs hx hxs
    exact ⟨h1, by rw [List.map_cons, List.sum_cons]; exact h2⟩

/-- An integer as an exact value: an exponent of 0. -/
def FVal.Whole (a : FVal) : Prop := ∃ n m, a = .fin n m 0

theorem FVal.Whole.mul {a b : FVal} (ha : a.Whole) (hb : b.Whole) : (mulExact a b).Whole := by
  obtain ⟨n, m, rfl⟩ := ha
  obtain ⟨k, j, rfl⟩ := hb
  exact ⟨_, _, rfl⟩

theorem FVal.Whole.add {a b : FVal} (ha : a.Whole) (hb : b.Whole) : (addExact a b).Whole := by
  obtain ⟨n, m, rfl⟩ := ha
  obtain ⟨k, j, rfl⟩ := hb
  simp only [addExact, sumFin, min_self]
  split <;> exact ⟨_, _, rfl⟩

theorem FVal.Whole.foldl_add (xs : List FVal) : ∀ {y : FVal}, y.Whole → (∀ x ∈ xs, x.Whole) → (xs.foldl addExact y).Whole := by
  induction xs with
  | nil => intro y hy _; exact hy
  | cons x xs ih =>
    intro y hy h
    obtain ⟨hx, hxs⟩ := List.forall_mem_cons.mp h
    exact ih (hy.add hx) hxs

theorem FVal.Whole.sum {xs : List FVal} (h : ∀ x ∈ xs, x.Whole) : (sumExact xs).Whole := by
  cases xs with
  | nil => exact ⟨_, _, rfl⟩
  | cons x xs =>
    obtain ⟨hx, hxs⟩ := List.forall_mem_cons.mp h
    exact FVal.Whole.foldl_add xs hx hxs

theorem FVal.Whole.isFin {a : FVal} (h : a.Whole) : a.isFin = true := by
  obtain ⟨n, m, rfl⟩ := h
  rfl

theorem whole_intExact (i : Int) : (intExact i).Whole := ⟨_, _, rfl⟩

theorem exactWord_toNat {a : FVal} (h : a.Whole) : (exactWord a).toNat = (⌊a.rat⌋ % 2 ^ 32).toNat := by
  obtain ⟨n, m, rfl⟩ := h
  have hr : (FVal.fin n m 0).rat = (scaled n m 0 0 : Int) := by rw [← scaled_eq n m (le_refl 0), zpow_zero, mul_one]
  rw [hr, Int.floor_intCast, exactWord, BitVec.toNat_ofInt]
  rfl

theorem addWord_toNat {x : FVal} (acc : DWord) (h : x.Whole) :
    ((acc.setWidth 32 + exactWord x).setWidth 64).toNat = ((acc.toNat + ⌊x.rat⌋) % 2 ^ 32).toNat := by
  rw [BitVec.toNat_setWidth, BitVec.toNat_add, BitVec.toNat_setWidth, exactWord_toNat h]
  omega

/-! ### Plane weights -/

/-- The first `p` bits of a byte, the highest first. -/
theorem foldl_bits (x : BitVec 8) (b : Nat → Bool) : ∀ p, p ≤ 8 → (∀ t, t < p → x.getLsbD (7 - t) = b t) →
    (List.range p).foldl (fun y t => 2 * y + if b t then 1 else 0) 0 = x.toNat / 2 ^ (8 - p) := by
  intro p
  induction p with
  | zero => intro _ _; exact (Nat.div_eq_of_lt x.isLt).symm
  | succ p ih =>
    intro hp h
    rw [List.range_succ, List.foldl_append, ih (by omega) fun t ht => h t (by omega), List.foldl_cons, List.foldl_nil,
      ← h p (by omega), BitVec.getLsbD, Nat.testBit_eq_decide_div_mod_eq]
    have hk : 8 - p = (7 - p) + 1 := by omega
    have hk' : 8 - (p + 1) = 7 - p := by omega
    rw [hk, hk', pow_succ, ← Nat.div_div_eq_div_mul]
    simp only [decide_eq_true_eq]
    split <;> omega

/-- The highest bits of a byte, read as two's complement, are its quotient. -/
theorem toSigned_high (x : BitVec 8) {p : Nat} (h1 : 1 ≤ p) (h8 : p ≤ 8) : toSigned p (x.toNat / 2 ^ (8 - p)) = x.toInt / 2 ^ (8 - p) := by
  have hp : (2 : ℤ) ^ p * 2 ^ (8 - p) = 256 := by rw [← pow_add]; norm_num [show p + (8 - p) = 8 by omega]
  have hhalf : 2 ^ (p - 1) * 2 ^ (8 - p) = 128 := by rw [← pow_add]; norm_num [show p - 1 + (8 - p) = 7 by omega]
  have hsplit : x.toInt = x.toNat + (if x.toNat < 128 then 0 else -(2 : ℤ) ^ p) * 2 ^ (8 - p) := by
    rw [BitVec.toInt_eq_toNat_cond]
    split <;> rename_i hx
    · rw [if_pos (by omega)]; ring
    · rw [if_neg (by omega), neg_mul, hp]; rfl
  have hlt : x.toNat / 2 ^ (8 - p) < 2 ^ (p - 1) ↔ x.toNat < 128 := by rw [Nat.div_lt_iff_lt_mul (Nat.two_pow_pos _), hhalf]
  rw [hsplit, Int.add_mul_ediv_right _ _ (by positivity)]
  simp only [toSigned, hlt]
  split <;> push_cast <;> ring

theorem planeWeight_eq {bs : List Byte} {off p e : Nat} (x : BitVec 8) (h1 : 1 ≤ p) (h8 : p ≤ 8)
    (h : ∀ t, t < p → x.getLsbD (7 - t) = (bs.getD (off + 8 * t + e / 8) 0).getLsbD (e % 8)) :
    planeWeight bs off p e = if p = 8 then x.toInt else x.toInt / 2 ^ (8 - p) * 2 ^ (8 - p) + 2 ^ (7 - p) := by
  rw [planeWeight, foldl_bits x (fun t => (bs.getD (off + 8 * t + e / 8) 0).getLsbD (e % 8)) p h8 h,
    toSigned_high x h1 h8]
  split
  · rename_i hp; subst hp; simp
  · rfl

theorem toSigned_byte (x : BitVec 8) : toSigned 8 x.toNat = x.toInt := by
  rw [toSigned, BitVec.toInt_eq_toNat_cond]
  split
  · rw [if_pos (by omega)]
  · rw [if_neg (by omega)]
    rfl

/-! ### Kept positions -/

theorem two_bits (row i : Nat) : row / 2 ^ i % 4 = (if row.testBit i then 1 else 0) + 2 * if row.testBit (i + 1) then 1 else 0 := by
  rw [Nat.testBit_eq_decide_div_mod_eq, Nat.testBit_eq_decide_div_mod_eq, pow_succ, ← Nat.div_div_eq_div_mul]
  simp only [decide_eq_true_eq]
  split <;> split <;> omega

theorem keptPos_two (row j : Nat) :
    keptPos 2 row j = 4 * j + (if row.testBit (2 * j) then 1 else 0) + 2 * if row.testBit (2 * j + 1) then 1 else 0 := by
  rw [add_assoc, ← two_bits]
  rfl

theorem keptPos_one (row j : Nat) : keptPos 1 row j = 4 * (j / 2) + (if j % 2 = 0
    then (if row.testBit (4 * (j / 2)) then 1 else 0) + 2 * (if row.testBit (4 * (j / 2) + 1) then 1 else 0)
    else (if row.testBit (4 * (j / 2) + 2) then 1 else 0) + 2 * (if row.testBit (4 * (j / 2) + 3) then 1 else 0)) := by
  have heq : keptPos 1 row j = j / 2 * 4 + row / 2 ^ (4 * (j / 2) + 2 * (j % 2)) % 4 := rfl
  rw [heq, two_bits, Nat.mul_comm (j / 2) 4]
  rcases Nat.mod_two_eq_zero_or_one j with h | h <;> rw [h] <;> rfl

/-! ### Numbers of bytes -/

theorem leNat_append (xs ys : List Byte) : leNat (xs ++ ys) = leNat xs + 256 ^ xs.length * leNat ys := by
  induction xs with
  | nil => simp [leNat]
  | cons x xs ih => simp only [List.cons_append, leNat, ih, List.length_cons, pow_succ]; ring

theorem sliceBytes_add (bs : List Byte) (o a b : Nat) : sliceBytes bs o (a + b) = sliceBytes bs o a ++ sliceBytes bs (o + a) b := by
  simp [sliceBytes, List.range_add, Function.comp_def, Nat.add_assoc]

theorem leAt_add (bs : List Byte) (o a b : Nat) : leAt bs o (a + b) = leAt bs o a + 256 ^ a * leAt bs (o + a) b := by
  rw [leAt, sliceBytes_add, leNat_append]
  simp [leAt, sliceBytes]

theorem leAt_eq_sum (bs : List Byte) (o k : Nat) :
    leAt bs o k = ((List.range k).map fun i => (bs.getD (o + i) 0).toNat * 256 ^ i).sum := by
  induction k with
  | zero => rfl
  | succ k ih => rw [leAt_add, leAt_one, ih, List.range_succ, List.map_append, List.sum_append]; simp [Nat.mul_comm]

theorem leAt_lt (bs : List Byte) (o k : Nat) : leAt bs o k < 256 ^ k := by
  induction k with
  | zero => exact Nat.one_pos
  | succ k ih =>
    have hb : leAt bs (o + k) 1 < 256 := by rw [leAt_one]; exact (bs.getD (o + k) 0).isLt
    rw [leAt_add, pow_succ]
    nlinarith

/-- The word of `k` bytes. -/
def wordOf (bs : List Byte) (o k : Nat) : DWord :=
  BitVec.ofNat 64 (((List.range k).map fun i => (bs.getD (o + i) 0).toNat * 256 ^ i).sum)

theorem wordOf_eq (bs : List Byte) (o k : Nat) : wordOf bs o k = BitVec.ofNat 64 (leAt bs o k) := by rw [wordOf, leAt_eq_sum]

theorem wordOf_toNat (bs : List Byte) (o : Nat) {k : Nat} (h : k ≤ 8) : (wordOf bs o k).toNat = leAt bs o k := by
  rw [wordOf_eq, BitVec.toNat_ofNat, Nat.mod_eq_of_lt]
  calc leAt bs o k < 256 ^ k := leAt_lt bs o k
    _ ≤ 256 ^ 8 := Nat.pow_le_pow_right (by decide) h
    _ = 2 ^ 64 := by norm_num

theorem metaRow_eq (side : List Byte) (m : Nat) :
    metaRow side m = (wordOf side (16 * m) 8).toNat + (wordOf side (16 * m + 8) 8).toNat * 2 ^ 64 := by
  rw [wordOf_toNat side _ le_rfl, wordOf_toNat side _ le_rfl, metaRow, leAt_add side (16 * m) 8 8]
  norm_num [Nat.mul_comm]

/-! ### Forms, rows and columns -/

theorem mmaForm_kind {md fmt : Word} {f : MmaForm} (h : mmaForm md fmt = some f) :
    (∃ g a, f.kind = .float g a ∧ (f.cols = 16 ∨ f.cols = 32 ∧ a = .f32) ∧ f.aBytes / (32 * g.bytes) = if f.spar = 0 then f.k else 32) ∨
    ∃ b w, f.kind = .planes b w ∧ f.cols = 32 ∧ (b = true → w = false) := by
  unfold mmaForm at h
  dsimp only at h
  split at h
  next =>
    obtain ⟨-, h⟩ := Option.ite_none_right_eq_some.mp h
    obtain rfl := Option.some.inj h
    exact .inl ⟨_, _, rfl, .inl rfl, rfl⟩
  next =>
    obtain ⟨-, h⟩ := Option.ite_none_right_eq_some.mp h
    obtain rfl := Option.some.inj h
    exact .inl ⟨_, _, rfl, .inr ⟨rfl, rfl⟩, rfl⟩
  next =>
    split at h
    · obtain rfl := Option.some.inj h
      exact .inr ⟨_, _, rfl, rfl, nofun⟩
    · obtain ⟨-, h⟩ := Option.ite_none_right_eq_some.mp h
      obtain rfl := Option.some.inj h
      exact .inr ⟨_, _, rfl, rfl, fun _ => rfl⟩
  next =>
    obtain ⟨-, h⟩ := Option.ite_none_right_eq_some.mp h
    obtain rfl := Option.some.inj h
    refine .inl ⟨_, _, rfl, .inr ⟨rfl, rfl⟩, ?_⟩
    dsimp only
    rw [show (if modeType md = 8 then Fmt.f16 else Fmt.bf16).bytes = 2 by split <;> rfl]
    split
    · rename_i h0; rw [h0]; rfl
    · rfl

theorem mmaForm_cols {md fmt : Word} {f : MmaForm} (h : mmaForm md fmt = some f) : f.cols = 16 ∨ f.cols = 32 := by
  rcases mmaForm_kind h with ⟨g, a, -, h, -⟩ | ⟨b, w, -, h, -⟩
  · exact h.imp_right And.left
  · exact .inr h

theorem mmaForm_acc {md fmt : Word} {f : MmaForm} (h : mmaForm md fmt = some f) (hc : f.cols = 32) {g a : Fmt}
    (hk : f.kind = .float g a) : a = .f32 := by
  rcases mmaForm_kind h with ⟨g', a', hk', h16 | ⟨-, ha⟩, -⟩ | ⟨b, w, hk', -⟩
  · omega
  · rw [hk'] at hk
    obtain ⟨-, rfl⟩ := MmaKind.float.inj hk
    exact ha
  · rw [hk'] at hk
    cases hk

section
variable {f : MmaForm} {g a : Fmt}

theorem aRow_float (hk : f.kind = .float g a) {kept : Nat} (h : f.aBytes / (32 * g.bytes) = kept) (p : Nat) (frag side : List Byte) (m : Nat) :
    aRow f p frag side m = (List.range kept).map fun j => (keptPos f.spar (metaRow side m) j,
      decodeF g (wordOf frag ((m * kept + j) * (g.width / 8)) (g.width / 8))) := by
  simp only [aRow, hk, h, wordOf_eq]
  rfl

theorem aRow_planes {b w : Bool} (hk : f.kind = .planes b w) (p : Nat) (frag side : List Byte) (m : Nat) :
    aRow f p frag side m = (List.range 64).map fun j => (keptPos f.spar (metaRow side m) j, intF (planeWeight frag (8 * p * m) p j)) := by
  simp only [aRow, hk, show m * 8 * p = 8 * p * m by ring]
  rfl

variable {parts : List (List Byte)} {n k : Nat}

/-- The part that holds a column, and where in it an element of the column lies. -/
def MmaForm.part (f : MmaForm) (parts : List (List Byte)) (n : Nat) : List Byte := parts.getD (n / (f.cols / parts.length)) []
def MmaForm.spot (f : MmaForm) (parts : List (List Byte)) (n k : Nat) : Nat := n % (f.cols / parts.length) * f.k + k

theorem bCol_float (hk : f.kind = .float g a) (h : k < f.k) : (bCol f parts n).getD k (.fin false 0 0) =
    decodeF g (wordOf (f.part parts n) (f.spot parts n k * (g.width / 8)) (g.width / 8)) := by
  simp only [bCol, hk, wordOf_eq, List.getD_eq_getElem?_getD, List.getElem?_map, List.getElem?_range h]
  rfl

theorem bCol_bf16 {w : Bool} (hk : f.kind = .planes true w) (h : k < f.k) : (bCol f parts n).getD k (.fin false 0 0) =
    decodeF .bf16 (wordOf (f.part parts n) (f.spot parts n k * 2) 2) := by
  simp only [bCol, hk, wordOf_eq, List.getD_eq_getElem?_getD, List.getElem?_map, List.getElem?_range h]
  rfl

theorem bCol_bytes {w : Bool} (hk : f.kind = .planes false w) (h : k < f.k) : (bCol f parts n).getD k (.fin false 0 0) =
    intF (BitVec.ofNat 8 (wordOf (f.part parts n) (f.spot parts n k) 1).toNat).toInt := by
  simp only [bCol, hk, wordOf_toNat _ _ (show 1 ≤ 8 by decide), leAt_one, List.getD_eq_getElem?_getD, List.getElem?_map,
    List.getElem?_range h, mul_one, BitVec.ofNat_toNat, BitVec.setWidth_eq, ← toSigned_byte]
  rfl

end

/-! ### Groups -/

section
variable {f : MmaForm} {row : List (Nat × FVal)} {col : List FVal} {g : Nat}

/-- The kept values of a group. -/
def groupOf (f : MmaForm) (row : List (Nat × FVal)) (g : Nat) : List (Nat × FVal) := row.filter fun x => x.1 / f.group == g

/-- The products of a group, and one +0 for the positions that no kept value names. -/
def groupTerms (f : MmaForm) (row : List (Nat × FVal)) (col : List FVal) (g : Nat) : List FVal :=
  ((groupOf f row g).map fun x => mulExact x.2 (col.getD x.1 (.fin false 0 0))) ++
    if (List.range f.group).any fun i => (groupOf f row g).all fun x => x.1 != g * f.group + i then [.fin false 0 0] else []

theorem mem_groupTerms {y : FVal} (h : y ∈ groupTerms f row col g) :
    (∃ x ∈ groupOf f row g, y = mulExact x.2 (col.getD x.1 (.fin false 0 0))) ∨ y = .fin false 0 0 := by
  rcases List.mem_append.mp h with h | h
  · obtain ⟨x, hx, rfl⟩ := List.mem_map.mp h
    exact .inl ⟨x, hx, rfl⟩
  · split at h
    · exact .inr (List.mem_singleton.mp h)
    · cases h

theorem groupSum_whole (h : ∀ x ∈ groupOf f row g, x.2.Whole ∧ (col.getD x.1 (.fin false 0 0)).Whole) : (groupSum f row col g).Whole := by
  refine FVal.Whole.sum fun y hy => ?_
  rcases mem_groupTerms hy with ⟨x, hx, rfl⟩ | rfl
  · exact (h x hx).1.mul (h x hx).2
  · exact ⟨_, _, rfl⟩

theorem groupSum_fin (h : ∀ x ∈ groupOf f row g, x.2.isFin = true ∧ (col.getD x.1 (.fin false 0 0)).isFin = true) :
    (groupSum f row col g).isFin = true ∧
    (groupSum f row col g).rat = ((groupOf f row g).map fun x => x.2.rat * (col.getD x.1 (.fin false 0 0)).rat).sum := by
  have hfin : ∀ y ∈ groupTerms f row col g, y.isFin = true := by
    intro y hy
    rcases mem_groupTerms hy with ⟨x, hx, rfl⟩ | rfl
    · exact (mulExact_fin (h x hx).1 (h x hx).2).1
    · rfl
  obtain ⟨h1, h2⟩ := sumExact_fin hfin
  refine ⟨h1, h2.trans ?_⟩
  rw [groupTerms, List.map_append, List.sum_append, List.map_map]
  have hzero : ∀ b : Bool, ((if b then [FVal.fin false 0 0] else []).map FVal.rat).sum = 0 := by
    intro b
    cases b <;> simp [FVal.rat]
  rw [hzero, add_zero]
  exact congrArg List.sum (List.map_congr_left fun x hx => (mulExact_fin (h x hx).1 (h x hx).2).2.1)

theorem lt_of_mem_groupOf {x : Nat × FVal} (hx : x ∈ groupOf f row g) (hg : g < f.k / f.group) : x.1 < f.k := by
  have hq : x.1 / f.group = g := by simpa using (List.mem_filter.mp hx).2
  by_contra hc
  have := Nat.div_le_div_right (c := f.group) (Nat.le_of_not_lt hc)
  omega

end

/-- Planes and bytes are whole numbers. -/
theorem groupOf_planes_whole {f : MmaForm} {w : Bool} (hk : f.kind = .planes false w) (p : Nat) (frag side : List Byte)
    (parts : List (List Byte)) (m n : Nat) {g : Nat} (hg : g < f.k / f.group) :
    ∀ x ∈ groupOf f (aRow f p frag side m) g, x.2.Whole ∧ ((bCol f parts n).getD x.1 (.fin false 0 0)).Whole := by
  refine fun x hx => ⟨?_, ?_⟩
  · have hx' := (List.mem_filter.mp hx).1
    rw [aRow_planes hk] at hx'
    obtain ⟨j, -, rfl⟩ := List.mem_map.mp hx'
    exact whole_intExact _
  · rw [bCol_bytes hk (lt_of_mem_groupOf hx hg)]
    exact whole_intExact _

/-! ### Elements -/

theorem addF_lt (f : Fmt) (r : Rnd) (a b : FVal) : (addF f r a b).1.toNat < 2 ^ f.width := by
  cases a with
  | nan s => exact nanBits_lt f
  | inf n =>
    cases b with
    | nan s => exact nanBits_lt f
    | inf k =>
      cases n <;> cases k
      · exact infBits_lt f _
      · exact nanBits_lt f
      · exact nanBits_lt f
      · exact infBits_lt f _
    | fin k m e => exact infBits_lt f n
  | fin n m e =>
    cases b with
    | nan s => exact nanBits_lt f
    | inf k => exact infBits_lt f k
    | fin k m' e' => exact (addF_rounds f r n k m m' e e').1

section
variable (f : MmaForm) (fmt : Word) (scales : List Word) (side frag : List Byte) (parts : List (List Byte)) (old : List Word) (m n : Nat)

/-- A group term added to the accumulator. -/
def mmaStep (row : List (Nat × FVal)) (col : List FVal) (acc : DWord) (g : Nat) : DWord :=
  match f.kind with
  | .float _ a => (addF a .rne (decodeF a acc) (decodeF a (rneBits a (groupSum f row col g)))).1
  | .planes _ true => (acc.setWidth 32 + exactWord (groupSum f row col g)).setWidth 64
  | .planes _ false => (addF .f32 .rne (decodeF .f32 acc) (decodeF .f32 (rneBits .f32
      (mulExact (groupSum f row col g) (decodeF .f32 ((scaleAt scales m (g * 16 / 2 ^ fmtSgrp fmt)).setWidth 64)))))).1

variable {f fmt scales m} in
theorem mmaStep_float {g a : Fmt} (hk : f.kind = .float g a) (row : List (Nat × FVal)) (col : List FVal) (acc : DWord) (i : Nat) :
    mmaStep f fmt scales m row col acc i = (addF a .rne (decodeF a acc) (decodeF a (rneBits a (groupSum f row col i)))).1 := by
  simp only [mmaStep, hk]

variable {f fmt scales m} in
theorem mmaStep_wrap {b : Bool} (hk : f.kind = .planes b true) (row : List (Nat × FVal)) (col : List FVal) (acc : DWord) (i : Nat) :
    mmaStep f fmt scales m row col acc i = (acc.setWidth 32 + exactWord (groupSum f row col i)).setWidth 64 := by
  simp only [mmaStep, hk]

variable {f fmt scales m} in
theorem mmaStep_scaled {b : Bool} (hk : f.kind = .planes b false) (row : List (Nat × FVal)) (col : List FVal) (acc : DWord) (i : Nat) :
    mmaStep f fmt scales m row col acc i = (addF .f32 .rne (decodeF .f32 acc) (decodeF .f32 (rneBits .f32
      (mulExact (groupSum f row col i) (decodeF .f32 ((scales.getD (16 * m + 16 * i / 2 ^ fmtSgrp fmt) 0).setWidth 64)))))).1 := by
  simp only [mmaStep, hk, scaleAt, Nat.mul_comm i 16]

/-- A cell of a tile: two words in a form of 16 columns, else one. -/
def MmaForm.cell (f : MmaForm) (cs : List Word) (m n : Nat) : DWord :=
  if f.cols = 16 then BitVec.ofNat 64 ((cs.getD (32 * m + 2 * n) 0).toNat + (cs.getD (32 * m + 2 * n + 1) 0).toNat * 2 ^ 32)
  else (cs.getD (32 * m + n) 0).setWidth 64

/-- The accumulator of a cell after the first groups. -/
def mmaAcc (g : Nat) : DWord :=
  (List.range g).foldl (mmaStep f fmt scales m (aRow f (fmtPlanes fmt) frag side m) (bCol f parts n)) (f.cell old m n)

theorem mmaAcc_zero : mmaAcc f fmt scales side frag parts old m n 0 = f.cell old m n := rfl

theorem mmaAcc_succ (g : Nat) : mmaAcc f fmt scales side frag parts old m n (g + 1) =
    mmaStep f fmt scales m (aRow f (fmtPlanes fmt) frag side m) (bCol f parts n) (mmaAcc f fmt scales side frag parts old m n g) g := by
  rw [mmaAcc, List.range_succ, List.foldl_append]
  rfl

/-- The words of a cell. -/
def MmaForm.words (f : MmaForm) (x : DWord) : List Word :=
  if f.cols = 16 then [x.extractLsb' 0 32, x.extractLsb' 32 32] else [x.setWidth 32]

end

/-- The number of words of a cell. -/
def MmaForm.perCell (f : MmaForm) : Nat := if f.cols = 16 then 2 else 1

theorem length_words (f : MmaForm) (x : DWord) : (f.words x).length = f.perCell := by
  unfold MmaForm.words MmaForm.perCell
  split <;> rfl

/-- Lists of one length in a row. -/
theorem length_flatMap_range {β : Type} {F : Nat → List β} {L : Nat} (h : ∀ m, (F m).length = L) (M : Nat) :
    ((List.range M).flatMap F).length = L * M := by
  simp [List.length_flatMap, h, Nat.mul_comm]

theorem getD_flatMap_range {β : Type} {F : Nat → List β} {L : Nat} (h : ∀ m, (F m).length = L) {M m i : Nat} (hm : m < M) (hi : i < L) (d : β) :
    ((List.range M).flatMap F).getD (L * m + i) d = (F m).getD i d := by
  induction M with
  | zero => cases hm
  | succ M ih =>
    rw [List.range_succ, List.flatMap_append, List.flatMap_singleton]
    rcases Nat.lt_succ_iff_lt_or_eq.mp hm with hlt | rfl
    · have hin : L * m + i < ((List.range M).flatMap F).length := by
        rw [length_flatMap_range h]
        nlinarith
      rw [List.getD_append _ _ _ _ hin, ih hlt]
    · rw [List.getD_append_right _ _ _ _ (by rw [length_flatMap_range h]; omega), length_flatMap_range h, Nat.add_sub_cancel_left]

/-! ### Cells -/

section
variable (f : MmaForm) (fmt : Word) (scales : List Word) (side frag : List Byte) (parts : List (List Byte)) (old : List Word)

/-- The cell that the accumulator starts from, as the model reads it. -/
theorem cell_eq_drop (m n : Nat) : f.cell old m n = if f.cols = 16
    then (old.drop (32 * m)).getD (2 * n + 1) 0 ++ (old.drop (32 * m)).getD (2 * n) 0 else ((old.drop (32 * m)).getD n 0).setWidth 64 := by
  have hdrop : ∀ i, (old.drop (32 * m)).getD i 0 = old.getD (32 * m + i) 0 := fun i => by
    rw [List.getD_eq_getElem?_getD, List.getElem?_drop, List.getD_eq_getElem?_getD]
  rw [hdrop, hdrop, hdrop, MmaForm.cell]
  congr 1
  apply BitVec.eq_of_toNat_eq
  have hlo := (old.getD (32 * m + 2 * n) 0).isLt
  have hhi := (old.getD (32 * m + (2 * n + 1)) 0).isLt
  rw [BitVec.toNat_append, ← Nat.shiftLeft_add_eq_or_of_lt hlo, BitVec.toNat_ofNat, Nat.shiftLeft_eq, Nat.add_assoc (32 * m),
    Nat.mod_eq_of_lt (by omega), Nat.add_comm]

/-- The words of a row of cells after an MMA. -/
def mmaRowWords (m : Nat) : List Word :=
  (List.range f.cols).flatMap fun n => f.words (mmaAcc f fmt scales side frag parts old m n (f.k / f.group))

theorem mmaCells_eq : mmaCells f fmt scales side frag parts old = (List.range 32).flatMap (mmaRowWords f fmt scales side frag parts old) := by
  refine List.flatMap_congr fun m _ => List.flatMap_congr fun n hn => ?_
  have hcol : ((List.range f.cols).map (bCol f parts)).getD n [] = bCol f parts n := by
    rw [List.getD_eq_getElem?_getD, List.getElem?_map, List.getElem?_range (List.mem_range.mp hn)]
    rfl
  dsimp only
  rw [hcol, mmaAcc, cell_eq_drop, MmaForm.words]
  split <;> rfl

variable {f} (hcols : f.cols = 16 ∨ f.cols = 32)
include hcols

theorem perCell_mul_cols : f.perCell * f.cols = 32 := by
  rw [MmaForm.perCell]
  rcases hcols with h | h <;> simp [h]

theorem length_mmaRowWords (m : Nat) : (mmaRowWords f fmt scales side frag parts old m).length = 32 :=
  (length_flatMap_range (fun _ => length_words f _) f.cols).trans (perCell_mul_cols hcols)

theorem length_mmaCells : (mmaCells f fmt scales side frag parts old).length = 1024 := by
  rw [mmaCells_eq, length_flatMap_range (length_mmaRowWords fmt scales side frag parts old hcols)]

/-- Each word of each cell after an MMA. -/
theorem mmaCells_getD {m n i : Nat} (hm : m < 32) (hn : n < f.cols) (hi : i < f.perCell) :
    (mmaCells f fmt scales side frag parts old).getD (32 * m + (f.perCell * n + i)) 0 =
      (f.words (mmaAcc f fmt scales side frag parts old m n (f.k / f.group))).getD i 0 := by
  have hin : f.perCell * n + i < 32 := by
    have := Nat.mul_le_mul_left f.perCell (Nat.succ_le_of_lt hn)
    rw [perCell_mul_cols hcols] at this
    rw [Nat.mul_succ] at this
    omega
  rw [mmaCells_eq, getD_flatMap_range (length_mmaRowWords fmt scales side frag parts old hcols) hm hin, mmaRowWords,
    getD_flatMap_range (fun n => length_words f _) hn hi]

theorem cell_mmaCells {m n : Nat} (hm : m < 32) (hn : n < f.cols)
    (hlt : f.cols = 32 → (mmaAcc f fmt scales side frag parts old m n (f.k / f.group)).toNat < 2 ^ 32) :
    f.cell (mmaCells f fmt scales side frag parts old) m n = mmaAcc f fmt scales side frag parts old m n (f.k / f.group) := by
  have hget := fun i => mmaCells_getD fmt scales side frag parts old hcols (i := i) hm hn
  generalize mmaAcc f fmt scales side frag parts old m n (f.k / f.group) = x at *
  rcases hcols with h | h
  · have hper : f.perCell = 2 := if_pos h
    have h0 := hget 0
    have h1 := hget 1
    rw [hper, MmaForm.words, if_pos h] at h0 h1
    rw [Nat.add_zero] at h0
    rw [MmaForm.cell, if_pos h, Nat.add_assoc, h0 (by decide), h1 (by decide)]
    apply BitVec.eq_of_toNat_eq
    simp [BitVec.extractLsb'_toNat, Nat.shiftRight_eq_div_pow]
    omega
  · have hper : f.perCell = 1 := if_neg (by omega)
    have h0 := hget 0
    rw [hper, MmaForm.words, if_neg (by omega), one_mul, Nat.add_zero] at h0
    rw [MmaForm.cell, if_neg (by omega), h0 (by decide)]
    refine BitVec.eq_of_toNat_eq ?_
    have := hlt h
    simp
    omega

end

/-- A form of 32 columns accumulates in words. -/
theorem mmaAcc_lt {f : MmaForm} {fmt : Word} {scales : List Word} {side frag : List Byte} {parts : List (List Byte)} {old : List Word}
    {m n : Nat} (h : f.cols = 32) (hk : ∀ {g a : Fmt}, f.kind = .float g a → a = .f32) :
    ∀ g, (mmaAcc f fmt scales side frag parts old m n g).toNat < 2 ^ 32
  | 0 => by
    rw [mmaAcc_zero, MmaForm.cell, if_neg (by omega), BitVec.toNat_setWidth]
    omega
  | g + 1 => by
    rw [mmaAcc_succ, mmaStep]
    split
    next g a hka =>
      obtain rfl := hk hka
      exact addF_lt ..
    next =>
      rw [BitVec.toNat_setWidth]
      omega
    next => exact addF_lt ..

/-- Settles O57: an accumulator is the fold of its group terms, and the words of the cells are the accumulators' words in order. -/
theorem matrixArithmetic : Obligations.MatrixArithmetic := by
  unfold Obligations.MatrixArithmetic
  refine ⟨fun a b ha hb => ?_, fun n k a => ⟨rfl, rfl, exact_nan, exact_inf n⟩,
    fun f a => ⟨(rneBits_special f a).1, (rneBits_special f a).2, rneBits_rounds f⟩,
    fun bs off p e x h1 h8 _ => planeWeight_eq x h1 h8, fun row j _ => ⟨rfl, keptPos_two row j, keptPos_one row j⟩,
    fun md fmt f scales side frag parts old hf _ _ => ?_⟩
  · obtain ⟨h1, h2, h3⟩ := mulExact_fin ha hb
    exact ⟨h1, h2, h3, addExact_fin ha hb⟩
  intro p per le metas row col size new cell
  have hp : fmtPlanes fmt = p := by simp [fmtPlanes, p, BitVec.extractLsb'_toNat]
  have hmetas : ∀ m, metaRow side m = metas m := metaRow_eq side
  have hrow : ∀ m, row m = aRow f (fmtPlanes fmt) frag side m := by
    intro m
    rcases mmaForm_kind hf with ⟨g, a, hk, -, hkept⟩ | ⟨b, w, hk, -, -⟩
    · rw [aRow_float hk hkept, hmetas]
      simp only [row, hk]
      rfl
    · rw [aRow_planes hk, hmetas, hp]
      simp only [row, hk]
  have hcol : ∀ n k, k < f.k → col n k = (bCol f parts n).getD k (.fin false 0 0) := by
    intro n k h
    rcases mmaForm_kind hf with ⟨g, a, hk, -, -⟩ | ⟨b, w, hk, -, -⟩
    · rw [bCol_float hk h]
      simp only [col, hk]
      rfl
    · cases b with
      | true =>
        rw [bCol_bf16 hk h]
        simp only [col, hk]
        rfl
      | false =>
        rw [bCol_bytes hk h]
        simp only [col, hk]
        rfl
  refine ⟨length_mmaCells fmt scales side frag parts old (mmaForm_cols hf), fun m n hm hn =>
    ⟨mmaAcc f fmt scales side frag parts old m n, rfl,
      (cell_mmaCells fmt scales side frag parts old (mmaForm_cols hf) hm hn fun h => mmaAcc_lt h (mmaForm_acc hf h) _).symm, fun g hg => ?_⟩⟩
  intro ps finite sum
  have hps : ps = groupOf f (aRow f (fmtPlanes fmt) frag side m) g := by rw [← hrow]; rfl
  have hat : ∀ x ∈ groupOf f (aRow f (fmtPlanes fmt) frag side m) g, col n x.1 = (bCol f parts n).getD x.1 (.fin false 0 0) :=
    fun x hx => hcol n x.1 (lt_of_mem_groupOf hx hg)
  have hsum : sum = ((groupOf f (aRow f (fmtPlanes fmt) frag side m) g).map fun x =>
      x.2.rat * ((bCol f parts n).getD x.1 (.fin false 0 0)).rat).sum := by
    rw [← List.map_congr_left fun x hx => by rw [← hat x hx], ← hps]
  refine ⟨groupSum f (aRow f (fmtPlanes fmt) frag side m) (bCol f parts n) g, fun hfin => ?_, ?_⟩
  · rw [hsum]
    refine groupSum_fin fun x hx => ?_
    rw [← hat x hx]
    exact hfin x (hps ▸ hx)
  · rw [mmaAcc_succ]
    rcases mmaForm_kind hf with ⟨g', a, hk, -, -⟩ | ⟨b, w, hk, -, hb⟩
    · rw [mmaStep_float hk, hk]
    cases w with
    | false => rw [mmaStep_scaled hk, hk]
    | true =>
      cases b with
      | true => cases hb rfl
      | false =>
        have hwhole := groupOf_planes_whole hk (fmtPlanes fmt) frag side parts m n hg
        have hrat := (groupSum_fin fun x hx => ⟨(hwhole x hx).1.isFin, (hwhole x hx).2.isFin⟩).2
        rw [mmaStep_wrap hk, hk, hsum, ← hrat]
        exact addWord_toNat _ (groupSum_whole hwhole)

end Sys2Proof.Machine
end
